-- ==== Sys2Proof/Word.lean ====
section
/-!
DEFINITION. The words of the VXF-56 and the one shape of sparse table the state uses.
-/

namespace Sys2Proof

/-- One byte of memory. -/
abbrev Byte := BitVec 8
/-- One 32-bit register lane (R71). -/
abbrev Word := BitVec 32
/-- A 64-bit value: an even/odd pair, an address, a reference (R72, R77). -/
abbrev DWord := BitVec 64
/-- One 16-bit parcel of code (R287). -/
abbrev Parcel := BitVec 16

/-- A sparse table keyed by a number; an unlisted key reads as the default the reader names. -/
abbrev Tab (α : Type) := List (Nat × α)

/-- The value at key `k`, if one is listed. -/
def Tab.get? {α : Type} (k : Nat) : Tab α → Option α
  | [] => none
  | (k', v) :: t => if k = k' then some v else Tab.get? k t

/-- The value at key `k`, or `d`. -/
def Tab.get {α : Type} (d : α) (t : Tab α) (k : Nat) : α := (Tab.get? k t).getD d

/-- The table with `v` at key `k`, keys kept ascending. -/
def Tab.set {α : Type} (k : Nat) (v : α) : Tab α → Tab α
  | [] => [(k, v)]
  | (k', v') :: t =>
    if k = k' then (k, v) :: t
    else if k < k' then (k, v) :: (k', v') :: t
    else (k', v') :: Tab.set k v t

/-- The table without key `k`. -/
def Tab.erase {α : Type} (k : Nat) (t : Tab α) : Tab α := t.filter (fun e => e.1 ≠ k)

/-- The 32 lane numbers. -/
def lanes32 : List Nat := List.range 32

end Sys2Proof
end

