-- ==== Sys2Proof/Config.lean ====
section
/-!
DEFINITION. What one VXF-56 fixes (R1, R2, R17, R18), and the free values: constants without a body that stand
for every value the spec leaves undefined (R6) or bounds only (R364).
-/

namespace Sys2Proof.Config

/-- Domains of a wafer, a 7-row by 8-column mesh (R1). -/
def domains : Nat := 56
/-- Core slots of a domain (R1). -/
def coreSlots : Nat := 56
/-- Bays of a domain, eight core slots each (R1). -/
def bays : Nat := 7
/-- Most wafers of a pod: wafer numbers have 4 bits (R107). -/
def wafers : Nat := 16

/-- DEDUCED (log 4): the n-th free value, taken wherever the spec calls a value undefined (R6).
It has no body, so nothing can be proved of the value itself. -/
opaque freeValue : Nat → BitVec 64

/-- The approximate result the device's tables give for an operation, before it is held to the bound of R364
(log 9). The arguments are the function's number, FPMODE.FTZ and the operand's bits as FP32; the value picks one of the results
the bound allows. -/
opaque approx : Nat → Bool → BitVec 32 → Nat

/-- The bytes an SPDM answer of the given kind carries beyond the facts of R492 (log 12). -/
opaque spdmBytes : Nat → Nat → List (BitVec 8)

/-- The hash of the firmware image of a security version on a domain, and of the boot ROM's version, as a measurement shows them
(R492, log 12). -/
opaque firmwareHash : Nat → BitVec 32 → List (BitVec 8)

/-- The next free choice among `n` alternatives of an unspecified outcome (log 4). -/
def freeChoice (ctr n : Nat) : Nat := (freeValue ctr).toNat % n

end Sys2Proof.Config
end

