-- ==== Sys2Proof/Syntax.lean ====
section
/-!
DEFINITION. The steps of the VXF-56: one constructor of Instr for each of the 441 rows of the table of operations and
events, and the operands beside them, one shape per encoding format, every field of the encoding kept raw (R289, R291,
R293-R295, R302, R305), so that no bit is lost between the code and the step. Instr itself is an enumeration: Lean's
runtime holds at most 245 constructors with fields in one type, and the table has 441 rows (log 13).
-/

namespace Sys2Proof

/-- The fields of an S16 instruction (R289). -/
structure F16 where
  d : BitVec 6
  s : BitVec 5
  deriving DecidableEq, Repr

/-- The fields of an L32 instruction (R291): D, A and B or IMM7. -/
structure F32 where
  d : BitVec 7
  a : BitVec 7
  b : BitVec 7
  deriving DecidableEq, Repr

/-- The fields of `pblk` (R302): PRED, CNT, PAT and the bits that must be zero. -/
structure FPblk where
  p : BitVec 3
  c : BitVec 3
  t : BitVec 8
  z : BitVec 7
  deriving DecidableEq, Repr

/-- The fields of `ordp` (R305): ORD, SCP and the bits that must be zero. -/
structure FOrdp where
  o : BitVec 2
  s : BitVec 2
  z : BitVec 17
  deriving DecidableEq, Repr

/-- The fields of an L64 instruction of sub-format A (R293). -/
structure FmtA where
  d : BitVec 9
  a : BitVec 9
  b : BitVec 9
  c : BitVec 9
  ty : BitVec 3
  rnd : BitVec 3
  strict : BitVec 3
  lkind : BitVec 3
  lamt : BitVec 5
  deriving DecidableEq, Repr

/-- The fields of an L64 instruction of sub-format B (R294). -/
structure FmtB where
  d : BitVec 9
  a : BitVec 9
  ty : BitVec 3
  imm : BitVec 32
  deriving DecidableEq, Repr

/-- The fields of an L64 instruction of sub-format C (R295). -/
structure FmtC where
  d : BitVec 9
  base : BitVec 9
  data : BitVec 9
  off : BitVec 14
  width : BitVec 3
  hint : BitVec 2
  scope : BitVec 2
  order : BitVec 3
  sbase : Bool
  sdata : Bool
  deriving DecidableEq, Repr

/-- Who writes a register of the control aperture (R95, R96, R107): the host through BAR0, the Lodge boot
firmware, or privileged device code, with the world of the request. -/
inductive Origin where
  | host
  | firmware (secure : Bool)
  | device (secure : Bool)
  deriving DecidableEq, Repr

/-- What names the units and messages an event concerns (log 3): keys `k`, `i`, `j`, a register value, a flag, bytes
and the writer of a register. Each event of Instr says which of them it reads. -/
structure EvArgs where
  k : Nat := 0
  i : Nat := 0
  j : Nat := 0
  v : BitVec 32 := 0
  flag : Bool := false
  data : List (BitVec 8) := []
  orig : Origin := .host
  deriving DecidableEq, Repr

/-- The operands of a step, by the format of its encoding. -/
inductive Ops where
  | s16 (f : F16)
  | l32 (f : F32)
  | pblk (f : FPblk)
  | ordp (f : FOrdp)
  | a (f : FmtA)
  | b (f : FmtB)
  | c (f : FmtC)
  | event (f : EvArgs)
  deriving DecidableEq, Repr

/-- One step of the machine: an instruction of the three planes, or an event of the units around the warps. -/
inductive Instr where
  -- S16 (R289, R290)
  | s16AddI32
  | s16SubI32
  | s16Mov
  | s16AndB32
  | s16OrB32
  | s16XorB32
  | s16ShlB32
  | s16ShrN32
  | s16MinI32
  | s16MaxI32
  | s16FaddF32
  | s16FsubF32
  | s16FmulF32
  | s16FmacF32
  | s16FminF32
  | s16FmaxF32
  -- L32 (R291, R302, R305, R316)
  | nop
  | exit
  | join
  | ret
  | yield
  | trapL32
  | addI32L32
  | subI32L32
  | mulLoI32L32
  | mulHiI32L32
  | mulHiN32L32
  | minI32L32
  | maxI32L32
  | minN32L32
  | maxN32L32
  | andB32L32
  | orB32L32
  | xorB32L32
  | shlB32L32
  | shrN32L32
  | shrI32L32
  | rotlB32L32
  | rotrB32L32
  | addSatI32L32
  | subSatI32L32
  | movL32
  | absI32L32
  | negI32L32
  | notB32L32
  | popcB32L32
  | clzB32L32
  | ctzB32L32
  | brevB32L32
  | addI32ImmL32
  | mulLoI32ImmL32
  | andB32ImmL32
  | orB32ImmL32
  | xorB32ImmL32
  | shlB32ImmL32
  | shrN32ImmL32
  | shrI32ImmL32
  | minI32ImmL32
  | maxI32ImmL32
  | moviL32
  | faddF32L32
  | fsubF32L32
  | fmulF32L32
  | fminF32L32
  | fmaxF32L32
  | fmacF32L32
  | uaddI32L32
  | usubI32L32
  | uandB32L32
  | uorB32L32
  | uxorB32L32
  | ushlB32L32
  | ushrN32L32
  | umovL32
  | uaddI32ImmL32
  | uandB32ImmL32
  | ushlB32ImmL32
  | ushrN32ImmL32
  | ldI8L32
  | ldN8L32
  | ldI16L32
  | ldN16L32
  | ldB32L32
  | ldB64L32
  | stB8L32
  | stB16L32
  | stB32L32
  | stB64L32
  | ldsB32L32
  | stsB32L32
  | ldkB32L32
  | atomAddN32L32
  | atomMinI32L32
  | atomMaxI32L32
  | atomMinN32L32
  | atomMaxN32L32
  | atomAndB32L32
  | atomOrB32L32
  | atomXorB32L32
  | atomXchgB32L32
  | redAddN32L32
  | redMinI32L32
  | redMaxI32L32
  | redMinN32L32
  | redMaxN32L32
  | redAndB32L32
  | redOrB32L32
  | redXorB32L32
  | waitvEqL32
  | waitvNeL32
  | barArrive
  | barWait
  | barSync
  | barReset
  | gbar
  | gbarArrive
  | gbarWait
  | pblk
  | ordp
  -- L64 (R293-R295, R318)
  | add
  | sub
  | mulLo
  | mulHi
  | madLo
  | madHi
  | mulFull
  | madFull
  | div
  | rem
  | min
  | max
  | abs
  | neg
  | addSat
  | subSat
  | and
  | or
  | xor
  | not
  | andn
  | shl
  | rotl
  | rotr
  | bfi
  | popc
  | clz
  | ctz
  | brev
  | shr
  | bfe
  | cmpEq
  | cmpNe
  | cmpLt
  | cmpLe
  | cmpGt
  | cmpGe
  | sel
  | mov
  | lea
  | addImm
  | mulLoImm
  | minImm
  | maxImm
  | shrImm
  | andImm
  | orImm
  | xorImm
  | shlImm
  | movi
  | leaImm
  | pand
  | por
  | pxor
  | pandn
  | pnot
  | pmov
  | pset
  | pget
  | bra
  | braU
  | braAny
  | braAll
  | braIdx
  | call
  | callIdx
  | loop
  | lcmov
  | sleep
  | trap
  | fadd
  | fsub
  | fmul
  | ffma
  | fmin
  | fmax
  | fabs
  | fneg
  | fcmpEq
  | fcmpNe
  | fcmpLt
  | fcmpLe
  | fcmpGt
  | fcmpGe
  | fcmpUn
  | fsel
  | fclass
  | fdiv
  | fsqrt
  | frcp
  | frsq
  | fexp2
  | flog2
  | fsin
  | fcos
  | ftanh
  | cvtFloat
  | cvtNarrow
  | cvtInt
  | cvtE8m0
  | cvtPk
  | cvtUpk
  | faddImm
  | fmulImm
  | ffmaImm
  | lrdAt
  | lrdFlip
  | lrdOff
  | lrdRot
  | alike
  | lany
  | lall
  | lmask
  | lfirst
  | lred
  | lscan
  | lcount
  | uadd
  | usub
  | umulLo
  | uand
  | uor
  | uxor
  | ushl
  | ushr
  | umin
  | umax
  | umov
  | umovi
  | ld
  | ldSx
  | st
  | ldk
  | lds
  | ldsSx
  | sts
  | stm
  | prefetch
  | cwb
  | cinv
  | cflush
  | waitv
  | atomAdd
  | atomFadd
  | atomMinI
  | atomMinN
  | atomMaxI
  | atomMaxN
  | atomAnd
  | atomOr
  | atomXor
  | atomXchg
  | atomCas
  | atomIncwrap
  | redAdd
  | redFadd
  | redMinI
  | redMinN
  | redMaxI
  | redMaxN
  | redAnd
  | redOr
  | redXor
  | redIncwrap
  | fenceAcq
  | fenceRel
  | fenceAr
  | fenceSc
  | hld
  | hst
  | hldf
  | hstf
  | hcas
  | hcmp
  | hpin
  | hunpin
  | hnull
  | hphase
  | hcopy
  | hsize
  | mma
  | mmaPair
  | mzero
  | mload
  | mdrain
  | mbatch
  | mwait
  | mrow
  | enl
  | fix
  | ewait
  | lfirstBc
  | glaunchDomain
  | glaunchWafer
  | glaunchPod
  | gcancel
  | gpoll
  | gstat
  | ghint
  | gfault
  | gid
  | csrr
  | csrw
  | csrs
  | csrc
  | tret
  | wswitch
  | xlatUpd
  | pgmig
  | rgnSetclass
  | ilock
  | iunlock
  | iprefetch
  | halt
  | perf
  -- events
  | powerOn   -- k = w
  | domainUp   -- k = dk
  | safelightStep
  | pendingExchange   -- k = ck, i = slot
  | rotation   -- k = bid, i = wi
  | park   -- k = bid, i = wi
  | sleepExpire   -- k = bid, i = wi, j = slot
  | waitvPoll   -- k = tag
  | breakpointMatch   -- k = bid, i = wi, j = slot
  | preempt   -- k = bid
  | saveRecordReserved   -- k = dk
  | preemptSave   -- k = bid
  | blockResume   -- k = dk
  | cancel   -- k = lvl, i = key
  | deferredFault   -- k = bid, i = wi
  | operandLogEntry   -- k = tag
  | heldFaultRecordWrite   -- k = dk
  | fltreply   -- k = dk, v = value
  | oplogReplay   -- k = bid, i = wi, j = entry
  | loadResponse   -- k = id
  | longOpArrival   -- k = tag
  | storeAck   -- k = id
  | writeBufferDrain   -- k = ck, i = bank
  | instructionFetch   -- k = bid, i = wi, j = slot
  | requestTranslate   -- k = id
  | tlbWalkDone   -- k = dk, i = page
  | homeSliceRequest   -- k = id
  | homeRmw   -- k = id
  | visitorReadRequest   -- k = id
  | ownershipRequest   -- k = id
  | directoryGrant   -- k = id
  | directoryProbe   -- k = id
  | probeAnswer   -- k = id
  | mWriteback   -- k = dk, i = line
  | patrolScrub   -- k = dk, i = sector, j = kind
  | xlatPurge   -- k = op, i = ck
  | migrationStart   -- k = dk
  | migrationSwitch   -- k = dk
  | migrationRelease   -- k = dk
  | cxlHostSharedRead   -- k = w, i = half
  | cxlHostOwnershipRead   -- k = w, i = half
  | cxlHostWriteBack   -- k = w, i = half, data = bytes, flag = keep
  | backInvalidationResponse   -- k = w, i = half, data = bytes
  | bridgeAccess   -- k = id
  | inboundAccess   -- k = dk, i = off, flag = wr, data = bytes
  | podRemoteRequest   -- k = id
  | linkBeatCrcError   -- k = w, i = link
  | starvationToken   -- k = dk
  | matrixOpTurn   -- k = ck
  | engineCommandStart   -- k = bk, i = eng, j = cmd
  | engineCompletion   -- k = bk, i = eng, j = cmd
  | launchAtRoot   -- k = id
  | glaunchIssue   -- k = bid, i = wi, j = slot
  | glaunchReply   -- k = id
  | pavilionDeal   -- k = w
  | pergolaPlace   -- k = w
  | arborUnitArrival   -- k = dk
  | blockStart   -- k = dk
  | arborOffer   -- k = dk
  | pergolaOffer   -- k = w
  | freeCountPublish   -- k = w
  | blockRetire   -- k = bid
  | countReport   -- k = lvl, i = key
  | notify   -- k = dk, i = q, v = value, flag = sec
  | qcmdLoad   -- k = dk, i = q
  | qcmdDisable   -- k = dk, i = q
  | queueInvalidation   -- k = dk
  | entryNop   -- k = q
  | entryLaunch   -- k = q
  | entryWait   -- k = q
  | queueWaitPoll   -- k = q
  | entrySignal   -- k = q
  | entryFence   -- k = q
  | schedmodeWrite   -- k = ck, v = value
  | slewup   -- k = bk, v = value
  | slewdown   -- k = bk, v = value
  | ramplo   -- k = bk, v = value
  | arbpre   -- k = dk, v = value
  | l2split   -- k = dk, v = value
  | l2splitDone   -- k = dk
  | relcmdStart   -- k = dk, flag = sec
  | relcmdRetire   -- k = dk, flag = sec
  | relcmdSweep   -- k = dk, flag = sec
  | orangeryCopy   -- k = dk
  | resolveRequest   -- k = id
  | healingCas   -- k = id
  | sweepWord   -- k = dk
  | dbgcmdRelease   -- k = dk, flag = sec
  | dbgcmdDiscard   -- k = dk, flag = sec
  | dbgcmdBreak   -- k = dk, i = slot, flag = sec
  | topobaseWrite   -- k = w, v = value
  | cntclr   -- k = dk, v = value
  | dirrd   -- k = dk, v = value
  | dirrdDone   -- k = dk
  | registerWrite   -- k = w, i = off, orig = writer, v = value, j = host port, data = bytes of a host write of another width
  | spdmGetVersion   -- k = w
  | spdmGetCapabilities   -- k = w
  | spdmNegotiateAlgorithms   -- k = w
  | spdmGetDigests   -- k = w
  | spdmGetCertificate   -- k = w
  | spdmChallenge   -- k = w, i = nonce
  | spdmGetMeasurements   -- k = w
  | spdmUnsupported   -- k = w, i = code
  | powerLoss   -- k = w
  | outsideRatedConditions   -- k = w, flag = hold
  | firmwareUpdate   -- k = w, i = ver, flag = sigOk
  | linkTraining   -- k = w, i = link, flag = ok, j = far end: wafer + 16 link
  deriving DecidableEq, Repr

/-- An instruction with its operands. -/
structure Ins where
  instr : Instr
  ops : Ops
  deriving DecidableEq, Repr

/-- The encoding formats. -/
inductive Format where
  | s16 | l32 | pblk | ordp | a | b | c | event
  deriving DecidableEq, Repr

/-- The format of the operands. -/
def Ops.format : Ops → Format
  | .s16 _ => .s16
  | .l32 _ => .l32
  | .pblk _ => .pblk
  | .ordp _ => .ordp
  | .a _ => .a
  | .b _ => .b
  | .c _ => .c
  | .event _ => .event

/-- The format of each row (R289, R316, R318) and its opcode number in its plane; events have none. -/
def Instr.row : Instr → Format × Nat
  | .s16AddI32 => (.s16, 0)
  | .s16SubI32 => (.s16, 1)
  | .s16Mov => (.s16, 2)
  | .s16AndB32 => (.s16, 3)
  | .s16OrB32 => (.s16, 4)
  | .s16XorB32 => (.s16, 5)
  | .s16ShlB32 => (.s16, 6)
  | .s16ShrN32 => (.s16, 7)
  | .s16MinI32 => (.s16, 8)
  | .s16MaxI32 => (.s16, 9)
  | .s16FaddF32 => (.s16, 10)
  | .s16FsubF32 => (.s16, 11)
  | .s16FmulF32 => (.s16, 12)
  | .s16FmacF32 => (.s16, 13)
  | .s16FminF32 => (.s16, 14)
  | .s16FmaxF32 => (.s16, 15)
  | .nop => (.l32, 0)
  | .exit => (.l32, 1)
  | .join => (.l32, 2)
  | .ret => (.l32, 3)
  | .yield => (.l32, 4)
  | .trapL32 => (.l32, 5)
  | .addI32L32 => (.l32, 16)
  | .subI32L32 => (.l32, 17)
  | .mulLoI32L32 => (.l32, 18)
  | .mulHiI32L32 => (.l32, 19)
  | .mulHiN32L32 => (.l32, 20)
  | .minI32L32 => (.l32, 21)
  | .maxI32L32 => (.l32, 22)
  | .minN32L32 => (.l32, 23)
  | .maxN32L32 => (.l32, 24)
  | .andB32L32 => (.l32, 25)
  | .orB32L32 => (.l32, 26)
  | .xorB32L32 => (.l32, 27)
  | .shlB32L32 => (.l32, 28)
  | .shrN32L32 => (.l32, 29)
  | .shrI32L32 => (.l32, 30)
  | .rotlB32L32 => (.l32, 31)
  | .rotrB32L32 => (.l32, 32)
  | .addSatI32L32 => (.l32, 33)
  | .subSatI32L32 => (.l32, 34)
  | .movL32 => (.l32, 35)
  | .absI32L32 => (.l32, 36)
  | .negI32L32 => (.l32, 37)
  | .notB32L32 => (.l32, 38)
  | .popcB32L32 => (.l32, 39)
  | .clzB32L32 => (.l32, 40)
  | .ctzB32L32 => (.l32, 41)
  | .brevB32L32 => (.l32, 42)
  | .addI32ImmL32 => (.l32, 48)
  | .mulLoI32ImmL32 => (.l32, 49)
  | .andB32ImmL32 => (.l32, 50)
  | .orB32ImmL32 => (.l32, 51)
  | .xorB32ImmL32 => (.l32, 52)
  | .shlB32ImmL32 => (.l32, 53)
  | .shrN32ImmL32 => (.l32, 54)
  | .shrI32ImmL32 => (.l32, 55)
  | .minI32ImmL32 => (.l32, 56)
  | .maxI32ImmL32 => (.l32, 57)
  | .moviL32 => (.l32, 58)
  | .faddF32L32 => (.l32, 64)
  | .fsubF32L32 => (.l32, 65)
  | .fmulF32L32 => (.l32, 66)
  | .fminF32L32 => (.l32, 67)
  | .fmaxF32L32 => (.l32, 68)
  | .fmacF32L32 => (.l32, 69)
  | .uaddI32L32 => (.l32, 80)
  | .usubI32L32 => (.l32, 81)
  | .uandB32L32 => (.l32, 82)
  | .uorB32L32 => (.l32, 83)
  | .uxorB32L32 => (.l32, 84)
  | .ushlB32L32 => (.l32, 85)
  | .ushrN32L32 => (.l32, 86)
  | .umovL32 => (.l32, 87)
  | .uaddI32ImmL32 => (.l32, 88)
  | .uandB32ImmL32 => (.l32, 89)
  | .ushlB32ImmL32 => (.l32, 90)
  | .ushrN32ImmL32 => (.l32, 91)
  | .ldI8L32 => (.l32, 128)
  | .ldN8L32 => (.l32, 129)
  | .ldI16L32 => (.l32, 130)
  | .ldN16L32 => (.l32, 131)
  | .ldB32L32 => (.l32, 132)
  | .ldB64L32 => (.l32, 133)
  | .stB8L32 => (.l32, 134)
  | .stB16L32 => (.l32, 135)
  | .stB32L32 => (.l32, 136)
  | .stB64L32 => (.l32, 137)
  | .ldsB32L32 => (.l32, 138)
  | .stsB32L32 => (.l32, 139)
  | .ldkB32L32 => (.l32, 140)
  | .atomAddN32L32 => (.l32, 144)
  | .atomMinI32L32 => (.l32, 145)
  | .atomMaxI32L32 => (.l32, 146)
  | .atomMinN32L32 => (.l32, 147)
  | .atomMaxN32L32 => (.l32, 148)
  | .atomAndB32L32 => (.l32, 149)
  | .atomOrB32L32 => (.l32, 150)
  | .atomXorB32L32 => (.l32, 151)
  | .atomXchgB32L32 => (.l32, 152)
  | .redAddN32L32 => (.l32, 160)
  | .redMinI32L32 => (.l32, 161)
  | .redMaxI32L32 => (.l32, 162)
  | .redMinN32L32 => (.l32, 163)
  | .redMaxN32L32 => (.l32, 164)
  | .redAndB32L32 => (.l32, 165)
  | .redOrB32L32 => (.l32, 166)
  | .redXorB32L32 => (.l32, 167)
  | .waitvEqL32 => (.l32, 176)
  | .waitvNeL32 => (.l32, 177)
  | .barArrive => (.l32, 448)
  | .barWait => (.l32, 449)
  | .barSync => (.l32, 450)
  | .barReset => (.l32, 451)
  | .gbar => (.l32, 452)
  | .gbarArrive => (.l32, 453)
  | .gbarWait => (.l32, 454)
  | .pblk => (.pblk, 496)
  | .ordp => (.ordp, 497)
  | .add => (.a, 0)
  | .sub => (.a, 1)
  | .mulLo => (.a, 2)
  | .mulHi => (.a, 3)
  | .madLo => (.a, 4)
  | .madHi => (.a, 5)
  | .mulFull => (.a, 6)
  | .madFull => (.a, 7)
  | .div => (.a, 8)
  | .rem => (.a, 9)
  | .min => (.a, 10)
  | .max => (.a, 11)
  | .abs => (.a, 12)
  | .neg => (.a, 13)
  | .addSat => (.a, 14)
  | .subSat => (.a, 15)
  | .and => (.a, 16)
  | .or => (.a, 17)
  | .xor => (.a, 18)
  | .not => (.a, 19)
  | .andn => (.a, 20)
  | .shl => (.a, 21)
  | .rotl => (.a, 22)
  | .rotr => (.a, 23)
  | .bfi => (.a, 24)
  | .popc => (.a, 25)
  | .clz => (.a, 26)
  | .ctz => (.a, 27)
  | .brev => (.a, 28)
  | .shr => (.a, 29)
  | .bfe => (.a, 30)
  | .cmpEq => (.a, 32)
  | .cmpNe => (.a, 33)
  | .cmpLt => (.a, 34)
  | .cmpLe => (.a, 35)
  | .cmpGt => (.a, 36)
  | .cmpGe => (.a, 37)
  | .sel => (.a, 38)
  | .mov => (.a, 39)
  | .lea => (.a, 40)
  | .addImm => (.b, 48)
  | .mulLoImm => (.b, 49)
  | .minImm => (.b, 50)
  | .maxImm => (.b, 51)
  | .shrImm => (.b, 52)
  | .andImm => (.b, 53)
  | .orImm => (.b, 54)
  | .xorImm => (.b, 55)
  | .shlImm => (.b, 56)
  | .movi => (.b, 57)
  | .leaImm => (.b, 58)
  | .pand => (.a, 64)
  | .por => (.a, 65)
  | .pxor => (.a, 66)
  | .pandn => (.a, 67)
  | .pnot => (.a, 68)
  | .pmov => (.a, 69)
  | .pset => (.a, 70)
  | .pget => (.a, 71)
  | .bra => (.b, 80)
  | .braU => (.b, 81)
  | .braAny => (.b, 82)
  | .braAll => (.b, 83)
  | .braIdx => (.a, 84)
  | .call => (.b, 85)
  | .callIdx => (.a, 86)
  | .loop => (.b, 87)
  | .lcmov => (.a, 88)
  | .sleep => (.b, 89)
  | .trap => (.b, 90)
  | .fadd => (.a, 96)
  | .fsub => (.a, 97)
  | .fmul => (.a, 98)
  | .ffma => (.a, 99)
  | .fmin => (.a, 100)
  | .fmax => (.a, 101)
  | .fabs => (.a, 102)
  | .fneg => (.a, 103)
  | .fcmpEq => (.a, 104)
  | .fcmpNe => (.a, 105)
  | .fcmpLt => (.a, 106)
  | .fcmpLe => (.a, 107)
  | .fcmpGt => (.a, 108)
  | .fcmpGe => (.a, 109)
  | .fcmpUn => (.a, 110)
  | .fsel => (.a, 111)
  | .fclass => (.a, 112)
  | .fdiv => (.a, 113)
  | .fsqrt => (.a, 114)
  | .frcp => (.a, 115)
  | .frsq => (.a, 116)
  | .fexp2 => (.a, 117)
  | .flog2 => (.a, 118)
  | .fsin => (.a, 119)
  | .fcos => (.a, 120)
  | .ftanh => (.a, 121)
  | .cvtFloat => (.a, 128)
  | .cvtNarrow => (.a, 129)
  | .cvtInt => (.a, 130)
  | .cvtE8m0 => (.a, 131)
  | .cvtPk => (.a, 132)
  | .cvtUpk => (.a, 133)
  | .faddImm => (.b, 136)
  | .fmulImm => (.b, 137)
  | .ffmaImm => (.b, 138)
  | .lrdAt => (.a, 160)
  | .lrdFlip => (.a, 161)
  | .lrdOff => (.a, 162)
  | .lrdRot => (.a, 163)
  | .alike => (.a, 164)
  | .lany => (.a, 165)
  | .lall => (.a, 166)
  | .lmask => (.a, 167)
  | .lfirst => (.a, 168)
  | .lred => (.a, 169)
  | .lscan => (.a, 170)
  | .lcount => (.a, 171)
  | .uadd => (.a, 176)
  | .usub => (.a, 177)
  | .umulLo => (.a, 178)
  | .uand => (.a, 179)
  | .uor => (.a, 180)
  | .uxor => (.a, 181)
  | .ushl => (.a, 182)
  | .ushr => (.a, 183)
  | .umin => (.a, 184)
  | .umax => (.a, 185)
  | .umov => (.a, 186)
  | .umovi => (.b, 187)
  | .ld => (.c, 192)
  | .ldSx => (.c, 193)
  | .st => (.c, 194)
  | .ldk => (.c, 195)
  | .lds => (.c, 196)
  | .ldsSx => (.c, 197)
  | .sts => (.c, 198)
  | .stm => (.c, 199)
  | .prefetch => (.c, 200)
  | .cwb => (.c, 201)
  | .cinv => (.c, 202)
  | .cflush => (.c, 203)
  | .waitv => (.c, 204)
  | .atomAdd => (.c, 208)
  | .atomFadd => (.c, 209)
  | .atomMinI => (.c, 210)
  | .atomMinN => (.c, 211)
  | .atomMaxI => (.c, 212)
  | .atomMaxN => (.c, 213)
  | .atomAnd => (.c, 214)
  | .atomOr => (.c, 215)
  | .atomXor => (.c, 216)
  | .atomXchg => (.c, 217)
  | .atomCas => (.c, 218)
  | .atomIncwrap => (.c, 219)
  | .redAdd => (.c, 224)
  | .redFadd => (.c, 225)
  | .redMinI => (.c, 226)
  | .redMinN => (.c, 227)
  | .redMaxI => (.c, 228)
  | .redMaxN => (.c, 229)
  | .redAnd => (.c, 230)
  | .redOr => (.c, 231)
  | .redXor => (.c, 232)
  | .redIncwrap => (.c, 233)
  | .fenceAcq => (.c, 240)
  | .fenceRel => (.c, 241)
  | .fenceAr => (.c, 242)
  | .fenceSc => (.c, 243)
  | .hld => (.c, 256)
  | .hst => (.c, 257)
  | .hldf => (.c, 258)
  | .hstf => (.c, 259)
  | .hcas => (.c, 260)
  | .hcmp => (.a, 261)
  | .hpin => (.a, 262)
  | .hunpin => (.a, 263)
  | .hnull => (.a, 264)
  | .hphase => (.a, 265)
  | .hcopy => (.a, 266)
  | .hsize => (.a, 267)
  | .mma => (.a, 288)
  | .mmaPair => (.a, 289)
  | .mzero => (.a, 290)
  | .mload => (.a, 291)
  | .mdrain => (.a, 292)
  | .mbatch => (.a, 293)
  | .mwait => (.b, 294)
  | .mrow => (.a, 295)
  | .enl => (.a, 296)
  | .fix => (.a, 297)
  | .ewait => (.b, 298)
  | .lfirstBc => (.a, 320)
  | .glaunchDomain => (.a, 336)
  | .glaunchWafer => (.a, 337)
  | .glaunchPod => (.a, 338)
  | .gcancel => (.a, 339)
  | .gpoll => (.a, 340)
  | .gstat => (.a, 341)
  | .ghint => (.a, 342)
  | .gfault => (.a, 343)
  | .gid => (.a, 344)
  | .csrr => (.b, 352)
  | .csrw => (.b, 353)
  | .csrs => (.b, 354)
  | .csrc => (.b, 355)
  | .tret => (.a, 356)
  | .wswitch => (.a, 357)
  | .xlatUpd => (.a, 358)
  | .pgmig => (.a, 359)
  | .rgnSetclass => (.a, 360)
  | .ilock => (.a, 361)
  | .iunlock => (.a, 362)
  | .iprefetch => (.a, 363)
  | .halt => (.a, 364)
  | .perf => (.a, 365)
  | .powerOn => (.event, 0)
  | .domainUp => (.event, 0)
  | .safelightStep => (.event, 0)
  | .pendingExchange => (.event, 0)
  | .rotation => (.event, 0)
  | .park => (.event, 0)
  | .sleepExpire => (.event, 0)
  | .waitvPoll => (.event, 0)
  | .breakpointMatch => (.event, 0)
  | .preempt => (.event, 0)
  | .saveRecordReserved => (.event, 0)
  | .preemptSave => (.event, 0)
  | .blockResume => (.event, 0)
  | .cancel => (.event, 0)
  | .deferredFault => (.event, 0)
  | .operandLogEntry => (.event, 0)
  | .heldFaultRecordWrite => (.event, 0)
  | .fltreply => (.event, 0)
  | .oplogReplay => (.event, 0)
  | .loadResponse => (.event, 0)
  | .longOpArrival => (.event, 0)
  | .storeAck => (.event, 0)
  | .writeBufferDrain => (.event, 0)
  | .instructionFetch => (.event, 0)
  | .requestTranslate => (.event, 0)
  | .tlbWalkDone => (.event, 0)
  | .homeSliceRequest => (.event, 0)
  | .homeRmw => (.event, 0)
  | .visitorReadRequest => (.event, 0)
  | .ownershipRequest => (.event, 0)
  | .directoryGrant => (.event, 0)
  | .directoryProbe => (.event, 0)
  | .probeAnswer => (.event, 0)
  | .mWriteback => (.event, 0)
  | .patrolScrub => (.event, 0)
  | .xlatPurge => (.event, 0)
  | .migrationStart => (.event, 0)
  | .migrationSwitch => (.event, 0)
  | .migrationRelease => (.event, 0)
  | .cxlHostSharedRead => (.event, 0)
  | .cxlHostOwnershipRead => (.event, 0)
  | .cxlHostWriteBack => (.event, 0)
  | .backInvalidationResponse => (.event, 0)
  | .bridgeAccess => (.event, 0)
  | .inboundAccess => (.event, 0)
  | .podRemoteRequest => (.event, 0)
  | .linkBeatCrcError => (.event, 0)
  | .starvationToken => (.event, 0)
  | .matrixOpTurn => (.event, 0)
  | .engineCommandStart => (.event, 0)
  | .engineCompletion => (.event, 0)
  | .launchAtRoot => (.event, 0)
  | .glaunchIssue => (.event, 0)
  | .glaunchReply => (.event, 0)
  | .pavilionDeal => (.event, 0)
  | .pergolaPlace => (.event, 0)
  | .arborUnitArrival => (.event, 0)
  | .blockStart => (.event, 0)
  | .arborOffer => (.event, 0)
  | .pergolaOffer => (.event, 0)
  | .freeCountPublish => (.event, 0)
  | .blockRetire => (.event, 0)
  | .countReport => (.event, 0)
  | .notify => (.event, 0)
  | .qcmdLoad => (.event, 0)
  | .qcmdDisable => (.event, 0)
  | .queueInvalidation => (.event, 0)
  | .entryNop => (.event, 0)
  | .entryLaunch => (.event, 0)
  | .entryWait => (.event, 0)
  | .queueWaitPoll => (.event, 0)
  | .entrySignal => (.event, 0)
  | .entryFence => (.event, 0)
  | .schedmodeWrite => (.event, 0)
  | .slewup => (.event, 0)
  | .slewdown => (.event, 0)
  | .ramplo => (.event, 0)
  | .arbpre => (.event, 0)
  | .l2split => (.event, 0)
  | .l2splitDone => (.event, 0)
  | .relcmdStart => (.event, 0)
  | .relcmdRetire => (.event, 0)
  | .relcmdSweep => (.event, 0)
  | .orangeryCopy => (.event, 0)
  | .resolveRequest => (.event, 0)
  | .healingCas => (.event, 0)
  | .sweepWord => (.event, 0)
  | .dbgcmdRelease => (.event, 0)
  | .dbgcmdDiscard => (.event, 0)
  | .dbgcmdBreak => (.event, 0)
  | .topobaseWrite => (.event, 0)
  | .cntclr => (.event, 0)
  | .dirrd => (.event, 0)
  | .dirrdDone => (.event, 0)
  | .registerWrite => (.event, 0)
  | .spdmGetVersion => (.event, 0)
  | .spdmGetCapabilities => (.event, 0)
  | .spdmNegotiateAlgorithms => (.event, 0)
  | .spdmGetDigests => (.event, 0)
  | .spdmGetCertificate => (.event, 0)
  | .spdmChallenge => (.event, 0)
  | .spdmGetMeasurements => (.event, 0)
  | .spdmUnsupported => (.event, 0)
  | .powerLoss => (.event, 0)
  | .outsideRatedConditions => (.event, 0)
  | .firmwareUpdate => (.event, 0)
  | .linkTraining => (.event, 0)

end Sys2Proof
end

