-- ==== Sys2Proof/Decode.lean ====
section
/-!
DEFINITION. The decoder of R287-R295, R302, R305, R313-R318, total on any bytes, and after it the encoder.
-/

namespace Sys2Proof

/-- Why bytes are no instruction: fewer parcels than the first parcel asks for (R287), or an opcode number that the
Opcode Map does not assign (R313). -/
inductive DecodeErr where
  | tooShort
  | unassignedL32 (opc : Nat)
  | unassignedL64 (opc : Nat)
  deriving DecidableEq, Repr

/-- The S16 operation of number `op` (R290). -/
def s16Of (op : Nat) : Instr :=
  match op with
  | 0 => .s16AddI32
  | 1 => .s16SubI32
  | 2 => .s16Mov
  | 3 => .s16AndB32
  | 4 => .s16OrB32
  | 5 => .s16XorB32
  | 6 => .s16ShlB32
  | 7 => .s16ShrN32
  | 8 => .s16MinI32
  | 9 => .s16MaxI32
  | 10 => .s16FaddF32
  | 11 => .s16FsubF32
  | 12 => .s16FmulF32
  | 13 => .s16FmacF32
  | 14 => .s16FminF32
  | _ => .s16FmaxF32

/-- The L32 opcodes (R316). -/
def l32Of (opc : Nat) : Option Instr :=
  match opc with
  | 0 => some .nop
  | 1 => some .exit
  | 2 => some .join
  | 3 => some .ret
  | 4 => some .yield
  | 5 => some .trapL32
  | 16 => some .addI32L32
  | 17 => some .subI32L32
  | 18 => some .mulLoI32L32
  | 19 => some .mulHiI32L32
  | 20 => some .mulHiN32L32
  | 21 => some .minI32L32
  | 22 => some .maxI32L32
  | 23 => some .minN32L32
  | 24 => some .maxN32L32
  | 25 => some .andB32L32
  | 26 => some .orB32L32
  | 27 => some .xorB32L32
  | 28 => some .shlB32L32
  | 29 => some .shrN32L32
  | 30 => some .shrI32L32
  | 31 => some .rotlB32L32
  | 32 => some .rotrB32L32
  | 33 => some .addSatI32L32
  | 34 => some .subSatI32L32
  | 35 => some .movL32
  | 36 => some .absI32L32
  | 37 => some .negI32L32
  | 38 => some .notB32L32
  | 39 => some .popcB32L32
  | 40 => some .clzB32L32
  | 41 => some .ctzB32L32
  | 42 => some .brevB32L32
  | 48 => some .addI32ImmL32
  | 49 => some .mulLoI32ImmL32
  | 50 => some .andB32ImmL32
  | 51 => some .orB32ImmL32
  | 52 => some .xorB32ImmL32
  | 53 => some .shlB32ImmL32
  | 54 => some .shrN32ImmL32
  | 55 => some .shrI32ImmL32
  | 56 => some .minI32ImmL32
  | 57 => some .maxI32ImmL32
  | 58 => some .moviL32
  | 64 => some .faddF32L32
  | 65 => some .fsubF32L32
  | 66 => some .fmulF32L32
  | 67 => some .fminF32L32
  | 68 => some .fmaxF32L32
  | 69 => some .fmacF32L32
  | 80 => some .uaddI32L32
  | 81 => some .usubI32L32
  | 82 => some .uandB32L32
  | 83 => some .uorB32L32
  | 84 => some .uxorB32L32
  | 85 => some .ushlB32L32
  | 86 => some .ushrN32L32
  | 87 => some .umovL32
  | 88 => some .uaddI32ImmL32
  | 89 => some .uandB32ImmL32
  | 90 => some .ushlB32ImmL32
  | 91 => some .ushrN32ImmL32
  | 128 => some .ldI8L32
  | 129 => some .ldN8L32
  | 130 => some .ldI16L32
  | 131 => some .ldN16L32
  | 132 => some .ldB32L32
  | 133 => some .ldB64L32
  | 134 => some .stB8L32
  | 135 => some .stB16L32
  | 136 => some .stB32L32
  | 137 => some .stB64L32
  | 138 => some .ldsB32L32
  | 139 => some .stsB32L32
  | 140 => some .ldkB32L32
  | 144 => some .atomAddN32L32
  | 145 => some .atomMinI32L32
  | 146 => some .atomMaxI32L32
  | 147 => some .atomMinN32L32
  | 148 => some .atomMaxN32L32
  | 149 => some .atomAndB32L32
  | 150 => some .atomOrB32L32
  | 151 => some .atomXorB32L32
  | 152 => some .atomXchgB32L32
  | 160 => some .redAddN32L32
  | 161 => some .redMinI32L32
  | 162 => some .redMaxI32L32
  | 163 => some .redMinN32L32
  | 164 => some .redMaxN32L32
  | 165 => some .redAndB32L32
  | 166 => some .redOrB32L32
  | 167 => some .redXorB32L32
  | 176 => some .waitvEqL32
  | 177 => some .waitvNeL32
  | 448 => some .barArrive
  | 449 => some .barWait
  | 450 => some .barSync
  | 451 => some .barReset
  | 452 => some .gbar
  | 453 => some .gbarArrive
  | 454 => some .gbarWait
  | 496 => some .pblk
  | 497 => some .ordp
  | _ => none

/-- The L64 opcodes (R318). -/
def l64Of (opc : Nat) : Option Instr :=
  match opc with
  | 0 => some .add
  | 1 => some .sub
  | 2 => some .mulLo
  | 3 => some .mulHi
  | 4 => some .madLo
  | 5 => some .madHi
  | 6 => some .mulFull
  | 7 => some .madFull
  | 8 => some .div
  | 9 => some .rem
  | 10 => some .min
  | 11 => some .max
  | 12 => some .abs
  | 13 => some .neg
  | 14 => some .addSat
  | 15 => some .subSat
  | 16 => some .and
  | 17 => some .or
  | 18 => some .xor
  | 19 => some .not
  | 20 => some .andn
  | 21 => some .shl
  | 22 => some .rotl
  | 23 => some .rotr
  | 24 => some .bfi
  | 25 => some .popc
  | 26 => some .clz
  | 27 => some .ctz
  | 28 => some .brev
  | 29 => some .shr
  | 30 => some .bfe
  | 32 => some .cmpEq
  | 33 => some .cmpNe
  | 34 => some .cmpLt
  | 35 => some .cmpLe
  | 36 => some .cmpGt
  | 37 => some .cmpGe
  | 38 => some .sel
  | 39 => some .mov
  | 40 => some .lea
  | 48 => some .addImm
  | 49 => some .mulLoImm
  | 50 => some .minImm
  | 51 => some .maxImm
  | 52 => some .shrImm
  | 53 => some .andImm
  | 54 => some .orImm
  | 55 => some .xorImm
  | 56 => some .shlImm
  | 57 => some .movi
  | 58 => some .leaImm
  | 64 => some .pand
  | 65 => some .por
  | 66 => some .pxor
  | 67 => some .pandn
  | 68 => some .pnot
  | 69 => some .pmov
  | 70 => some .pset
  | 71 => some .pget
  | 80 => some .bra
  | 81 => some .braU
  | 82 => some .braAny
  | 83 => some .braAll
  | 84 => some .braIdx
  | 85 => some .call
  | 86 => some .callIdx
  | 87 => some .loop
  | 88 => some .lcmov
  | 89 => some .sleep
  | 90 => some .trap
  | 96 => some .fadd
  | 97 => some .fsub
  | 98 => some .fmul
  | 99 => some .ffma
  | 100 => some .fmin
  | 101 => some .fmax
  | 102 => some .fabs
  | 103 => some .fneg
  | 104 => some .fcmpEq
  | 105 => some .fcmpNe
  | 106 => some .fcmpLt
  | 107 => some .fcmpLe
  | 108 => some .fcmpGt
  | 109 => some .fcmpGe
  | 110 => some .fcmpUn
  | 111 => some .fsel
  | 112 => some .fclass
  | 113 => some .fdiv
  | 114 => some .fsqrt
  | 115 => some .frcp
  | 116 => some .frsq
  | 117 => some .fexp2
  | 118 => some .flog2
  | 119 => some .fsin
  | 120 => some .fcos
  | 121 => some .ftanh
  | 128 => some .cvtFloat
  | 129 => some .cvtNarrow
  | 130 => some .cvtInt
  | 131 => some .cvtE8m0
  | 132 => some .cvtPk
  | 133 => some .cvtUpk
  | 136 => some .faddImm
  | 137 => some .fmulImm
  | 138 => some .ffmaImm
  | 160 => some .lrdAt
  | 161 => some .lrdFlip
  | 162 => some .lrdOff
  | 163 => some .lrdRot
  | 164 => some .alike
  | 165 => some .lany
  | 166 => some .lall
  | 167 => some .lmask
  | 168 => some .lfirst
  | 169 => some .lred
  | 170 => some .lscan
  | 171 => some .lcount
  | 176 => some .uadd
  | 177 => some .usub
  | 178 => some .umulLo
  | 179 => some .uand
  | 180 => some .uor
  | 181 => some .uxor
  | 182 => some .ushl
  | 183 => some .ushr
  | 184 => some .umin
  | 185 => some .umax
  | 186 => some .umov
  | 187 => some .umovi
  | 192 => some .ld
  | 193 => some .ldSx
  | 194 => some .st
  | 195 => some .ldk
  | 196 => some .lds
  | 197 => some .ldsSx
  | 198 => some .sts
  | 199 => some .stm
  | 200 => some .prefetch
  | 201 => some .cwb
  | 202 => some .cinv
  | 203 => some .cflush
  | 204 => some .waitv
  | 208 => some .atomAdd
  | 209 => some .atomFadd
  | 210 => some .atomMinI
  | 211 => some .atomMinN
  | 212 => some .atomMaxI
  | 213 => some .atomMaxN
  | 214 => some .atomAnd
  | 215 => some .atomOr
  | 216 => some .atomXor
  | 217 => some .atomXchg
  | 218 => some .atomCas
  | 219 => some .atomIncwrap
  | 224 => some .redAdd
  | 225 => some .redFadd
  | 226 => some .redMinI
  | 227 => some .redMinN
  | 228 => some .redMaxI
  | 229 => some .redMaxN
  | 230 => some .redAnd
  | 231 => some .redOr
  | 232 => some .redXor
  | 233 => some .redIncwrap
  | 240 => some .fenceAcq
  | 241 => some .fenceRel
  | 242 => some .fenceAr
  | 243 => some .fenceSc
  | 256 => some .hld
  | 257 => some .hst
  | 258 => some .hldf
  | 259 => some .hstf
  | 260 => some .hcas
  | 261 => some .hcmp
  | 262 => some .hpin
  | 263 => some .hunpin
  | 264 => some .hnull
  | 265 => some .hphase
  | 266 => some .hcopy
  | 267 => some .hsize
  | 288 => some .mma
  | 289 => some .mmaPair
  | 290 => some .mzero
  | 291 => some .mload
  | 292 => some .mdrain
  | 293 => some .mbatch
  | 294 => some .mwait
  | 295 => some .mrow
  | 296 => some .enl
  | 297 => some .fix
  | 298 => some .ewait
  | 320 => some .lfirstBc
  | 336 => some .glaunchDomain
  | 337 => some .glaunchWafer
  | 338 => some .glaunchPod
  | 339 => some .gcancel
  | 340 => some .gpoll
  | 341 => some .gstat
  | 342 => some .ghint
  | 343 => some .gfault
  | 344 => some .gid
  | 352 => some .csrr
  | 353 => some .csrw
  | 354 => some .csrs
  | 355 => some .csrc
  | 356 => some .tret
  | 357 => some .wswitch
  | 358 => some .xlatUpd
  | 359 => some .pgmig
  | 360 => some .rgnSetclass
  | 361 => some .ilock
  | 362 => some .iunlock
  | 363 => some .iprefetch
  | 364 => some .halt
  | 365 => some .perf
  | _ => none

/-- The fields of an S16 parcel (R289). -/
def f16Of (x : BitVec 16) : F16 := { d := x.extractLsb' 6 6, s := x.extractLsb' 1 5 }

/-- The fields of an L32 word (R291). -/
def f32Of (x : BitVec 32) : F32 :=
  { d := x.extractLsb' 11 7, a := x.extractLsb' 18 7, b := x.extractLsb' 25 7 }

/-- The fields of a `pblk` word (R302). -/
def fPblkOf (x : BitVec 32) : FPblk :=
  { p := x.extractLsb' 11 3, c := x.extractLsb' 14 3, t := x.extractLsb' 17 8, z := x.extractLsb' 25 7 }

/-- The fields of an `ordp` word (R305). -/
def fOrdpOf (x : BitVec 32) : FOrdp :=
  { o := x.extractLsb' 11 2, s := x.extractLsb' 13 2, z := x.extractLsb' 15 17 }

/-- The fields of a sub-format A word (R293). -/
def fmtAOf (x : BitVec 64) : FmtA :=
  { d := x.extractLsb' 11 9, a := x.extractLsb' 20 9, b := x.extractLsb' 29 9, c := x.extractLsb' 38 9,
    ty := x.extractLsb' 47 3, rnd := x.extractLsb' 50 3, strict := x.extractLsb' 53 3,
    lkind := x.extractLsb' 56 3, lamt := x.extractLsb' 59 5 }

/-- The fields of a sub-format B word (R294). -/
def fmtBOf (x : BitVec 64) : FmtB :=
  { d := x.extractLsb' 11 9, a := x.extractLsb' 20 9, ty := x.extractLsb' 29 3, imm := x.extractLsb' 32 32 }

/-- The fields of a sub-format C word (R295). -/
def fmtCOf (x : BitVec 64) : FmtC :=
  { d := x.extractLsb' 11 9, base := x.extractLsb' 20 9, data := x.extractLsb' 29 9, off := x.extractLsb' 38 14,
    width := x.extractLsb' 52 3, hint := x.extractLsb' 55 2, scope := x.extractLsb' 57 2,
    order := x.extractLsb' 59 3, sbase := x.getLsbD 62, sdata := x.getLsbD 63 }

/-- An S16 parcel (R289): every one is an instruction (R306). -/
def decode16 (x : BitVec 16) : Ins :=
  { instr := s16Of (x.extractLsb' 12 4).toNat, ops := .s16 (f16Of x) }

/-- The operands of an L32 word in the format its row has (R291, R302, R305). -/
def ops32 (fm : Format) (x : BitVec 32) : Ops :=
  match fm with
  | .pblk => .pblk (fPblkOf x)
  | .ordp => .ordp (fOrdpOf x)
  | _ => .l32 (f32Of x)

/-- The operands of an L64 word in the sub-format its row has (R293-R295). -/
def ops64 (fm : Format) (x : BitVec 64) : Ops :=
  match fm with
  | .b => .b (fmtBOf x)
  | .c => .c (fmtCOf x)
  | _ => .a (fmtAOf x)

/-- An L32 word (R291, R313). -/
def decode32 (x : BitVec 32) : Except DecodeErr Ins :=
  match l32Of (x.extractLsb' 2 9).toNat with
  | some i => .ok { instr := i, ops := ops32 i.row.1 x }
  | none => .error (.unassignedL32 (x.extractLsb' 2 9).toNat)

/-- An L64 word (R293-R295, R313). -/
def decode64 (x : BitVec 64) : Except DecodeErr Ins :=
  match l64Of (x.extractLsb' 2 9).toNat with
  | some i => .ok { instr := i, ops := ops64 i.row.1 x }
  | none => .error (.unassignedL64 (x.extractLsb' 2 9).toNat)

/-- Two bytes of a parcel, low byte first (R287, R7). -/
def parcelOf (b0 b1 : Byte) : Parcel := b1 ++ b0

/-- The length in bytes that a first byte asks for (R287). -/
def lengthOf (b0 : Byte) : Nat := if b0.getLsbD 0 = false then 2 else if b0.getLsbD 1 = false then 4 else 8

/-- The instruction at the head of the bytes, and the bytes after it (R287). -/
def decode : List Byte → Except DecodeErr (Ins × List Byte)
  | b0 :: b1 :: r =>
    if b0.getLsbD 0 = false then .ok (decode16 (parcelOf b0 b1), r)
    else if b0.getLsbD 1 = false then
      match r with
      | b2 :: b3 :: r' =>
        match decode32 (parcelOf b2 b3 ++ parcelOf b0 b1) with
        | .ok i => .ok (i, r')
        | .error e => .error e
      | _ => .error .tooShort
    else
      match r with
      | b2 :: b3 :: b4 :: b5 :: b6 :: b7 :: r' =>
        match decode64 ((parcelOf b6 b7 ++ parcelOf b4 b5) ++ (parcelOf b2 b3 ++ parcelOf b0 b1)) with
        | .ok i => .ok (i, r')
        | .error e => .error e
      | _ => .error .tooShort
  | _ => .error .tooShort

/-- An encoded instruction: one, two or four parcels (R287); an event of the table has no encoding. -/
inductive Code where
  | none
  | w16 (x : BitVec 16)
  | w32 (x : BitVec 32)
  | w64 (x : BitVec 64)
  deriving DecidableEq, Repr

/-- An S16 parcel from its fields (R289). -/
def enc16 (op : Nat) (f : F16) : BitVec 16 := BitVec.ofNat 4 op ++ f.d ++ f.s ++ 0#1

/-- An L32 word from its fields (R291). -/
def enc32 (opc : Nat) (f : F32) : BitVec 32 := f.b ++ f.a ++ f.d ++ BitVec.ofNat 9 opc ++ 1#2

/-- A `pblk` word (R302). -/
def encPblk (f : FPblk) : BitVec 32 := f.z ++ f.t ++ f.c ++ f.p ++ 0x1F0#9 ++ 1#2

/-- An `ordp` word (R305). -/
def encOrdp (f : FOrdp) : BitVec 32 := f.z ++ f.s ++ f.o ++ 0x1F1#9 ++ 1#2

/-- A sub-format A word from its fields (R293). -/
def encA (opc : Nat) (f : FmtA) : BitVec 64 :=
  f.lamt ++ f.lkind ++ f.strict ++ f.rnd ++ f.ty ++ f.c ++ f.b ++ f.a ++ f.d ++ BitVec.ofNat 9 opc ++ 3#2

/-- A sub-format B word from its fields (R294). -/
def encB (opc : Nat) (f : FmtB) : BitVec 64 :=
  f.imm ++ f.ty ++ f.a ++ f.d ++ BitVec.ofNat 9 opc ++ 3#2

/-- A sub-format C word from its fields (R295). -/
def encC (opc : Nat) (f : FmtC) : BitVec 64 :=
  BitVec.ofBool f.sdata ++ BitVec.ofBool f.sbase ++ f.order ++ f.scope ++ f.hint ++ f.width ++ f.off ++ f.data ++
    f.base ++ f.d ++ BitVec.ofNat 9 opc ++ 3#2

/-- The code of an instruction (R289-R295, R302, R305): its opcode number and its fields. -/
def encode (x : Ins) : Code :=
  match x.ops with
  | .s16 f => .w16 (enc16 x.instr.row.2 f)
  | .l32 f => .w32 (enc32 x.instr.row.2 f)
  | .pblk f => .w32 (encPblk f)
  | .ordp f => .w32 (encOrdp f)
  | .a f => .w64 (encA x.instr.row.2 f)
  | .b f => .w64 (encB x.instr.row.2 f)
  | .c f => .w64 (encC x.instr.row.2 f)
  | .event _ => .none

/-- The bytes of a word, lowest first (R7, R287). -/
def bytesOf (n : Nat) (x : BitVec 64) : List Byte := (List.range n).map (fun i => x.extractLsb' (8 * i) 8)

/-- The bytes of an instruction in memory order. -/
def codeBytes : Code → List Byte
  | .none => []
  | .w16 x => bytesOf 2 (x.setWidth 64)
  | .w32 x => bytesOf 4 (x.setWidth 64)
  | .w64 x => bytesOf 8 x

/-- The encoding zero-extended to 64 bits, as the operand log holds it (R62). -/
def codeWord : Code → BitVec 64
  | .none => 0
  | .w16 x => x.setWidth 64
  | .w32 x => x.setWidth 64
  | .w64 x => x

/-- The length of an encoding in bytes (R287). -/
def codeLen : Code → Nat
  | .none => 0
  | .w16 _ => 2
  | .w32 _ => 4
  | .w64 _ => 8

/-- The instruction that an encoding held in 64 bits stands for, as the operand log and the save record hold it. -/
def decodeWord (x : BitVec 64) : Except DecodeErr Ins :=
  match decode (bytesOf 8 x) with
  | .ok (i, _) => .ok i
  | .error e => .error e

/-- The instruction whose bits are `w`, numbered from the first parcel's bit 0, as the decoder reads it from memory
(the bytes above `nbits` are zero). -/
def decodeTableWord (nbits w : Nat) : Option Instr :=
  match decodeWord (BitVec.ofNat 64 (w % 2 ^ nbits)) with
  | .ok i => some i.instr
  | .error _ => none

end Sys2Proof
end

