-- ==== Sys2Proof/Machine/State.lean ====
section
/-!
DEFINITION. The state of the machine: every piece of state the spec names, as plain data (INVENTORY.md, State).
Units are keyed by numbers: a domain by 64 w + d (`dk`), a bay by 8 dk + b (`bk`), a core by 64 dk + s (`ck`).
-/

namespace Sys2Proof.Machine

/-- The scopes of R162. -/
inductive Scope where
  | block | domain | wafer | system
  deriving DecidableEq, Repr

/-- The orders of R161; plain is a weak access (R160). -/
inductive Order where
  | plain | rlx | acq | rel | ar
  deriving DecidableEq, Repr

/-- A register that carries a full/empty bit (R79). -/
inductive Reg where
  | v (n : Nat) | o (n : Nat) | k (n : Nat) | h (n : Nat)
  deriving DecidableEq, Repr

/-- Where the values of an instruction in flight go: nowhere, one 32-bit register, a pair, a quad, a k register
or pair, an h register, a predicate (R79, R295). -/
inductive Dst where
  | none
  | regs (first : Reg) (words : Nat)
  | pred (n : Nat)
  deriving DecidableEq, Repr

/-- A path of a warp: what a live PC slot or a spilled path entry holds (R81, R213). -/
structure PathState where
  pc : DWord
  rpc : Option DWord
  mask : Word
  deriving DecidableEq, Repr

/-- Why a path does not issue (R34). Every cause but the first three carries what the wait has already done. -/
inductive Wait where
  | ready                                   -- not waiting
  | regs (rs : List Reg)                    -- an empty register (R80, R65)
  | join                                    -- at its join (R215)
  | retry (long : Bool)                     -- a fence, a pair reservation or an ordering wait, judged again at each choice
  | stall                                   -- Stalled: a full range-lock table, engine queue or set of slots (R34)
  | bar (n : Nat)                           -- a named barrier, arrived (R428)
  | gbar                                    -- the gang barrier, arrived (R430)
  | waitv (tag : Nat)                       -- waitv in progress (R394)
  | mwait (n : Nat)                         -- a batch number (R417)
  | ewait (cmds : List (Nat × Bool)) (allow : Nat)   -- engine commands and the allowance (R425)
  | sleep (until_ : Nat)                    -- clock at which it ends (R348)
  | feed (tag : Nat)                        -- Stalled: a store some lanes of which the write buffer has not yet taken (R140)
  | range (ops : Nat)                       -- cwb, cinv, cflush: operation number (R388)
  | record (tag : Nat) (got : Option (List Byte))  -- the record read of glaunch (R433)
  | unit (op : Nat)                         -- xlat.upd, hphase, ilock, wswitch: operation number
  | fetch (token : Nat)                     -- a fetch fault at the pager (R58)
  | spill (token : Nat)                     -- a fault on the spill area at the pager (R198)
  | brk                                     -- stopped at a breakpoint or halt until its save record is reserved (R66)
  deriving DecidableEq, Repr

/-- A pending `ordp` (R305): its order, scope and address. -/
structure OrdPfx where
  order : Order
  scope : Scope
  addr : DWord
  deriving DecidableEq, Repr

/-- A PC slot (R81, R304, R305). -/
structure Slot where
  live : Bool
  path : PathState
  wait : Wait
  age : Word
  reach : BitVec 16
  susp : BitVec 16
  ordPfx : Option OrdPfx
  /-- set by a FATAL fetch reply: the fault code the next fetch raises (R58) -/
  fetchFault : Option (BitVec 8)
  deriving DecidableEq, Repr

/-- A spill-stack entry (R213). -/
inductive SpillEnt where
  | path (p : PathState) (waitJ : Bool)
  | join (pc : DWord) (mask : Word) (rpc : Option DWord)
  deriving DecidableEq, Repr

/-- A hardware-loop level (R351). -/
structure Level where
  start : DWord
  stop : DWord
  lc : Bool
  deriving DecidableEq, Repr

/-- The warp-visible registers of R82 that the warp holds (R86, R87, R89, R90) and the latches of R84. -/
structure Csr where
  status : Word
  fpmode : Word
  faultcode : Word
  faultlanes : Word
  faultpc : DWord
  faultaddr : DWord
  faultem : Word
  rowprog : Word
  batchIssued : BitVec 16
  batchDone : BitVec 16
  cycleLatch : Option Word
  heapBaseLatch : Option Word
  heapLimitLatch : Option Word
  deriving DecidableEq, Repr

/-- State of an operand-log entry (R67). -/
inductive LogState where
  | free | pending | resolved | fatal | replaying
  deriving DecidableEq, Repr

/-- An operand-log entry (R62, R63, R67). `code` is the fault that was logged, `tokens` the records still unanswered with the code of each,
`seq` the order of logging (R64), `lane` a lane of the path that issued it. -/
structure LogEnt where
  state : LogState
  pc : DWord
  enc : DWord
  lanes : Word
  order : Word
  addr : Tab DWord
  data : Tab (BitVec 128)
  tag : Nat
  kind : Nat
  code : BitVec 8
  tokens : List (Nat × BitVec 8)
  /-- the pages of the logged lanes' faults, by first address and bytes (R60, R65) -/
  pages : List (Nat × Nat)
  row : Nat
  memfx : Bool
  seq : Nat
  lane : Nat
  deriving DecidableEq, Repr

/-- A deferred fault on its way to its warp (R56). `lane` is a lane of the path that issued the instruction, which tells the
faulting path. -/
structure Deferred where
  code : BitVec 8
  kind : Nat
  pc : DWord
  lanes : Word
  addr : DWord
  tag : Nat
  lane : Nat
  deriving DecidableEq, Repr

/-- What an instruction in flight still owes its warp: the lanes not yet delivered (R79), and for `waitv` the
condition (R393). -/
inductive PendKind where
  | load (bytes : Nat) (sx : Bool)      -- loads and atomics with return
  | store                               -- stores and reductions: acknowledgements
  | waitv (cond : Nat) (bytes : Nat)    -- satisfied lanes are delivered together
  | long                                -- div, fdiv, fsqrt and other results that arrive
  | refLoad                             -- hld, hcas, hcopy import: the barrier of R183
  | hcmp
  | pin (bias : Bool)                   -- hpin (true), hunpin
  | hsize
  | reg                                 -- csrr, perf, gstat, status values: arrive
  | launch                              -- the identifier of glaunch
  | record                              -- the record read of glaunch
  | matrix                              -- mrow.get
  deriving DecidableEq, Repr

/-- One store piece of a write-buffer entry (R140): the instruction it belongs to, its lane, its offset in the line
and its bytes. -/
structure Piece where
  tag : Nat
  bid : Nat
  wi : Nat
  lane : Nat
  va : DWord
  off : Nat
  bytes : List Byte
  hint : Nat
  secure : Bool
  priv : Bool
  deriving DecidableEq, Repr

/-- An instruction in flight. -/
structure Pend where
  tag : Nat
  bid : Nat
  wi : Nat
  slot : Nat
  pc : DWord
  enc : DWord
  kind : PendKind
  dst : Dst
  dst2 : Dst
  need : Word
  /-- values waiting to be delivered together (long results, waitv, raw alias of hpin) -/
  vals : Tab (BitVec 128)
  order : Order
  scope : Scope
  /-- comparands or new values the barrier needs later -/
  aux : Tab DWord
  /-- stores that the write buffer has not yet taken, in order (R140) -/
  feed : List Piece
  deriving DecidableEq, Repr

/-- A warp (R19, R71-R90, R34-R36). Register files list only what differs from the launch value. -/
structure Warp where
  slots : List Slot
  v : Tab (List Word)
  o : Tab (List Word)
  k : Tab Word
  h : Tab (List DWord)
  p : Tab Word
  l : List Word
  lc0 : Word
  lc1 : Word
  empty : List Reg
  spillBase : DWord
  spillDepth : Nat
  spill : List SpillEnt
  rotation : Nat
  levels : List Level
  csr : Csr
  log : List LogEnt
  logSeq : Nat
  /-- `seq` of the entry of the matrix operation most recently logged mid-tile, which ROWPROG tells of (R90) -/
  rowSeq : Option Nat
  /-- operations logged while the log is full: the warp is Stalled (R62) -/
  logWait : List Nat
  deferred : List Deferred
  exited : Word
  /-- lanes of the paths that have not issued since a resume: the first issue of each matches no breakpoint (R101) -/
  freshLanes : Word
  done : Bool
  number : Nat
  issueSlot : Nat
  lastSlot : Nat
  trapSlot : Nat
  progress : Nat
  openOps : List Nat
  batches : List (Nat × List Nat)
  /-- its engine commands that no `ewait` has counted complete, with whether each writes on the tensor side (R141, R425) -/
  engCmds : List (Nat × Bool)
  deriving DecidableEq, Repr

/-- The launch record (R193). -/
structure LaunchRec where
  entry : DWord
  gridx : Nat
  gridy : Nat
  gridz : Nat
  warps : Nat
  regs : Nat
  scratch : Nat
  tiles : Nat
  barriers : Nat
  gang : Nat
  mirror : Nat
  spill : Nat
  pair : Bool
  kill : Bool
  push : Bool
  privileged : Bool
  world : Bool
  prio : Nat
  scope : Nat
  target : Nat
  hintMode : Nat
  hintCount : Nat
  hintTab : DWord
  hints : List DWord
  params : DWord
  compAddr : DWord
  compVal : DWord
  faultRec : DWord
  handler : DWord
  spillBase : DWord
  deriving DecidableEq, Repr

/-- Where a block stands on the way from running to saved, held or retired (R34, R66, R69). -/
inductive BlockPhase where
  | running
  | wantSave (reason : Nat)     -- waits for its save record (R66)
  | halting (reason : Nat)      -- every path halted, draining
  | ending                      -- terminated or exited: retires (R47)
  deriving DecidableEq, Repr

/-- A resident block (R19, R27, R78, R428, R430, R91, R92). -/
structure Block where
  bid : Nat
  gid : Nat
  lrec : LaunchRec
  launchAddr : DWord
  linear : Nat
  member : Nat
  gangId : Nat
  world : Bool
  core : Nat
  phase : BlockPhase
  /-- terminated (R59, R46): no later fault of its accesses is taken -/
  killed : Bool
  warps : List Warp
  slice : List Host.Cell
  tiles : Tab Word
  bars : Tab DWord
  gbar : DWord
  /-- the mirror-window stores since the gang barrier last released, by byte of the slice: the source and the value of the one that
  stands (R137) -/
  win : Tab (Nat × Byte)
  cancel : Bool
  ilocks : List (Nat × Nat)
  ilockedBytes : Nat
  ilockShort : Bool
  hint : Option Nat
  arrival : Nat
  home : Nat
  start : Nat
  saveRec : Option Nat
  /-- the unit's target domain (R202) -/
  target : Nat
  /-- code lines that are still to be filled before a warp becomes Ready (R219) -/
  push : List DWord
  deriving DecidableEq, Repr

/-- What a request asks of memory (R115, R390, R396). -/
inductive ReqKind where
  | load | store | rmw (op : Nat) | red (op : Nat) | fetch | refLoad | refStore | refCas | fieldLoad | fieldStore
  | resolve | heal | pin (bias : Bool) | size | matrix | prefetch
  deriving DecidableEq, Repr

/-- Where a request stands. -/
inductive Stage where
  | toOwner                       -- in transit to the owner, not translated (R115 step 3)
  | walking (key : Nat)           -- waits for a table walk (R118)
  | heldOwner                     -- held at the owner by a migration or class change (R128, R152)
  | toHome                        -- translated, on its way to the home slice (R115 step 5)
  | visitorRead                   -- an ordinary load that missed in the visitor partition (R144)
  | ownership                     -- a drain that needs ownership (R144)
  | granted                       -- waits for a grant on its way (R149)
  | heldHome                      -- held at the old home (R129), or behind a copying object (R188)
  | bridge                        -- at D0's bridge (R113)
  | remote                        -- on its way to a remote wafer (R112)
  | answered                      -- the answer is on its way to the requester
  | acked                         -- the acknowledgement is on its way
  | faulted (code : BitVec 8) (logged : Bool)   -- the fault is on its way to the core
  deriving DecidableEq, Repr

/-- The attributes an answer carries (R115 step 6): class, world, the leaf's permission bits R, W, X and U as bits 0 to 3, page
size and physical line. -/
structure Attr where
  cls : Nat
  world : Bool
  perms : Nat
  size : Nat
  pline : Nat
  deriving DecidableEq, Repr

/-- The attributes of a request that has not been translated. -/
def Attr.zero : Attr := { cls := 0, world := false, perms := 0, size := 0, pline := 0 }

/-- A request in flight: one lane's access, a drained line, a fetch, a resolve or a heal. -/
structure Req where
  id : Nat
  core : Nat
  bid : Nat
  wi : Nat
  tag : Nat
  lane : Nat
  kind : ReqKind
  va : DWord
  size : Nat
  data : BitVec 128
  cmp : DWord
  strong : Bool
  order : Order
  scope : Scope
  hint : Nat
  secure : Bool
  priv : Bool
  stage : Stage
  pa : Nat
  attr : Attr
  value : BitVec 128
  pieces : List Piece
  /-- the line of an ordinary load to be filled, as it was read (F(R) of R168) -/
  line : List Byte
  /-- the L1 may take the line: no store of the core to it has been issued since -/
  fill : Bool
  /-- order in which accesses were performed -/
  seq : Nat
  /-- the reference address before the field offset, for reference accesses (R397) -/
  obj : DWord
  /-- operand-log entry that replays it, if any (R64) -/
  replay : Option Nat
  /-- its place in the arrival order of its home, once it waits there (R51, R148) -/
  arrived : Option Nat
  /-- of a 128-bit access, the half that has been performed: the upper one or the lower (R159) -/
  half : Option Bool
  deriving DecidableEq, Repr

/-- A write-buffer entry (R140): its line, its stores in order, and the requests that drain it, none before the drain. -/
structure WbEnt where
  line : Nat
  pieces : List Piece
  draining : List Nat
  deriving DecidableEq, Repr

/-- An L1 or instruction-cache line (R139, R153). -/
structure CLine where
  vline : Nat
  bytes : List Byte
  attr : Attr
  /-- blocks that hold a lock on the line (instruction cache, R153) -/
  locks : List Nat
  deriving DecidableEq, Repr

/-- A range-lock entry (R259). -/
structure RLock where
  write : Bool
  bid : Nat
  source : Nat
  warp : Nat
  lo : Nat
  hi : Nat
  op : Nat
  deriving DecidableEq, Repr

/-- An instruction breakpoint (R101). -/
structure Brk where
  addr : DWord
  en : Bool
  secok : Bool
  deriving DecidableEq, Repr

/-- A performance counter (R267). -/
structure Perf where
  sel : BitVec 12
  cnt : DWord
  deriving DecidableEq, Repr

/-- An operation of the matrix queue (R220, R412). `state`: 0 waiting its turn, 1 operands being read,
2 rows done and work still owed, 3 stopped by a logged fault with the work of its rows still owed (R413). -/
structure MatOp where
  op : Nat
  tag : Nat
  bid : Nat
  wi : Nat
  pc : DWord
  enc : DWord
  kops : List Word
  pair : List DWord
  row : Nat
  startRow : Nat
  state : Nat
  bdata : List (List Byte)
  /-- need and work in half array-cycles (R224, R412) -/
  need : Nat
  work : Nat
  flags : Word
  secure : Bool
  priv : Bool
  /-- a lane of the path that issued it (R59) -/
  lane : Nat
  deriving DecidableEq, Repr

/-- The sets of one issue slot (R36-R39): (block, warp) with the clock at which each entered its set. -/
structure IssueSlot where
  active : List (Nat × Nat × Nat)
  pending : List (Nat × Nat × Nat)
  last : Option (Nat × Nat)
  run : Nat
  issuedAt : Option Nat
  /-- ready-since clocks of pending warps (R39) -/
  readySince : List (Nat × Nat × Nat)
  /-- issues of the slot for which active Ready warps have been passed over, in the greedy mode (R49) -/
  passed : List (Nat × Nat × Nat)
  /-- a `yield` of the exchange mode gives the warp's place up (R347); the step that sets it takes it -/
  trade : Bool
  deriving DecidableEq, Repr

/-- A core (R15, R25, R94, R139, R140, R153, R259, R267). -/
structure Core where
  schedmode : Bool
  schedPending : Option Bool
  /-- CYCLE minus the model's clock -/
  cycleBase : DWord
  brks : Tab Brk
  perfs : Tab Perf
  locks : Tab RLock
  /-- range-lock entries of reloaded operations for which the table has no free place: they lock as entries do, and take the places
  freed first (R68, R413) -/
  owed : List RLock
  l1 : List CLine
  wb : Tab (List WbEnt)
  icache : List CLine
  matq : List MatOp
  issue : List IssueSlot
  reservedBy : Option Nat
  /-- mirror windows, in KiB, of gang members that have retired before the last of their gang, by gang (R47) -/
  windows : List (Nat × Nat)
  /-- accumulator tiles, scratchpad and registers are held by the blocks; these are the warp numbers in use (R497) -/
  warpNums : List Nat
  deriving DecidableEq, Repr

/-- An engine command (R222, R418-R425). `state`: 0 queued, 1 in progress, 2 payload done. -/
structure EngCmd where
  id : Nat
  core : Nat
  bid : Nat
  wi : Nat
  pc : DWord
  gid : Nat
  warpNo : Nat
  kind : Nat            -- 0 enl, 1 fix, 2 mdrain
  shape : List Word
  comp : Option (List Word)
  secure : Bool
  priv : Bool
  state : Nat
  /-- mdrain: not yet handed over by the matrix queue (R424) -/
  waitTile : Bool
  tile : Tab Word
  row : Nat
  token : Option Nat
  /-- address of the access that waits for a reply -/
  fva : DWord
  /-- a lane of the path that issued it (R59) -/
  lane : Nat
  deriving DecidableEq, Repr

/-- A bay: its Safelight and its engines (R99, R222, R225). -/
structure Bay where
  slewUp : Nat
  slewDown : Nat
  ramplo : Word
  ramphi : Nat
  duties : List Nat
  enl : List EngCmd
  fix : List EngCmd
  /-- values written and not yet in force (R100) -/
  nextUp : Option Nat
  nextDown : Option Nat
  nextRamplo : Option Word
  deriving DecidableEq, Repr

/-- A memory queue of R103. -/
structure RingQ where
  base : DWord
  log : Nat
  prod : Word
  cons : Word
  deriving DecidableEq, Repr

/-- A reply a unit waits for (R60): what the token names. -/
inductive Waiter where
  | logEnt (tag : Nat)
  | fetch (bid wi slot : Nat) (code : BitVec 8)
  | spill (bid wi slot : Nat) (code : BitVec 8) (va : DWord)
  | record (bid wi slot : Nat) (code : BitVec 8)
  | engine (bk eng cmd : Nat)
  | orangery (dk : Nat)
  | comp (gid : Nat)
  | hint (gid : Nat)
  | lodge (dk q : Nat) (code : BitVec 8)
  deriving DecidableEq, Repr

/-- A fault-queue record to write, held while its queue is full or off (R60, R103). -/
structure FaultRecEnt where
  bytes : List Byte
  token : Nat
  deriving DecidableEq, Repr

/-- A memory-side TLB entry (R118): the page, its size and its leaf. -/
structure TlbEnt where
  page : Nat
  size : Nat
  leaf : DWord
  lpa : Nat
  moving : Bool
  deriving DecidableEq, Repr

/-- The states of a visitor-partition line (R143). -/
inductive VState where
  | i | s | e | m | r
  deriving DecidableEq, Repr

/-- A visitor-partition line (R143, R145, R149). -/
structure VLine where
  pline : Nat
  state : VState
  seq : BitVec 8
  bytes : List Byte
  dirty : BitVec 4
  gid : Nat
  cls : Nat
  /-- virtual line, for the purge of a migrated page's replicas -/
  vline : Nat
  /-- the way of its set that holds it (R142) -/
  way : Nat
  deriving DecidableEq, Repr

/-- A sparse-directory entry (R147, R256). -/
structure DirEnt where
  pline : Nat
  sharers : BitVec 56
  owner : Nat
  owned : Bool
  seq : BitVec 8
  lru : Nat
  deriving DecidableEq, Repr

/-- An open transaction at a home (R148): the line, the request it serves, if any, and the probes unanswered. -/
structure Trans where
  pline : Nat
  req : Option Nat
  waitFor : List (Nat × BitVec 8)
  inval : Bool
  deriving DecidableEq, Repr

/-- Messages of the coherence protocol and of the dispatchers, in the order sent (R149, R200). -/
inductive MsgBody where
  | grant (pline : Nat) (dk : Nat) (excl : Bool) (seq : BitVec 8) (req : Nat) (bytes : List Byte) (drop : Option Bool)
  | probe (pline : Nat) (dk : Nat) (inval : Bool) (seq : BitVec 8)
  | answer (pline : Nat) (dk : Nat) (seq : BitVec 8) (dirty : BitVec 4) (bytes : List Byte) (stale : Bool)
  | writeback (pline : Nat) (dk : Nat) (dirty : BitVec 4) (bytes : List Byte)
  | launch (tok : Nat)
  | reply (tok : Nat) (gid : Nat)
  | unit (gid : Nat) (linear : Nat) (target : Nat) (dk : Nat) (save : Option Nat)
  | cancel (gid : Nat) (lvl : Nat) (key : Nat)
  | publish (dk : Nat) (free : Nat)
  | offer (gid : Nat) (linear : Nat) (target : Nat) (dk : Nat) (save : Option Nat)
  | ack (dk : Nat) (q : Nat)
  | qinval (q : Nat) (dk : Nat) (version : Word)
  deriving DecidableEq, Repr

/-- A message with its number. -/
structure Msg where
  id : Nat
  body : MsgBody
  deriving DecidableEq, Repr

/-- A migration (R127-R131): the page and its new frame, and who asked. `phase`: 0 queued, 1 copying, 2 switched, 3 the held
writes forwarded. -/
structure Mig where
  vpage : Nat
  size : Nat
  oldPa : Nat
  newPa : Nat
  tag : Option Nat
  phase : Nat
  ownerDk : Nat
  /-- requests sent on from the old home (R128 step 5) -/
  fwd : List Nat
  deriving DecidableEq, Repr

/-- An object state in a relocation set's forwarding table (R186). -/
inductive FwdState where
  | uncopied | copying | copied | skipped
  deriving DecidableEq, Repr

/-- A forwarding entry (R186). -/
structure FwdEnt where
  old : Nat
  new : Nat
  state : FwdState
  deriving DecidableEq, Repr

/-- A span record (R186). -/
structure Span where
  span : Nat
  first : Nat
  count : Nat
  /-- the 64 KiB frame the span lies in when the set starts, by model address -/
  frame : Nat
  deriving DecidableEq, Repr

/-- The relocation set in force (R186-R189). -/
structure RelSet where
  desc : DWord
  fwd : DWord
  world : Bool
  spans : List Span
  entries : List FwdEnt
  next : Nat
  doneWord : DWord
  doneVal : Word
  busy : Bool
  /-- entries whose destination write waits at a fault queue, with the token of each -/
  tokens : List (Nat × Nat)
  deriving DecidableEq, Repr

/-- A reference sweep in progress (R190). -/
structure Sweep where
  rec_ : DWord
  word : Nat
  world : Bool
  good : BitVec 2
  written : Nat
  skipped : Nat
  deriving DecidableEq, Repr

/-- What an owner does for a path that waits for it: a translation change (R120), a class change (R152), a range
operation (R388). -/
structure UnitOp where
  op : Nat
  /-- `cls` holds the class that `rgn.setclass` sets, or the colour that an `hphase` replaces;
  0 xlat.upd, 1 rgn.setclass, 2 a migration's purge, 3 hphase, 4 ilock, 5 wswitch, 6 cwb, 7 cinv, 8 cflush -/
  what : Nat
  dk : Nat
  lo : Nat
  hi : Nat
  cls : Nat
  secure : Bool
  /-- the range lies in the owner-56 space (R113) -/
  host : Bool
  /-- requests the owner must see accepted before the purge (R120 step 2) -/
  waitReqs : List Nat
  /-- cores that have not acknowledged the purge -/
  cores : List Nat
  /-- the instruction that receives a status -/
  tag : Option Nat
  core : Nat
  bid : Nat
  wi : Nat
  /-- 0 waits its turn, 1 started, 2 purge sent -/
  phase : Nat
  deriving DecidableEq, Repr

/-- A host queue's record as its owner's Lodge holds it (R234, R239), by the queue's number on its wafer. -/
structure HostQ where
  ring : DWord
  log : Nat
  enabled : Bool
  privileged : Bool
  world : Bool
  err : Bool
  priocap : Nat
  errcode : Nat
  version : Word
  cons : Word
  prod : Word
  consaddr : DWord
  mapped : Bool
  idleSince : Nat
  served : Nat
  waiting : Bool
  /-- a LAUNCH on its way to its root: its launch token (R235) -/
  launchTok : Option Nat
  /-- the present entry has had its effect, and CONS has not yet been advanced -/
  entryDone : Bool
  grids : List Nat
  /-- a QCMD that waits for the entry boundary: 0 LOAD, 1 DISABLE -/
  pendingOp : Option Nat
  /-- the reply of the pager that the present entry waits for -/
  token : Option Nat
  /-- the clock of the last read of a WAIT's word -/
  polled : Nat
  deriving DecidableEq, Repr

/-- A replica of bytes 0x00-0x0F of a queue record (R236). -/
structure Replica where
  ring : DWord
  log : Nat
  enabled : Bool
  privileged : Bool
  world : Bool
  err : Bool
  priocap : Nat
  errcode : Nat
  version : Word
  stale : Bool
  deriving DecidableEq, Repr

/-- A first fault, as the dispatchers keep it (R208, R209). -/
structure FirstFault where
  code : BitVec 8
  kind : Nat
  source : Nat
  slot : Nat
  warp : Nat
  member : Nat
  lanes : Word
  pc : DWord
  addr : DWord
  index : DWord
  deriving DecidableEq, Repr

/-- The counts a dispatcher keeps of a grid (R206, R208). -/
structure GridCnt where
  dealt : Nat
  started : Nat
  retired : Nat
  discarded : Nat
  faults : Tab Nat
  first : Option FirstFault
  /-- dealing to this dispatcher is finished -/
  closed : Bool
  cancelled : Bool
  /-- its counts have been reported upward, or, at the root, the grid has retired -/
  reported : Bool
  deriving DecidableEq, Repr

/-- How far a grid is dealt at one dispatcher (R200, R201): the next linear index to deal. -/
structure Dealing where
  gid : Nat
  next : Nat
  lo : Nat
  hi : Nat
  /-- at a Pergola: units that Pavilion dealt to it, each with the domain its hint names -/
  extra : List (Nat × Option Nat)
  /-- no further unit will come -/
  closed : Bool
  seq : Nat
  deriving DecidableEq, Repr

/-- A grid (R193-R211). -/
structure Grid where
  gid : Nat
  lrec : LaunchRec
  launchAddr : DWord
  launchDk : Nat
  /-- the root: level 0 Arbor, 1 Pergola, 2 Pavilion, and the key of its unit -/
  rootLvl : Nat
  rootKey : Nat
  cancelled : Bool
  queue : Option Nat
  /-- counts at the Arbors by dk, at the Pergolas by wafer, at the Pavilion -/
  arbors : Tab GridCnt
  pergolas : Tab GridCnt
  pavilion : GridCnt
  /-- completion (R207): the reply a write waits for, and the step reached: 0 none, 1 the fault record, 2 the counts, 3 DONE -/
  compToken : Option Nat
  compPart : Nat
  /-- hint reads (R194): the reply one waits for with its 64 KiB page, and the pages whose read has ended -/
  hintToken : Option (Nat × Nat)
  hintLost : List Nat
  seq : Nat
  deriving DecidableEq, Repr

/-- A launch on its way to its root (R199, R433). -/
structure Launch where
  tok : Nat
  bytes : List Byte
  addr : DWord
  dk : Nat
  secure : Bool
  priv : Bool
  scope : Option Nat
  tag : Option Nat
  /-- the launching block, warp and lanes; none of a Lodge's launch (R205) -/
  path : Option (Nat × Nat × Word)
  queue : Option Nat
  reject : Bool
  deriving DecidableEq, Repr

/-- A unit waiting at an Arbor (R203): a unit that has not started, or a saved block's record. -/
structure UnitQ where
  gid : Nat
  linear : Nat
  target : Nat
  save : Option Nat
  arrival : Nat
  /-- the clock from which an offer is due -/
  offerAt : Nat
  offered : Bool
  prio : Nat
  deriving DecidableEq, Repr

/-- A saved block (R66, R106): where its record lies, whose pool that is, and what the Arbor and the core's queues keep of it.
The members of a gang share the key. -/
structure Saved where
  key : Nat
  recPa : Nat
  pages : Nat
  poolDk : Nat
  reason : Nat
  blk : Block
  ops : List MatOp
  locks : List RLock
  engs : List EngCmd
  pends : List Pend
  deriving DecidableEq, Repr

/-- A save-record request in the order made (R66). -/
structure SaveReq where
  bid : Nat
  reason : Nat
  deriving DecidableEq, Repr

/-- An access of the host or a peer at a host port: a register access through BAR0 or a memory access through BAR2 (R95, R96, R243). A
read has as many bytes as it asks for. -/
structure PortAcc where
  bar0 : Bool
  write : Bool
  off : Nat
  bytes : List Byte
  deriving DecidableEq, Repr

/-- How a port completes a read: with its bytes, as an Unsupported Request, or with Completer Abort (R96, R243). -/
inductive PortCpl where
  | data (bytes : List Byte)
  | unsupported
  | abort
  deriving DecidableEq, Repr

/-- A domain (R15, R102-R106, R116-R118, R142-R149, R186-R190, R234-R239, R249, R265). -/
structure Domain where
  mask : BitVec 56
  up : Bool
  fwOk : Bool
  fwVersion : Word
  hold : Bool
  saveBase : DWord
  savePages : Nat
  saves : List (Nat × Nat)
  saveReqs : List SaveReq
  visitor : Nat
  splitBusy : Option Nat
  hotthresh : BitVec 16
  hotq : RingQ
  fltq : RingQ
  held : List FaultRecEnt
  waiters : Tab Waiter
  migs : List Mig
  /-- pages locked at this home: first address, bytes, and the owner that moves each (R128) -/
  pageLocks : List (Nat × Nat × Nat)
  relset : DWord
  relsweep : DWord
  relDone : Bool
  relErr : Bool
  relSwept : Bool
  rel : Option RelSet
  sweep : Option Sweep
  dbgHeld : List Nat
  dbgidx : Nat
  tlb : List TlbEnt
  /-- the walks of the memory-side TLB: the page's first offset in 64 KiB blocks, and the root they start from (R118, R252) -/
  walks : List (Nat × Nat)
  visit : List VLine
  dir : List DirEnt
  trans : List Trans
  dirrd : Option Nat
  dirHit : Bool
  dirent : BitVec 128
  hot : Tab (Tab Nat)
  nseq : Word
  counters : Tab Word
  gridCount : Nat
  arrivals : Nat
  /-- grids of domain scope that this Arbor deals itself (R199) -/
  deal : List Dealing
  units : List UnitQ
  saved : List Saved
  preempting : List Nat
  preemptFor : Option (Nat × Nat)
  root : DWord
  hostRoot : DWord
  sftBase : DWord
  hotBase : DWord
  qtab : DWord
  qbusy : Option (Nat × Nat × List Nat)
  inwin : DWord
  inwinLog : Nat
  queues : Tab HostQ
  qpending : List Nat
  replicas : Tab Replica
  /-- of a host port: the accesses that wait, in the order of arrival, and the completions of its reads (R96, R243) -/
  portq : List PortAcc
  cpls : List PortCpl
  deriving DecidableEq, Repr

/-- A pod link's end (R232, R233, R250). -/
structure PodLink where
  present : Bool
  usable : Bool
  peerWafer : Nat
  peerLink : Nat
  replays : Nat
  deriving DecidableEq, Repr

/-- A wafer (R107, R202, R248-R252, R155, R490-R494). -/
structure Wafer where
  number : Nat
  preemptgap : Nat
  pergHold : Bool
  pavHold : Bool
  podmap : BitVec 16
  topobase : DWord
  capbase : DWord
  hostwin : DWord
  hostwinEn : Bool
  heapBase : Tab DWord
  heapLimit : Tab DWord
  phase : Tab (BitVec 2)
  links : Tab PodLink
  dist : Tab Nat
  powered : Bool
  reduced : Bool
  /-- firmware holds the device in reduced service (R496) -/
  heldReduced : Bool
  /-- the Safelight steps there had been at the wafer's reset: ROTOR counts from it (R226) -/
  rotorBase : Nat
  views : Tab Nat
  unacked : Tab Nat
  /-- a link whose table entry firmware has written, GEN being odd until the update ends (R252) -/
  training : Option Nat
  pergDeal : List Dealing
  pavDeal : List Dealing
  halves : Tab Nat
  /-- host reads of window halves that wait behind a transaction of their line: the half, whether ownership is asked for, and the
  place in the arrival order (R148, R156) -/
  hostReads : List (Nat × Bool × Nat)
  snoops : List (Nat × Bool × Nat)
  otpIndex : Nat
  minVersion : Word
  spdmLog : List (Nat × List Byte)
  deriving DecidableEq, Repr

/-- The path that issues: block, warp and PC slot. -/
structure PathRef where
  bid : Nat
  wi : Nat
  slot : Nat
  deriving DecidableEq, Repr

/-- One entry of the agenda (log 3): which agent moves next. -/
inductive Move where
  | issue (ck : Nat) (slot : Nat)       -- an issue slot issues
  | event (i : Instr) (a : EvArgs)      -- an event of the table takes place
  | tick                                -- one cc passes
  | hostWrite (pa : Nat) (b : Byte)     -- the host or a peer writes a byte of its own memory
  | dropL1 (ck : Nat) (vline : Nat)     -- the replacement choice of R139
  | dropVisitor (dk : Nat) (pline : Nat)  -- a silent eviction of R144
  | dropTlb (dk : Nat) (page : Nat)     -- a replacement in the memory-side TLB
  | dropIcache (ck : Nat) (vline : Nat) -- a replacement in the instruction cache
  | port (dk : Nat) (acc : Option PortAcc)  -- the host reads or writes through BAR0 at a port, or the port tries what waits there
  | firmware (w : Nat)                  -- D0's firmware ends its update of the topology table (R252)
  | unitDone (op : Nat)                 -- a unit finishes what a path waits for (R185, R120, R152, R153)
  deriving DecidableEq, Repr

/-- The machine. -/
structure State where
  clock : Nat
  wafers : Tab Wafer
  domains : Tab Domain
  bays : Tab Bay
  cores : Tab Core
  blocks : List Block
  grids : List Grid
  mem : List Host.Cell
  poison : List Nat
  reqs : List Req
  pends : List Pend
  msgs : List Msg
  launches : List Launch
  unitOps : List UnitOp
  safelightSteps : Nat
  agenda : List Move
  cur : Option PathRef
  ops : Ops
  nextId : Nat
  freeCtr : Nat
  deriving DecidableEq, Repr

/-- The ways a step can stop. -/
inductive Fault where
  /-- Raised by an instruction's meaning when the state names no live path to issue it (`State.cur`), or holds no
  operands in its format (`State.ops`). The step function never does this: it names the path and latches the operands
  first. Safe: nothing is claimed of such a state. -/
  | noIssuingPath
  deriving DecidableEq, Repr

/-- The ways a step is refused. -/
inductive Refusal where
  /-- Raised by an arm of exec that has no meaning yet. Safe: nothing is claimed of such a step. -/
  | notModelled (mnemonic : String)
  deriving DecidableEq, Repr

/-- What an unlisted byte of memory reads as (log 1: DESIGN CHOICE, unsafe). -/
def memDefault : Byte := 0

/-- A core as reset leaves it: SCHEDMODE 1 and CYCLE 0 (R94, R99), nothing held. -/
def Core.init : Core :=
  { schedmode := true, schedPending := none, cycleBase := 0, brks := [], perfs := [], locks := [], owed := [], l1 := [], wb := [], icache := [], matq := [],
    issue := List.replicate 4 { active := [], pending := [], last := none, run := 0, issuedAt := none,
                                readySince := [], passed := [], trade := false },
    reservedBy := none, windows := [], warpNums := [] }

/-- A bay as reset leaves it (R99, R226). -/
def Bay.init : Bay :=
  { slewUp := 8, slewDown := 8, ramplo := 0x22222222, ramphi := 0, duties := List.replicate 8 0, enl := [], fix := [], nextUp := none, nextDown := none, nextRamplo := none }

/-- A queue that is off (R103). -/
def RingQ.init : RingQ := { base := 0, log := 0, prod := 0, cons := 0 }

/-- A domain as reset leaves it (R102-R106, R132, R196, R235, R257, R265, R488); the enabled set is log 5. -/
def Domain.init : Domain :=
  { mask := BitVec.allOnes 56, up := false, fwOk := true, fwVersion := 0, hold := false, saveBase := 0,
    savePages := 0, saves := [], saveReqs := [], visitor := 4, splitBusy := none, hotthresh := 4096,
    hotq := .init, fltq := .init, held := [], waiters := [], migs := [], pageLocks := [], relset := 0,
    relsweep := 0, relDone := false, relErr := false, relSwept := false, rel := none, sweep := none,
    dbgHeld := [], dbgidx := 0, tlb := [], walks := [], visit := [], dir := [], trans := [], dirrd := none,
    dirHit := false, dirent := 0, hot := [], nseq := 1, counters := [], gridCount := 1, arrivals := 0,
    deal := [], units := [], saved := [], preempting := [], preemptFor := none, root := 0, hostRoot := 0, sftBase := 0,
    hotBase := 0, qtab := 0, qbusy := none, inwin := 0, inwinLog := 0, queues := [], qpending := [],
    replicas := [], portq := [], cpls := [] }

/-- A wafer as reset leaves it (R107); link presence, the index of R491 and the fused version are log 5. -/
def Wafer.init : Wafer :=
  { number := 0, preemptgap := 8, pergHold := false, pavHold := false, podmap := 1, topobase := 0, capbase := 0,
    hostwin := 0, hostwinEn := false, heapBase := [], heapLimit := [], phase := [], links := [], dist := [],
    powered := false, reduced := true, heldReduced := false, rotorBase := 0, views := [], unacked := [], training := none, pergDeal := [], pavDeal := [], halves := [], hostReads := [],
    snoops := [], otpIndex := 0, minVersion := 0, spdmLog := [] }

/-- A pod link before training (R250; presence is log 5). -/
def PodLink.init : PodLink := { present := true, usable := false, peerWafer := 0, peerLink := 0, replays := 0 }

/-- The machine right after reset: every register at the value the spec gives, nothing resident, nothing in
flight, memory with nothing listed (R11, R73-R94, R99-R107). -/
def State.reset : State :=
  { clock := 0, wafers := [], domains := [], bays := [], cores := [], blocks := [], grids := [], mem := [],
    poison := [], reqs := [], pends := [], msgs := [], launches := [], unitOps := [], safelightSteps := 0,
    agenda := [], cur := none, ops := .event {}, nextId := 0, freeCtr := 0 }

end Sys2Proof.Machine
end

