-- ==== Sys2Proof/Machine/Flags.lean ====
section
/-!
DEFINITION. The flags of FPMODE (R87, R279): their bits, and the one operation that raises them. A rounding's own flags are computed
beside it in Numbers.lean; the compares write predicates and raise nothing but NV.
-/

namespace Sys2Proof.Machine

def flNV : Word := 1
def flDZ : Word := 2
def flOF : Word := 4
def flUF : Word := 8
def flNX : Word := 16
def flAOV : Word := 32
def flASAT : Word := 64
def flISAT : Word := 128

/-- The flags when a condition holds. -/
def flIf (b : Bool) (f : Word) : Word := if b then f else 0

/-- The sticky flags of FPMODE joined with new ones (R87). -/
def Warp.setFlags (w : Warp) (fl : Word) : Warp :=
  { w with csr := { w.csr with fpmode := w.csr.fpmode ||| (fl &&& 0xFF) } }

end Sys2Proof.Machine
end

