-- ==== Sys2Proof/Machine/Ops.lean ====
section
/-!
DEFINITION. The named operations over the state: memory, the units' accessors, numbers of messages and free values,
performance counters, barriers' completion, the end of a warp and of a block, TAKING A FAULT (handler entry or fault
record, R59, R61, R89) and the return from one (R440).
-/

namespace Sys2Proof.Machine

/-! ### Keys of units (R1) -/

/-- The domain key of a core key. -/
def dkOfCk (ck : Nat) : Nat := ck / 64
/-- The core slot of a core key. -/
def slotOfCk (ck : Nat) : Nat := ck % 64
/-- The wafer of a domain key. -/
def waferOf (dk : Nat) : Nat := dk / 64
/-- The domain number of a domain key. -/
def domOf (dk : Nat) : Nat := dk % 64
/-- The domain key of domain `d` on wafer `w`. -/
def mkDk (w d : Nat) : Nat := 64 * w + d
/-- The core key of slot `sl` of a domain. -/
def mkCk (dk sl : Nat) : Nat := 64 * dk + sl
/-- The bay key of a core: eight slots a bay (R1). -/
def bkOfCk (ck : Nat) : Nat := 8 * dkOfCk ck + slotOfCk ck / 8
/-- The bay key of bay `b` of a domain. -/
def mkBk (dk b : Nat) : Nat := 8 * dk + b
/-- The domain keys of a wafer, in ascending number. -/
def domainsOf (w : Nat) : List Nat := (List.range Config.domains).map (mkDk w)

/-! ### Bytes and memory (R7, R244) -/

/-- The number of little-endian bytes. -/
def natOfBytes : List Byte → Nat
  | [] => 0
  | b :: t => b.toNat + 256 * natOfBytes t

/-- The `n` little-endian bytes of a number. -/
def bytesOfNat : Nat → Nat → List Byte
  | 0, _ => []
  | n + 1, x => BitVec.ofNat 8 x :: bytesOfNat n (x / 256)

/-- The byte at a memory address. -/
def memGet : List Host.Cell → Nat → Byte
  | [], _ => memDefault
  | (a', b) :: t, a => if a = a' then b else memGet t a

/-- Memory with byte `b` at address `a`, in canonical form when it was: the default leaves no entry. -/
def memSet : List Host.Cell → Nat → Byte → List Host.Cell
  | [], a, b => if b = memDefault then [] else [(a, b)]
  | (a', b') :: t, a, b =>
    if a < a' then (if b = memDefault then ((a', b') :: t).filter (fun e => e.1 != a) else (a, b) :: (a', b') :: t)
    else if a = a' then (if b = memDefault then t.filter (fun e => e.1 != a) else (a, b) :: t)
    else (a', b') :: memSet t a b

/-- Every listed address lies at or above `lo`, the addresses rise strictly, and no entry holds the default. -/
def Memory.wfFrom : Nat → List Host.Cell → Bool
  | _, [] => true
  | lo, (a, b) :: t => decide (lo ≤ a) && decide (b ≠ memDefault) && Memory.wfFrom (a + 1) t

/-- The canonical form of memory. -/
def Memory.wf (m : List Host.Cell) : Bool := Memory.wfFrom 0 m

/-- `n` bytes from address `a`. -/
def memRead (m : List Host.Cell) (a : Nat) : Nat → List Byte
  | 0 => []
  | n + 1 => memGet m a :: memRead m (a + 1) n

/-- Bytes stored from address `a` upward. -/
def memWrite (m : List Host.Cell) (a : Nat) : List Byte → List Host.Cell
  | [] => m
  | b :: t => memWrite (memSet m a b) (a + 1) t

/-- The model's address of a device physical address on wafer `w`. -/
def devAddr (w pa : Nat) : Nat := w * 2 ^ 52 + pa % 2 ^ 52
/-- The model's address of a host bus address behind port `p` of wafer `w` (R113, R242). -/
def hostAddr (w port bus : Nat) : Nat := 2 ^ 60 + (w * 4 + port) * 2 ^ 52 + bus % 2 ^ 52
/-- The home domain of a device address (R244). -/
def homeOf (a : Nat) : Nat := mkDk (a / 2 ^ 52 % 16) (a / 2 ^ 35 % 64)
/-- The 128-byte line of an address. -/
def lineOf (a : Nat) : Nat := a / 128

/-- The bits `[hi:lo]` of a number. -/
def bitsOf (x hi lo : Nat) : Nat := x / 2 ^ lo % 2 ^ (hi + 1 - lo)

/-! ### Units of the state -/

def State.wafer (s : State) (w : Nat) : Wafer := s.wafers.get .init w
def State.domain (s : State) (dk : Nat) : Domain := s.domains.get .init dk
def State.bay (s : State) (bk : Nat) : Bay := s.bays.get .init bk
def State.core (s : State) (ck : Nat) : Core := s.cores.get .init ck
def State.updWafer (s : State) (w : Nat) (f : Wafer → Wafer) : State :=
  { s with wafers := s.wafers.set w (f (s.wafer w)) }
def State.updDomain (s : State) (dk : Nat) (f : Domain → Domain) : State :=
  { s with domains := s.domains.set dk (f (s.domain dk)) }
def State.updBay (s : State) (bk : Nat) (f : Bay → Bay) : State :=
  { s with bays := s.bays.set bk (f (s.bay bk)) }
def State.updCore (s : State) (ck : Nat) (f : Core → Core) : State :=
  { s with cores := s.cores.set ck (f (s.core ck)) }

/-- The resident block of a number. -/
def State.block? (s : State) (bid : Nat) : Option Block := s.blocks.find? (fun b => b.bid == bid)
def State.updBlock (s : State) (bid : Nat) (f : Block → Block) : State :=
  { s with blocks := s.blocks.map (fun b => if b.bid = bid then f b else b) }
/-- Warp `wi` of a block. -/
def State.warp? (s : State) (bid wi : Nat) : Option Warp := (s.block? bid).bind (fun b => b.warps[wi]?)
def State.updWarp (s : State) (bid wi : Nat) (f : Warp → Warp) : State :=
  s.updBlock bid (fun b => { b with warps := b.warps.modify wi f })
/-- A PC slot of a warp. -/
def State.slot? (s : State) (r : PathRef) : Option Slot := (s.warp? r.bid r.wi).bind (fun w => w.slots[r.slot]?)
def State.updSlot (s : State) (r : PathRef) (f : Slot → Slot) : State :=
  s.updWarp r.bid r.wi (fun w => { w with slots := w.slots.modify r.slot f })
def State.grid? (s : State) (gid : Nat) : Option Grid := s.grids.find? (fun g => g.gid == gid)
def State.updGrid (s : State) (gid : Nat) (f : Grid → Grid) : State :=
  { s with grids := s.grids.map (fun g => if g.gid = gid then f g else g) }
def State.req? (s : State) (id : Nat) : Option Req := s.reqs.find? (fun r => r.id == id)
def State.updReq (s : State) (id : Nat) (f : Req → Req) : State :=
  { s with reqs := s.reqs.map (fun r => if r.id = id then f r else r) }
def State.dropReq (s : State) (id : Nat) : State := { s with reqs := s.reqs.filter (fun r => r.id != id) }
def State.pend? (s : State) (tag : Nat) : Option Pend := s.pends.find? (fun p => p.tag == tag)
def State.updPend (s : State) (tag : Nat) (f : Pend → Pend) : State :=
  { s with pends := s.pends.map (fun p => if p.tag = tag then f p else p) }
def State.dropPend (s : State) (tag : Nat) : State := { s with pends := s.pends.filter (fun p => p.tag != tag) }
def State.msg? (s : State) (id : Nat) : Option Msg := s.msgs.find? (fun m => m.id == id)
def State.dropMsg (s : State) (id : Nat) : State := { s with msgs := s.msgs.filter (fun m => m.id != id) }

/-- A fresh number for a message, request or operation (log 3). -/
def State.fresh (s : State) : Nat × State := (s.nextId, { s with nextId := s.nextId + 1 })
/-- A message sent after every earlier one (R200, R229). -/
def State.send (s : State) (b : MsgBody) : State :=
  { s with msgs := s.msgs ++ [{ id := s.nextId, body := b }], nextId := s.nextId + 1 }
/-- A request put in flight. -/
def State.addReq (s : State) (r : Req) : State :=
  { s with reqs := s.reqs ++ [{ r with id := s.nextId }], nextId := s.nextId + 1 }

/-- The next free value (R6, log 4). -/
def State.free (s : State) : BitVec 64 × State := (Config.freeValue s.freeCtr, { s with freeCtr := s.freeCtr + 1 })
/-- 32 fresh undefined lanes (R75). -/
def State.freeLanes (s : State) : List Word × State :=
  (lanes32.map (fun i => (Config.freeValue (s.freeCtr + i)).setWidth 32), { s with freeCtr := s.freeCtr + 32 })
/-- A fresh choice among `n` outcomes the spec leaves unspecified. -/
def State.choose (s : State) (n : Nat) : Nat × State :=
  (Config.freeChoice s.freeCtr n, { s with freeCtr := s.freeCtr + 1 })

/-! ### Masks and lanes -/

/-- The lanes of a mask, ascending. -/
def lanesOf (m : Word) : List Nat := lanes32.filter (fun i => m.getLsbD i)
/-- The mask of a list of lanes. -/
def maskOf (ls : List Nat) : Word := ls.foldl (fun m i => m ||| (1#32 <<< i)) 0
/-- The lowest lane of a mask, or 0. -/
def lowLane (m : Word) : Nat := (lanesOf m).headD 0
/-- Lane `i` of a register. -/
def lane (r : List Word) (i : Nat) : Word := r.getD i 0

/-- A register whose active lanes take new values; the others keep theirs (R80). -/
def putLanes {α : Type} (m : Word) (old : Nat → α) (new : Nat → α) : List α :=
  lanes32.map (fun i => if m.getLsbD i then new i else old i)

/-! ### Performance counters (R267) -/

/-- Whether counter `p` counts events of a block of the given mode and world. -/
def perfAdmits (p : Perf) (priv secure : Bool) : Bool :=
  p.sel.getLsbD 10 && (match (p.sel.extractLsb' 8 2).toNat with
    | 0 => true | 1 => !priv | 2 => priv | _ => false) && (!secure || p.sel.getLsbD 11)

/-- `n` occurrences of an event counted on a core for a block's mode and world. -/
def perfAdd (s : State) (ck ev n : Nat) (priv secure : Bool) : State :=
  if (s.core ck).perfs = [] then s
  else s.updCore ck (fun c => { c with perfs := c.perfs.map (fun (e : Nat × Perf) =>
    if (e.2.sel.extractLsb' 0 8).toNat = ev ∧ perfAdmits e.2 priv secure
    then (e.1, { e.2 with cnt := e.2.cnt + BitVec.ofNat 64 n }) else e) })

/-! ### Warps -/

/-- STATUS bits (R86). -/
def Warp.inTrap (w : Warp) : Bool := w.csr.status.getLsbD 0
def Warp.secure (w : Warp) : Bool := w.csr.status.getLsbD 1
def Warp.priv (w : Warp) : Bool := w.csr.status.getLsbD 2
def Warp.paired (w : Warp) : Bool := w.csr.status.getLsbD 3

/-- One bit of a 32-bit register set or cleared. -/
def setBit (x : Word) (n : Nat) (b : Bool) : Word := if b then x ||| (1#32 <<< n) else x &&& ~~~(1#32 <<< n)

/-- OPLOGCOUNT (R90). -/
def Warp.logCount (w : Warp) : Nat := (w.log.filter (fun e => e.state != .free)).length

/-- Whether the warp holds a memory-effect entry (R65). -/
def Warp.heldFx (w : Warp) : Bool := w.log.any (fun e => e.state != .free && e.memfx)

def LogEnt.empty : LogEnt :=
  { state := .free, pc := 0, enc := 0, lanes := 0, order := 0, addr := [], data := [], tag := 0, kind := 0, code := 0,
    tokens := [], pages := [], row := 0, memfx := false, seq := 0, lane := 0 }

/-- Log entries freed (R64): those that satisfy `p`. ROWPROG.VALID is 1 while the entry of the operation it tells of is not
free (R90). -/
def Warp.freeLog (w : Warp) (p : LogEnt → Bool) : Warp :=
  let gone (e : LogEnt) : Bool := e.state != .free && p e
  { w with log := w.log.map (fun e => if gone e then LogEnt.empty else e),
           csr := if w.log.any (fun e => gone e && some e.seq == w.rowSeq)
             then { w.csr with rowprog := w.csr.rowprog &&& ~~~0x80#32 } else w.csr }

/-- A PC slot that is not live. -/
def Slot.empty : Slot :=
  { live := false, path := { pc := 0, rpc := none, mask := 0 }, wait := .ready, age := 0, reach := 0, susp := 0,
    ordPfx := none, fetchFault := none }

/-- Whether a slot's path has not issued since the warp was resumed (R101). -/
def Warp.isFresh (w : Warp) (sl : Slot) : Bool := sl.path.mask &&& ~~~w.freshLanes == 0

/-- Governed instructions remaining of a reach (R304). -/
def reachCount (r : BitVec 16) : Nat := (r.extractLsb' 11 4).toNat

/-- The reach after one governed instruction has been issued (R304): its PAT bit is used up. -/
def reachNext (r : BitVec 16) : BitVec 16 :=
  if reachCount r ≤ 1 then 0
  else (0#1 ++ BitVec.ofNat 4 (reachCount r - 1) ++ ((r.extractLsb' 3 8) >>> 1) ++ r.extractLsb' 0 3)

/-- Whether a path may stop at this boundary: no reach with instructions remaining (R56, R304). -/
def Slot.atBoundary (sl : Slot) : Bool := reachCount sl.reach == 0 && sl.ordPfx.isNone

/-- The l register takes fresh undefined values in every lane (R75). -/
def State.undefL (s : State) (bid wi : Nat) : State :=
  let (ls, s1) := s.freeLanes
  s1.updWarp bid wi (fun w => { w with l := ls })

/-! ### Hardware loops (R351-R353) -/

/-- The end step of the innermost level when the sequential successor is its end, with the cascade of R352. -/
def loopEnd (fuel : Nat) (w : Warp) (next : DWord) : DWord × Warp :=
  match fuel, w.levels with
  | fuel + 1, lv :: rest =>
    if next = lv.stop then
      let c := if lv.lc then w.lc1 else w.lc0
      let setC (x : Word) (w : Warp) : Warp := if lv.lc then { w with lc1 := x } else { w with lc0 := x }
      if c.toNat ≤ 1 then loopEnd fuel (setC 0 { w with levels := rest }) next
      else (lv.start, setC (c - 1) w)
    else (next, w)
  | _, _ => (next, w)

/-- A control transfer to `t`: every level whose body does not hold `t` ends, with the levels inside it (R353).
Levels are held innermost first. -/
def leaveLoops (w : Warp) (t : DWord) : Warp :=
  { w with levels := (w.levels.reverse.takeWhile (fun lv => decide (lv.start ≤ t) && decide (t < lv.stop))).reverse }

/-! ### Barriers (R428, R430) -/

/-- Whether a warp of a block still counts for barriers. -/
def Warp.counts (w : Warp) : Bool := !w.done

/-- ARRIVED and PASSED of a barrier word (R428). -/
def arrivedOf (b : DWord) : Word := b.setWidth 32
def passedOf (b : DWord) : Word := (b >>> 32).setWidth 32
def barWord (arrived passed : Word) : DWord := passed ++ arrived

/-- Every warp that has not exited has its ARRIVED bit set. -/
def allArrived (ws : List Warp) (arr : Word) : Bool :=
  (List.range ws.length).all (fun i => match ws[i]? with | some w => !w.counts || arr.getLsbD i | none => true)

/-- A path that waited goes on after its instruction of length `len`, with the loop end step (R352). -/
def Warp.goOn (w : Warp) (slot len : Nat) : Warp :=
  match w.slots[slot]? with
  | none => w
  | some sl =>
    let (pc, w1) := loopEnd 3 w (sl.path.pc + BitVec.ofNat 64 len)
    { w1 with slots := w1.slots.modify slot (fun x => { x with path := { x.path with pc := pc }, wait := .ready }) }

/-- The warp after the paths that satisfy `p` have gone on; the second part says whether one did. -/
def Warp.releaseWaits (w : Warp) (p : Wait → Bool) (len : Nat) : Warp × Bool :=
  (List.range w.slots.length).foldl (fun (acc : Warp × Bool) i =>
    match acc.1.slots[i]? with
    | some sl => if sl.live && p sl.wait then (acc.1.goOn i len, true) else acc
    | none => acc) (w, false)

/-- A generation of named barrier `n` ends: PASSED := PASSED or ARRIVED, ARRIVED := 0, every waiting path goes on and
clears its warp's PASSED bit (R428). -/
def finishBar (b : Block) (n : Nat) : Block :=
  let word := b.bars.get 0 n
  let passed := passedOf word ||| arrivedOf word
  let rs := b.warps.map (fun w => w.releaseWaits (fun x => x == .bar n) 4)
  let cleared := maskOf ((List.range rs.length).filter (fun i => match rs[i]? with | some r => r.2 | none => false))
  { b with warps := rs.map (·.1), bars := b.bars.set n (barWord 0 (passed &&& ~~~cleared)) }

/-- The completion test of named barrier `n` (R428). -/
def testBar (b : Block) (n : Nat) : Block :=
  let arr := arrivedOf (b.bars.get 0 n)
  if arr ≠ 0 && allArrived b.warps arr then finishBar b n else b

/-- A gang member has arrived: every warp that has not exited has arrived, or all have exited (R430). -/
def memberArrived (b : Block) : Bool := allArrived b.warps (arrivedOf b.gbar)

/-- A generation of the gang barrier ends in one member. -/
def finishGbar (b : Block) : Block :=
  let passed := passedOf b.gbar ||| arrivedOf b.gbar
  let rs := b.warps.map (fun w => w.releaseWaits (fun x => x == .gbar) 4)
  let cleared := maskOf ((List.range rs.length).filter (fun i => match rs[i]? with | some r => r.2 | none => false))
  { b with warps := rs.map (·.1), gbar := barWord 0 (passed &&& ~~~cleared), win := [] }

/-- Every line of a core's L1 is invalidated (R141). -/
def State.dropL1 (s : State) (ck : Nat) : State := s.updCore ck (fun c => { c with l1 := [] })

/-- Lines on their way to a core may not be filled any more. -/
def State.noFill (s : State) (ck : Nat) (p : Req → Bool) : State :=
  { s with reqs := s.reqs.map (fun r => if r.core = ck ∧ p r = true then { r with fill := false } else r) }

/-- Whether a request's line has been read, so that a fill by it would come from before now: it is answered, or its grant is on
the way (F(R) of R168). -/
def Stage.hasRead : Stage → Bool
  | .granted | .answered | .acked | .faulted _ _ => true
  | _ => false

/-- An acquire of domain scope or wider takes effect on a core: every line of the L1 goes, and lines already read are not filled
(R141, R168). -/
def acquireL1 (s : State) (ck : Nat) : State := (s.dropL1 ck).noFill ck (fun r => r.stage.hasRead)

/-- The completion test of the gang barrier: every member has arrived, and one of them has a warp that arrived
(R430). The release is an acquire of domain scope and invalidates each member's L1 (R141). -/
def testGbar (s : State) (gang : Nat) : State :=
  let ms := s.blocks.filter (fun b => b.gangId = gang)
  if ms.all memberArrived && ms.any (fun b => arrivedOf b.gbar != 0) then
    let s1 := { s with blocks := s.blocks.map (fun b => if b.gangId = gang then finishGbar b else b) }
    ms.foldl (fun s b => acquireL1 s b.core) s1
  else s

/-! ### The end of warps and blocks (R39, R46, R59) -/

/-- One issue slot's sets without a warp; an exited warp's place in the active set is taken by the oldest pending
warp, Ready or not (R39). -/
def IssueSlot.leave (q : IssueSlot) (clock bid wi : Nat) : IssueSlot :=
  let keep (l : List (Nat × Nat × Nat)) := l.filter (fun e => !(e.1 == bid && e.2.1 == wi))
  let wasActive := q.active.any (fun e => e.1 == bid && e.2.1 == wi)
  let q1 := { q with active := keep q.active, pending := keep q.pending, readySince := keep q.readySince, passed := keep q.passed }
  match q1.pending, wasActive with
  | e :: rest, true =>
    { q1 with active := q1.active ++ [(e.1, e.2.1, clock)], pending := rest,
              readySince := q1.readySince.filter (fun x => !(x.1 == e.1 && x.2.1 == e.2.1)) }
  | _, _ => q1

/-- A warp's place in its issue slot's sets is given up (R39). -/
def leaveIssue (s : State) (ck isl bid wi : Nat) : State :=
  s.updCore ck (fun c => { c with issue := c.issue.modify isl (fun q => q.leave s.clock bid wi) })

/-- A warp becomes Exited (R46): no path is live, its barrier bits are cleared and the completion tests are made again
(R428, R430); logged loads are discarded, logged matrix operations run on (R46, R47). -/
def exitWarp (s : State) (bid wi : Nat) : State :=
  match s.block? bid with
  | none => s
  | some b =>
    let s1 := s.updWarp bid wi (fun w =>
      { w with done := true, exited := BitVec.allOnes 32, slots := w.slots.map (fun _ => Slot.empty), spill := [],
               levels := [],
               log := w.log.map (fun e => if e.memfx || e.kind == 4 then e else LogEnt.empty) })
    let clr (x : DWord) : DWord := x &&& ~~~((1#64 <<< wi) ||| (1#64 <<< (32 + wi)))
    let s2 := s1.updBlock bid (fun b =>
      let b1 := { b with bars := b.bars.map (fun e => (e.1, clr e.2)), gbar := clr b.gbar }
      (List.range 16).foldl testBar b1)
    let s3 := testGbar s2 b.gangId
    match b.warps[wi]? with
    | some w => leaveIssue s3 b.core w.issueSlot bid wi
    | none => s3

/-- A save record goes back to its pool (R66, R68). -/
def freeRecord (s : State) (dk pa : Nat) : State :=
  s.updDomain dk (fun d => { d with saves := d.saves.filter (fun e => d.saveBase.toNat + 4096 * e.1 != pa) })

/-- The record reserved for a resident block is given back. -/
def dropRecord (s : State) (b : Block) : State :=
  match b.saveRec with
  | none => s
  | some pa => (freeRecord s b.home pa).updBlock b.bid (fun b => { b with saveRec := none })

/-- The block ends when its last warp has exited; nothing of it is saved (R46, R69). -/
def noteBlockEnd (s : State) (bid : Nat) : State :=
  match s.block? bid with
  | none => s
  | some b =>
    if b.warps.all (·.done) then (dropRecord s b).updBlock bid (fun b => { b with phase := .ending }) else s

/-- The block index (x, y, z) of a linear index (R21). -/
def indexOf (r : LaunchRec) (i : Nat) : Nat × Nat × Nat := (i % r.gridx, i / r.gridx % r.gridy, i / r.gridx / r.gridy)
/-- The index as INDEX holds it (R67, R209). -/
def indexWord (r : LaunchRec) (i : Nat) : DWord :=
  let (x, y, z) := indexOf r i
  BitVec.ofNat 16 z ++ BitVec.ofNat 16 y ++ BitVec.ofNat 32 x

/-- Counts of a dispatcher that has seen nothing of a grid. -/
def GridCnt.zero : GridCnt :=
  { dealt := 0, started := 0, retired := 0, discarded := 0, faults := [], first := none, closed := false,
    cancelled := false, reported := false }

/-- An Arbor's counts of a grid changed. -/
def State.updArbor (s : State) (gid dk : Nat) (f : GridCnt → GridCnt) : State :=
  s.updGrid gid (fun g => { g with arbors := g.arbors.set dk (f (g.arbors.get .zero dk)) })

/-- A saved member of a gang is given up: its record goes back, and it is counted as the change says (R59, R69). -/
def dropSaved (s : State) (dk : Nat) (v : Saved) (f : GridCnt → GridCnt) : State :=
  ((freeRecord s v.poolDk v.recPa).updDomain dk (fun d =>
    { d with saved := d.saved.filter (fun x => x.blk.bid != v.blk.bid), dbgHeld := d.dbgHeld.filter (· != v.blk.bid) })).updArbor
      v.blk.gid dk f

/-- Every warp of a block, and of its gang, is terminated and the blocks end; none of them is saved, and members saved
already retire (R59, R43, R69). -/
def terminateGang (s : State) (gang : Nat) : State :=
  let bs := s.blocks.filter (fun b => b.gangId = gang)
  let s1 := match bs with
    | [] => s
    | b :: _ => ((s.domain b.home).saved.filter (fun v => v.key == gang)).foldl
        (fun s v => dropSaved s b.home v (fun c => { c with retired := c.retired + 1 })) s
  bs.foldl (fun s b =>
    let s2 := (List.range b.warps.length).foldl (fun s i => exitWarp s b.bid i) (dropRecord s b)
    s2.updBlock b.bid (fun b => { b with phase := .ending, killed := true })) s1

/-- A fault counted at the Arbor of the faulting block (R208): the count of its code, saturating, and the first
fault in full. -/
def countFault (s : State) (b : Block) (wi : Nat) (code : BitVec 8) (kind : Nat) (lanes : Word) (pc addr : DWord) :
    State :=
  let dk := dkOfCk b.core
  let ff : FirstFault :=
    { code := code, kind := kind, source := domOf dk + 64 * waferOf dk, slot := slotOfCk b.core, warp := wi,
      member := b.member, lanes := lanes, pc := pc, addr := addr, index := indexWord b.lrec b.linear }
  s.updArbor b.gid b.home (fun c =>
    { c with faults := c.faults.set code.toNat (min (2 ^ 32 - 1) (c.faults.get 0 code.toNat + 1)),
             first := c.first.orElse (fun _ => some ff) })

/-! ### Taking a fault (R56, R57, R59, R61, R89, R304) -/

/-- Fault codes (R54). -/
def codeIllegalOpcode : BitVec 8 := 0x01
def codeIllegalOperand : BitVec 8 := 0x02
def codePriv : BitVec 8 := 0x03
def codeWorld : BitVec 8 := 0x04
def codeMisalign : BitVec 8 := 0x05
def codeNoPage : BitVec 8 := 0x06
def codePerm : BitVec 8 := 0x07
def codeOwnerBad : BitVec 8 := 0x08
def codeRangeLock : BitVec 8 := 0x09
def codeEmptyRead : BitVec 8 := 0x0A
def codeRefBad : BitVec 8 := 0x0B
def codeHeapClass : BitVec 8 := 0x0C
def codeScratch : BitVec 8 := 0x0D
def codeAtomicClass : BitVec 8 := 0x0E
def codeStackSpill : BitVec 8 := 0x0F
def codeLoopNest : BitVec 8 := 0x10
def codeMmaShape : BitVec 8 := 0x11
def codeEngine : BitVec 8 := 0x12
def codeBarrier : BitVec 8 := 0x13
def codeTrap : BitVec 8 := 0x14
def codeEcc : BitVec 8 := 0x15
def codeLinkDown : BitVec 8 := 0x16

/-- A fault to be taken: its code, kind (0 precise, 1 deferred, 2 logged then FATAL), lanes, address and resume
address (R57, R89). -/
structure Flt where
  code : BitVec 8
  kind : Nat := 0
  lanes : Word
  addr : DWord
  pc : DWord
  deriving DecidableEq, Repr

/-- The fault registers as the device writes them at handler entry, all together (R89). -/
def Csr.entry (c : Csr) (f : Flt) (em : Word) : Csr :=
  { c with faultcode := BitVec.ofNat 22 0 ++ BitVec.ofNat 2 f.kind ++ f.code, faultlanes := f.lanes,
           faultpc := f.pc &&& ~~~1#64, faultaddr := f.addr, faultem := em, status := c.status ||| 1 }

/-- The suspended copy of a reach at handler entry: KEEP set (R304). -/
def suspendReach (r : BitVec 16) : BitVec 16 := r ||| 0x8000

/-- Handler entry on a path (R61, R89, R304): the fault registers, STATUS.INTRAP := 1, the pc at the handler, the
execute mask as it was, the reach suspended, l undefined (R75); the branch to the handler leaves the loops whose body does not
hold it (R353, R354). -/
def enterHandler (s : State) (r : PathRef) (f : Flt) (handler : DWord) : State :=
  let s1 := s.updWarp r.bid r.wi (fun w =>
    let em := match w.slots[r.slot]? with | some sl => sl.path.mask | none => 0
    { w with csr := w.csr.entry f em, trapSlot := r.slot,
             levels := (leaveLoops w (handler &&& ~~~1#64)).levels,
             slots := w.slots.modify r.slot (fun sl =>
               { sl with path := { sl.path with pc := handler &&& ~~~1#64 }, wait := .ready, reach := 0,
                         susp := suspendReach sl.reach, ordPfx := none, fetchFault := none }) })
  s1.undefL r.bid r.wi

/-- A fault is taken on a path (R59): destination 2, the grid's handler, for every fault but ECC_UNCORRECTED when the
launch record names one and the warp is not in a trap already; otherwise destination 3, the fault record: the fault is
counted and the block, with its gang, is terminated. -/
def takeFault (s : State) (r : PathRef) (f : Flt) : State :=
  match s.block? r.bid, s.warp? r.bid r.wi with
  | some b, some w =>
    if b.lrec.handler ≠ 0 ∧ f.code ≠ codeEcc ∧ w.inTrap = false then
      enterHandler s r f b.lrec.handler
    else
      terminateGang (countFault s b r.wi f.code f.kind f.lanes f.pc f.addr) b.gangId
  | _, _ => s

/-- A fault delivered to the fault record whatever the handler: `gfault` (R437), ECC_UNCORRECTED of held state (R70),
an engine's fault after its warp has exited (R223). -/
def recordFault (s : State) (bid wi : Nat) (f : Flt) : State :=
  match s.block? bid with
  | some b => terminateGang (countFault s b wi f.code f.kind f.lanes f.pc f.addr) b.gangId
  | none => s

/-- A deferred fault on its way to its warp (R56). When the warp has exited it goes to the fault record. -/
def raiseDeferred (s : State) (bid wi : Nat) (d : Deferred) : State :=
  match s.warp? bid wi with
  | some w =>
    if w.done then
      recordFault s bid wi { code := d.code, kind := d.kind, lanes := d.lanes, addr := d.addr, pc := d.pc }
    else s.updWarp bid wi (fun w => { w with deferred := w.deferred ++ [d] })
  | none => s

end Sys2Proof.Machine
end

