-- ==== Sys2Proof/Machine/Operands.lean ====
section
/-!
DEFINITION. Operands: the codes of S16, L32 and L64 (R289, R291, R296), the roles a field may have (R299), the static
check of an encoding (R306), and the reads and writes of the register files with their full/empty bits (R71-R80).
-/

namespace Sys2Proof.Machine

/-- An operand as its code names it (R296). `ro` is one of the read-only values 266-271. -/
inductive Opd where
  | v (n : Nat) | o (n : Nat) | l | zero | ro (c : Nat) | k (n : Nat) | h (n : Nat) | p (n : Nat)
  | imm (x : BitVec 64)
  | rsv
  deriving DecidableEq, Repr

/-- The 9-bit operand codes (R296). -/
def opd9 (c : BitVec 9) : Opd :=
  let n := c.toNat
  if n < 256 then .v n
  else if n < 264 then .o (n - 256)
  else if n = 264 then .l
  else if n = 265 then .zero
  else if n < 272 then .ro n
  else if n < 336 then .k (n - 272)
  else if n < 352 then .h (n - 336)
  else if n < 360 then .p (n - 352)
  else .rsv

/-- The 7-bit operand codes (R291). -/
def opd7 (c : BitVec 7) : Opd :=
  let n := c.toNat
  if n < 96 then .v n
  else if n < 104 then .o (n - 96)
  else if n = 104 then .l
  else if n = 105 then .zero
  else if n < 112 then .rsv
  else .k (n - 112)

/-- The immediates of S16 as integers or as FP32 values (R289). -/
def s16Imm (float : Bool) (n : Nat) : BitVec 64 :=
  match n, float with
  | 25, false => 0 | 26, false => 1 | 27, false => 2 | 28, false => 4 | 29, false => 8 | 30, false => 16
  | _, false => 0xFFFFFFFF
  | 25, true => 0 | 26, true => 0x3F800000 | 27, true => 0x40000000 | 28, true => 0x40800000
  | 29, true => 0x41000000 | 30, true => 0x41800000
  | _, true => 0xBF800000

/-- The S codes (R289). -/
def opdS (float : Bool) (c : BitVec 5) : Opd :=
  let n := c.toNat
  if n < 16 then .v n else if n < 24 then .o (n - 16) else if n = 24 then .l else .imm (s16Imm float n)

/-- IMM7 as a 32-bit value (R292). -/
def imm7 (b : BitVec 7) : Word := b.signExtend 32

/-- The role of a field (R299). -/
inductive Role where
  | vsrc | vdst | usrc | udst | pred | ref | abase | udstOrPred
  /-- an even pair or quad of k registers, or zero where the flag says so (R407, R426) -/
  | kgroup (zeroOk : Bool)
  /-- an even v or o pair (R416) -/
  | vpair
  /-- an even k pair or zero (R384, R388) -/
  | ubase
  /-- an even v, o or k pair, without zero (R340) -/
  | pair
  /-- a predicate, or zero for none (R342) -/
  | predOrZero
  /-- a vector destination or a predicate (R370) -/
  | vdstOrPred
  /-- exactly zero (R355) -/
  | zeroOnly
  /-- a source of `csrw` (R438): a vector or a uniform source -/
  | vusrc
  deriving DecidableEq, Repr

/-- Whether a register group of `n` words may start at number `i` of a file of `top` registers (R72, R295). -/
def groupOk (i n top : Nat) : Bool := decide (i % n = 0) && decide (i + n ≤ top)

/-- Whether an operand may stand in a role with a width of `n` 32-bit words, in a kernel of `N` declared vector
registers (R72, R299). -/
def roleOk (N : Nat) (r : Role) (n : Nat) (x : Opd) : Bool :=
  match r, x with
  | .vsrc, .v i | .vdst, .v i | .vusrc, .v i => groupOk i n N
  | .vsrc, .o i | .vdst, .o i | .vusrc, .o i => groupOk i n 8
  | .vsrc, .l | .vusrc, .l => true
  | .vsrc, .zero | .vdst, .zero | .usrc, .zero | .udst, .zero | .abase, .zero | .vusrc, .zero
  | .udstOrPred, .zero => true
  | .vsrc, .ro _ | .vusrc, .ro _ => true
  | .usrc, .ro c => decide (267 ≤ c)
  | .vsrc, .k i | .usrc, .k i | .udst, .k i | .vusrc, .k i | .udstOrPred, .k i => groupOk i n 64
  | .vsrc, .imm _ | .usrc, .imm _ | .vusrc, .imm _ => true
  | .pred, .p _ | .udstOrPred, .p _ => true
  | .ref, .h _ => true
  | .predOrZero, .p _ | .predOrZero, .zero | .vdstOrPred, .zero | .vdstOrPred, .p _ | .zeroOnly, .zero => true
  | .vdstOrPred, .v i => groupOk i n N
  | .vdstOrPred, .o i => groupOk i n 8
  | .pair, .v i => groupOk i 2 N
  | .pair, .o i => groupOk i 2 8
  | .pair, .k i => groupOk i 2 64
  | .ubase, .zero => true
  | .ubase, .k i => groupOk i 2 64
  | .abase, .v i => groupOk i 2 N
  | .abase, .o i => groupOk i 2 8
  | .abase, .k i => groupOk i 2 64
  | .kgroup _, .k i => groupOk i n 64
  | .kgroup z, .zero => z
  | .vpair, .v i => groupOk i 2 N
  | .vpair, .o i => groupOk i 2 8
  | _, _ => false

/-- A field of an instruction in use: its operand, role, width in 32-bit words, strict bit (sources), and whether it is
a destination or forms an address. -/
structure Field where
  opd : Opd
  role : Role
  words : Nat := 1
  strict : Bool := false
  dst : Bool := false
  addr : Bool := false
  deriving DecidableEq, Repr

/-- What an encoding says of itself, apart from its effect: the check of R306 and the operands whose full/empty bits
count. `opcodeBad` collects what raises ILLEGAL_OPCODE. -/
structure Shape where
  opcodeBad : Bool
  fields : List Field
  priv : Bool := false
  /-- a per-lane instruction that `pblk` may govern (R303) -/
  gov : Bool := true
  /-- an order that `ordp` may give it: loads (acq), stores (rel), read-modify-writes (all) (R161) -/
  ordp : Option (Bool × Bool × Bool) := none
  deriving DecidableEq, Repr

/-- The encoding faults of an instruction (R306, R319), all of them; R57 takes the lowest. -/
def Shape.faults (sh : Shape) (N : Nat) (priv : Bool) : List (BitVec 8) :=
  (if sh.opcodeBad then [codeIllegalOpcode] else []) ++
  (if sh.fields.all (fun f => roleOk N f.role f.words f.opd) then [] else [codeIllegalOperand]) ++
  (if sh.priv && !priv then [codePriv] else [])

/-! ### Registers -/

/-- The registers with a full/empty bit that an operand of `n` words names (R79). An h register is one. -/
def regsOf (x : Opd) (n : Nat) : List Reg :=
  match x with
  | .v i => (List.range n).map (fun j => .v (i + j))
  | .o i => (List.range n).map (fun j => .o (i + j))
  | .k i => (List.range n).map (fun j => .k (i + j))
  | .h i => [.h i]
  | _ => []

/-- Whether a register is empty (R79). -/
def Warp.isEmpty (w : Warp) (r : Reg) : Bool := w.empty.contains r
def Warp.markEmpty (w : Warp) (rs : List Reg) : Warp :=
  { w with empty := rs ++ w.empty.filter (fun r => !rs.contains r) }
def Warp.markFull (w : Warp) (rs : List Reg) : Warp := { w with empty := w.empty.filter (fun r => !rs.contains r) }

/-- 32 equal lanes. -/
def splat {α : Type} (x : α) : List α := List.replicate 32 x

/-- A null reference (R77, R404). -/
def nullRef : DWord := 0x8000000000000000

/-- Lane `i` of a v, o or h register, and the value of a k register (R71-R73, R77). -/
def Warp.vLane (w : Warp) (n i : Nat) : Word := (w.v.get (splat 0) n).getD i 0
def Warp.oLane (w : Warp) (n i : Nat) : Word := (w.o.get (splat 0) n).getD i 0
def Warp.hLane (w : Warp) (n i : Nat) : DWord := (w.h.get (splat nullRef) n).getD i nullRef
def Warp.kReg (w : Warp) (n : Nat) : Word := w.k.get 0 n
def Warp.pReg (w : Warp) (n : Nat) : Word := w.p.get 0 n

/-- The read-only values (R296): lane index, warp index, block index x, y, z, gang member index. -/
def roValue (b : Block) (wi : Nat) (c i : Nat) : Word :=
  let ix := indexOf b.lrec b.linear
  match c with
  | 266 => BitVec.ofNat 32 i
  | 267 => BitVec.ofNat 32 wi
  | 268 => BitVec.ofNat 32 ix.1
  | 269 => BitVec.ofNat 32 ix.2.1
  | 270 => BitVec.ofNat 32 ix.2.2
  | _ => BitVec.ofNat 32 b.member

/-- Lane `i` of one 32-bit operand. -/
def read32 (b : Block) (w : Warp) (wi : Nat) (x : Opd) (i : Nat) : Word :=
  match x with
  | .v n => w.vLane n i
  | .o n => w.oLane n i
  | .l => lane w.l i
  | .zero => 0
  | .ro c => roValue b wi c i
  | .k n => w.kReg n
  | .h n => (w.hLane n i).setWidth 32
  | .p n => if (w.pReg n).getLsbD i then 1 else 0
  | .imm x => x.setWidth 32
  | .rsv => 0

/-- The operand `j` words further on, for pairs and quads. -/
def Opd.next (x : Opd) (j : Nat) : Opd :=
  match x with
  | .v n => .v (n + j)
  | .o n => .o (n + j)
  | .k n => .k (n + j)
  | _ => .zero

/-- Lane `i` of a 64-bit operand: an even/odd pair, low word first (R72); l and the read-only values are 32 bits
wide and extend with zeros. -/
def read64 (b : Block) (w : Warp) (wi : Nat) (x : Opd) (i : Nat) : DWord :=
  match x with
  | .h n => w.hLane n i
  | .imm x => x
  | .v _ | .o _ | .k _ => read32 b w wi (x.next 1) i ++ read32 b w wi x i
  | _ => (read32 b w wi x i).setWidth 64

/-- Lane `i` of an operand of `n` words, zero-extended to 128 bits. -/
def readN (b : Block) (w : Warp) (wi : Nat) (x : Opd) (n i : Nat) : BitVec 128 :=
  match n with
  | 1 => (read32 b w wi x i).setWidth 128
  | 2 => (read64 b w wi x i).setWidth 128
  | _ => read32 b w wi (x.next 3) i ++ read32 b w wi (x.next 2) i ++ (read32 b w wi (x.next 1) i ++
      read32 b w wi x i)

/-- A 32-bit register takes new values in the lanes of `m`; zero discards (R299), every other code keeps nothing. -/
def Warp.put32 (w : Warp) (x : Opd) (m : Word) (f : Nat → Word) : Warp :=
  match x with
  | .v n => { w with v := w.v.set n (putLanes m (w.vLane n) f) }
  | .o n => { w with o := w.o.set n (putLanes m (w.oLane n) f) }
  | .k n => { w with k := w.k.set n (f 0) }
  | _ => w

/-- A destination of `n` words takes new values in the lanes of `m` (R72, R77, R295). -/
def Warp.putN (w : Warp) (x : Opd) (n : Nat) (m : Word) (f : Nat → BitVec 128) : Warp :=
  match x with
  | .h i => { w with h := w.h.set i (putLanes m (w.hLane i) (fun j => (f j).setWidth 64)) }
  | .p i => { w with p := w.p.set i (maskOf (lanes32.filter (fun j =>
      if m.getLsbD j then (f j).getLsbD 0 else (w.pReg i).getLsbD j))) }
  | _ => (List.range n).foldl (fun w j =>
      w.put32 (if j = 0 then x else x.next j) m (fun i => (f i).extractLsb' (32 * j) 32)) w

/-- A destination field as what an instruction in flight keeps. -/
def dstOf (x : Opd) (n : Nat) : Dst :=
  match x with
  | .v i => .regs (.v i) n
  | .o i => .regs (.o i) n
  | .k i => .regs (.k i) n
  | .h i => .regs (.h i) n
  | .p i => .pred i
  | _ => .none

/-- The operand that a kept destination names. -/
def Dst.opd : Dst → Opd
  | .none => .zero
  | .regs (.v i) _ => .v i
  | .regs (.o i) _ => .o i
  | .regs (.k i) _ => .k i
  | .regs (.h i) _ => .h i
  | .pred i => .p i

/-- The width of a kept destination in words. -/
def Dst.words : Dst → Nat
  | .regs _ n => n
  | _ => 1

/-- The registers of a kept destination. -/
def Dst.regs' (d : Dst) : List Reg := regsOf d.opd d.words

/-- The lane that a source-lane modifier reads, if there is one (R301). -/
def laneMod (kind n i : Nat) : Option Nat :=
  match kind with
  | 0 => some i
  | 1 => some ((i ^^^ n) % 32)
  | 2 => if i + n ≤ 31 then some (i + n) else none
  | 3 => if n ≤ i then some (i - n) else none
  | 4 => some n
  | 5 => some (min (i + n) 31)
  | _ => some (i - n)

/-- The predicate mask of an operand. -/
def readPred (w : Warp) (x : Opd) : Word :=
  match x with
  | .p n => w.pReg n
  | _ => 0

end Sys2Proof.Machine
end

