-- ==== Sys2Proof/Machine/Issue.lean ====
section
/-!
DEFINITION. The issue of one instruction (R34, R38, R57, R212, R302-R306, R321-R323): the effective mask, the checks of
the encoding, the waits on empty registers, the effect, and the advance of the path with the loop end step.
-/

namespace Sys2Proof.Machine

/-- What an instruction's effect sees: the issuing path, its block and warp as they stood, the execute mask `em`, the
effective mask `m` (R302), the instruction's address and length, the address FAULTPC takes (R303), a pending `ordp`
and the encoding (R62). -/
structure Ctx where
  ref : PathRef
  blk : Block
  warp : Warp
  slot : Slot
  em : Word
  m : Word
  pc : DWord
  len : Nat
  fpc : DWord
  ord : Option OrdPfx
  enc : DWord
  deriving DecidableEq, Repr

/-- What an effect answers: done, the path going on after the instruction; a transfer of control; done with the path
placed by the effect itself; a precise fault, without effect; a wait, without effect; a wait after an effect; a wait after a question that the
unissued instruction has put to another unit; a stall, without effect. -/
inductive Res where
  | done (s : State)
  | jump (s : State) (t : DWord)
  | own (s : State)
  | fault (f : Flt)
  | wait (w : Wait)
  | hold (s : State) (w : Wait)
  | ask (f : State → State) (w : Wait)
  | stall

/-- The effective mask of the next instruction of a path (R302). -/
def effMask (w : Warp) (sl : Slot) : Word :=
  if reachCount sl.reach = 0 then sl.path.mask
  else
    let p := w.pReg (sl.reach.extractLsb' 0 3).toNat
    sl.path.mask &&& (if sl.reach.getLsbD 3 then p else ~~~p)

/-- The context of the path that issues, if the state names a live one. -/
def ctx? (i : Instr) (s : State) : Option Ctx :=
  match s.cur with
  | none => none
  | some r =>
    match s.block? r.bid with
    | none => none
    | some b =>
      match b.warps[r.wi]? with
      | none => none
      | some w =>
        match w.slots[r.slot]? with
        | none => none
        | some sl =>
          if sl.live then
            let code := encode { instr := i, ops := s.ops }
            some { ref := r, blk := b, warp := w, slot := sl, em := sl.path.mask, m := effMask w sl, pc := sl.path.pc,
                   len := codeLen code, fpc := match sl.ordPfx with | some o => o.addr | none => sl.path.pc,
                   ord := sl.ordPfx, enc := codeWord code }
          else none

/-! ### Waits and the exchange of warps (R34, R38) -/

/-- Whether a wait is a long-latency cause (R38). -/
def isLong (s : State) : Wait → Bool
  | .regs _ | .bar _ | .gbar | .waitv _ | .mwait _ | .ewait _ _ | .range _ | .record _ _ => true
  | .retry long => long
  | .unit op => s.unitOps.any (fun u => u.op == op && u.what == 0)
  | _ => false

/-- (n − done) mod 2^16 lies in 1 .. 2^15 − 1 (R417). -/
def batchAhead (n done : BitVec 16) : Bool := decide (1 ≤ (n - done).toNat) && decide ((n - done).toNat ≤ 2 ^ 15 - 1)

/-- Engine commands of a list that are not complete. -/
def engLeft (s : State) (ids : List (Nat × Bool)) : Nat :=
  (ids.filter (fun x => s.bays.any (fun e => e.2.enl.any (·.id == x.1) || e.2.fix.any (·.id == x.1)))).length

/-- Whether nothing that a wait keeps shows it to go on: an instruction that waits without a mark of its own, or is Stalled, is
judged by its next issue (R34, R35). -/
def waitOver (s : State) (w : Warp) : Wait → Bool
  | .ready | .retry _ | .stall => true
  | .regs rs => rs.all (fun r => !w.isEmpty r)
  | .mwait n => !batchAhead (BitVec.ofNat 16 n) w.csr.batchDone
  | .ewait ids allow => decide (engLeft s ids ≤ allow)
  | .range op | .unit op => !s.unitOps.any (fun u => u.op == op)
  | .sleep t => decide (t ≤ s.clock)
  | _ => false

/-- Whether a path may try its next instruction: live, not held back by the handler of the other slot (R61), a full log (R62)
or a halt (R66), and in no wait that still goes on. Whether it is Ready its next instruction says (`Sched.lean`, R35). -/
def pathFree (s : State) (b : Block) (w : Warp) (slot : Nat) : Bool :=
  match w.slots[slot]? with
  | none => false
  | some sl =>
    sl.live && !w.done && w.logWait.isEmpty && (!w.inTrap || slot == w.trapSlot) &&
    (match b.phase with | .running => true | .wantSave _ => true | _ => false) && b.push == [] &&
    waitOver s w sl.wait

/-- The exchange of an active warp with a pending one (R38, R39): the places are traded; the incoming warp may issue
after 4 cc. The event 0x03 of R267 is counted in the mode and world of the incoming warp (log 49). -/
def exchange (s : State) (ck isl : Nat) (out : Nat × Nat) (inn : Nat × Nat) : State :=
  let s1 := s.updCore ck (fun c => { c with issue := c.issue.modify isl (fun q =>
    let is (p : Nat × Nat) (e : Nat × Nat × Nat) := e.1 == p.1 && e.2.1 == p.2
    { q with active := q.active.filter (fun e => !is out e) ++ [(inn.1, inn.2, s.clock + 4)],
             pending := q.pending.filter (fun e => !is inn e) ++ [(out.1, out.2, s.clock)],
             readySince := q.readySince.filter (fun e => !is inn e) }) })
  match s.warp? inn.1 inn.2 with
  | some w => perfAdd s1 ck 3 1 w.priv w.secure
  | none => s1

/-! ### The issue -/

/-- Empty registers among the operands that are read without, and with, the strict bit (R80, R300). -/
def emptyOf (w : Warp) (sh : Shape) (strict : Bool) : List Reg :=
  (sh.fields.filter (fun f => !f.dst && f.strict == strict)).flatMap
    (fun f => (regsOf f.opd f.words).filter w.isEmpty)

/-- Empty registers among the destinations: the wait of R65. -/
def emptyDst (w : Warp) (sh : Shape) : List Reg :=
  (sh.fields.filter (·.dst)).flatMap (fun f => (regsOf f.opd f.words).filter w.isEmpty)

/-- A strict source that forms the address is empty. -/
def strictAddr (w : Warp) (sh : Shape) : Bool :=
  (sh.fields.filter (fun f => !f.dst && f.strict && f.addr)).any (fun f => (regsOf f.opd f.words).any w.isEmpty)

/-- The precise fault of an encoding, or of a prefix before an instruction it may not govern (R303, R305, R306). -/
def encodingFault (c : Ctx) (sh : Shape) : Option (BitVec 8) :=
  let gov := if reachCount c.slot.reach ≠ 0 ∧ sh.gov = false then [codeIllegalOpcode] else []
  let ord := match c.ord, sh.ordp with
    | none, _ => []
    | some _, none => [codeIllegalOpcode]
    | some o, some (acq, rel, ar) =>
      match o.order with
      | .acq => if acq then [] else [codeIllegalOpcode]
      | .rel => if rel then [] else [codeIllegalOpcode]
      | .ar => if ar then [] else [codeIllegalOpcode]
      | _ => []
  let all := gov ++ ord ++ sh.faults c.blk.lrec.regs c.warp.priv
  all.foldl (fun m x => match m with | none => some x | some y => some (if x < y then x else y)) none

/-- A precise fault without an address, for the lanes of the effective mask (R57). -/
def plainFault (c : Ctx) (code : BitVec 8) : Flt := { code := code, lanes := c.m, addr := 0, pc := c.fpc }

/-- The lower of two faults by code (R57). -/
def lowerFault : Option Flt → Option Flt → Option Flt
  | none, b => b
  | a, none => a
  | some a, some b => some (if b.code < a.code then b else a)

/-- A live slot's age counts the instructions that the warp issues while the slot holds its path (DESIGN CHOICE, log 59). -/
def Slot.older (sl : Slot) : Slot := if sl.live then { sl with age := sl.age + 1 } else sl

/-- Counters of one issued instruction: the rotation count (R41), the progress count (R218), the instruction event of
the performance counters (R267), the ages of the slots (R81, R217). -/
def countIssue (c : Ctx) (s : State) : State :=
  let s1 := s.updWarp c.ref.bid c.ref.wi (fun w =>
    { w with rotation := w.rotation + 1, progress := w.progress + c.len, slots := w.slots.map Slot.older })
  perfAdd s1 c.blk.core 2 1 c.warp.priv c.warp.secure

/-- The state in which the effect runs: l undefined after a switch of slots (R212), the governed instruction's place
used (R304), the prefix taken (R305), the path Ready, the instruction counted. -/
def beginIssue (c : Ctx) (s : State) : State :=
  let s := countIssue c s
  let s1 := if c.warp.lastSlot = c.ref.slot then s else s.undefL c.ref.bid c.ref.wi
  s1.updWarp c.ref.bid c.ref.wi (fun w =>
    { w with lastSlot := c.ref.slot, freshLanes := w.freshLanes &&& ~~~c.slot.path.mask,
             slots := w.slots.modify c.ref.slot (fun sl =>
               { sl with reach := if reachCount sl.reach = 0 then sl.reach else reachNext sl.reach,
                         ordPfx := none, wait := .ready }) })

/-- The path goes on after the instruction, with the end step of a loop (R352). -/
def advance (c : Ctx) (s : State) : State :=
  s.updWarp c.ref.bid c.ref.wi (fun w =>
    let (pc, w1) := loopEnd 3 w (c.pc + BitVec.ofNat 64 c.len)
    { w1 with slots := w1.slots.modify c.ref.slot (fun sl => { sl with path := { sl.path with pc := pc } }) })

/-- The path goes on at a target, with the levels it leaves ended (R353). -/
def transfer (c : Ctx) (s : State) (t : DWord) : State :=
  s.updWarp c.ref.bid c.ref.wi (fun w =>
    let w1 := leaveLoops w t
    { w1 with slots := w1.slots.modify c.ref.slot (fun sl => { sl with path := { sl.path with pc := t } }) })

/-- The path waits: its PC is the address FAULTPC would take, so that an `ordp` pair issues again as one. -/
def park (c : Ctx) (s : State) (wt : Wait) : State :=
  s.updSlot c.ref (fun sl => { sl with path := { sl.path with pc := c.fpc }, wait := wt, ordPfx := none })

/-- A stall for a lock or a place in an engine's queue is counted once, when it begins (event 0x08 of R267). -/
def countStall (c : Ctx) (s : State) : State :=
  if c.slot.wait = .ready then perfAdd s c.blk.core 8 1 c.warp.priv c.warp.secure else s

/-- The end of an issue, by what the effect answered. -/
def finish (c : Ctx) (s : State) : Res → State
  | .done s' => advance c s'
  | .jump s' t => transfer c s' t
  | .own s' => s'
  | .fault f => takeFault s c.ref f
  | .wait wt => park c s wt
  | .hold s' wt => park c s' wt
  | .ask f wt => park c (f s) wt
  | .stall => park c (countStall c s) .stall

/-- The warp as an instruction's sources see it: l undefined when the warp's other slot issued last (R75, R212). -/
def seenWarp (s : State) (w : Warp) (slot : Nat) : Warp := if w.lastSlot = slot then w else { w with l := s.freeLanes.1 }

/-- What the checks before the effect, and the effect, see of the warp. -/
def Ctx.seen (c : Ctx) (s : State) : Ctx := { c with warp := seenWarp s c.warp c.ref.slot }

/-- One issue. The encoding faults come first, the lowest code taken (R57, R306); then a strict read of an empty
register, unless an address fault of `pre` has a lower code; then the waits on empty sources and destinations
(R34, R65, R80); then the faults of `pre`; then the effect. -/
def issueCore (sh : Shape) (pre : Ctx → State → Option Flt) (eff : Ctx → State → Res) (c : Ctx) (s : State) :
    State :=
  match encodingFault c sh with
  | some code => takeFault s c.ref (plainFault c code)
  | none =>
    if emptyOf c.warp sh true ≠ [] then
      let e := some (plainFault c codeEmptyRead)
      let f := if strictAddr c.warp sh || emptyOf c.warp sh false != [] then e else lowerFault (pre (c.seen s) s) e
      match f with
      | some f => takeFault s c.ref f
      | none => s
    else
      let rs := emptyOf c.warp sh false ++ emptyDst c.warp sh
      if rs ≠ [] then finish c s (.wait (.regs rs))
      else match pre (c.seen s) s with
        | some f => takeFault s c.ref f
        | none => finish c s (eff (c.seen s) (beginIssue c s))

/-- The issue of instruction `i` on the path the state names. -/
def issue (i : Instr) (sh : Shape) (pre : Ctx → State → Option Flt) (eff : Ctx → State → Res) (s : State) :
    Host.Outcome State Fault Refusal :=
  match ctx? i s with
  | none => .fault .noIssuingPath
  | some c => .next (issueCore sh pre eff c s)

/-- No fault before the effect. -/
def noPre : Ctx → State → Option Flt := fun _ _ => none

/-! ### Operands by format -/

/-- The operands of the step in one format; a step without them stops (never taken by the step function). -/
def withS16 (s : State) (k : F16 → Host.Outcome State Fault Refusal) : Host.Outcome State Fault Refusal :=
  match s.ops with | .s16 f => k f | _ => .fault .noIssuingPath
def withL32 (s : State) (k : F32 → Host.Outcome State Fault Refusal) : Host.Outcome State Fault Refusal :=
  match s.ops with | .l32 f => k f | _ => .fault .noIssuingPath
def withA (s : State) (k : FmtA → Host.Outcome State Fault Refusal) : Host.Outcome State Fault Refusal :=
  match s.ops with | .a f => k f | _ => .fault .noIssuingPath
def withB (s : State) (k : FmtB → Host.Outcome State Fault Refusal) : Host.Outcome State Fault Refusal :=
  match s.ops with | .b f => k f | _ => .fault .noIssuingPath
def withC (s : State) (k : FmtC → Host.Outcome State Fault Refusal) : Host.Outcome State Fault Refusal :=
  match s.ops with | .c f => k f | _ => .fault .noIssuingPath
def withEv (s : State) (k : EvArgs → Host.Outcome State Fault Refusal) : Host.Outcome State Fault Refusal :=
  match s.ops with | .event f => k f | _ => .fault .noIssuingPath

/-- An event: its effect, in every state (log 7: an event whose condition does not hold changes nothing). -/
def event (f : EvArgs → State → State) (s : State) : Host.Outcome State Fault Refusal :=
  withEv s (fun a => .next (f a s))

/-! ### Writing results of per-lane instructions (R75, R79, R323) -/

/-- The l register takes the values of a 32-bit vector destination in the lanes written (R75); zero as a destination
takes part all the same (R299). -/
def Warp.putL (w : Warp) (m : Word) (f : Nat → Word) : Warp := { w with l := putLanes m (lane w.l) f }

/-- A per-lane result of `n` words written at issue latency: the active lanes, the full bit, and l — the value for one
word, undefined for a pair (R75, R79). With no active lane nothing changes (R323). -/
def writeLanes (c : Ctx) (d : Opd) (n : Nat) (f : Nat → BitVec 128) (s : State) : State :=
  if c.m = 0 then s
  else
    let s1 := s.updWarp c.ref.bid c.ref.wi (fun w => (w.putN d n c.m f).markFull (regsOf d n))
    if n = 1 then s1.updWarp c.ref.bid c.ref.wi (fun w => w.putL c.m (fun i => (f i).setWidth 32))
    else s1.undefL c.ref.bid c.ref.wi

/-- A predicate written in the active lanes; l unchanged (R334). -/
def writePred (c : Ctx) (d : Opd) (f : Nat → Bool) (s : State) : State :=
  s.updWarp c.ref.bid c.ref.wi (fun w => w.putN d 1 c.m (fun i => if f i then 1 else 0))

/-- A uniform destination of `n` words written and marked full; zero discards (R299). -/
def writeK (c : Ctx) (d : Opd) (n : Nat) (x : BitVec 128) (s : State) : State :=
  s.updWarp c.ref.bid c.ref.wi (fun w => (w.putN d n 1 (fun _ => x)).markFull (regsOf d n))

/-- Flags set by the active lanes (R87, R279). -/
def raiseFlags (c : Ctx) (fl : Word) (s : State) : State :=
  if fl = 0 then s else s.updWarp c.ref.bid c.ref.wi (fun w => w.setFlags fl)

/-- A number of an instruction in flight, put on the list. -/
def addPend (s : State) (p : Pend) : Nat × State :=
  (s.nextId, { s with pends := s.pends ++ [{ p with tag := s.nextId }], nextId := s.nextId + 1 })

/-- An instruction in flight of this issue, without destination. -/
def basePend (c : Ctx) : Pend :=
  { tag := 0, bid := c.ref.bid, wi := c.ref.wi, slot := c.ref.slot, pc := c.fpc, enc := c.enc, kind := .store,
    dst := .none, dst2 := .none, need := c.m, vals := [], order := .plain, scope := .block, aux := [], feed := [] }

/-- A result that arrives later (R79, R328): the destination is marked empty, the values wait with the instruction in
flight, and l becomes undefined. -/
def arriveLater (c : Ctx) (kind : PendKind) (d : Dst) (need : Word) (vals : Tab (BitVec 128)) (s : State) : State :=
  let (_, s1) := addPend s { basePend c with kind := kind, dst := d, need := need, vals := vals }
  (s1.updWarp c.ref.bid c.ref.wi (fun w => w.markEmpty d.regs')).undefL c.ref.bid c.ref.wi

end Sys2Proof.Machine
end

