-- ==== Sys2Proof/Machine/Coherence.lean ====
section
/-!
DEFINITION. Copies of memory lines (R142-R152): visitor partitions, the sparse directory, recalls, and the coherent
reads and writes by which the units around the cores use memory (log 14). The home partition and DRAM are one (log 8).
-/

namespace Sys2Proof.Machine

/-! ### Lines, sectors, poison (R70, R142) -/

/-- Bytes stored at an address; a sector written in full loses its poison (R70). -/
def State.storeBytes (s : State) (a : Nat) (bs : List Byte) : State :=
  { s with mem := memWrite s.mem a bs,
           poison := s.poison.filter (fun p => !(decide (a ≤ 32 * p) && decide (32 * p + 32 ≤ a + bs.length))) }

/-- Runs of bytes stored at offsets from a line's address, in order; a sector that they cover in full together loses its poison
(R70, R140). -/
def State.storeRuns (s : State) (base : Nat) (ps : List (Nat × List Byte)) : State :=
  let full (p : Nat) : Bool := (List.range 32).all (fun j => ps.any (fun x =>
    decide (base + x.1 ≤ 32 * p + j) && decide (32 * p + j < base + x.1 + x.2.length)))
  { s with mem := ps.foldl (fun m x => memWrite m (base + x.1) x.2) s.mem,
           poison := s.poison.filter (fun p => !full p) }

/-- Whether a byte range touches a poisoned sector. -/
def State.poisoned (s : State) (a n : Nat) : Bool :=
  s.poison.any (fun p => decide (32 * p < a + n) && decide (a < 32 * p + 32))

/-- The 128 bytes of a line at its home. -/
def State.lineBytes (s : State) (pl : Nat) : List Byte := memRead s.mem (pl * 128) 128

/-- Bytes `off` to `off + n` of a line image. -/
def lineSlice (bs : List Byte) (off n : Nat) : List Byte := (bs.drop off).take n

/-- A line image with bytes written at an offset. -/
def lineWrite (bs : List Byte) (off : Nat) (x : List Byte) : List Byte :=
  bs.take off ++ x ++ bs.drop (off + x.length)

/-- The dirty sectors of a line image merged into memory. -/
def mergeSectors (s : State) (pl : Nat) (dirty : BitVec 4) (bs : List Byte) : State :=
  (List.range 4).foldl (fun s i =>
    if dirty.getLsbD i then s.storeBytes (pl * 128 + 32 * i) (lineSlice bs (32 * i) 32) else s) s

/-- The sector bits that a write of `n` bytes at line offset `off` makes dirty. -/
def sectorsOf (off n : Nat) : BitVec 4 :=
  BitVec.ofNat 4 (((List.range 4).filter (fun i => decide (32 * i < off + n) && decide (off < 32 * i + 32))).foldl
    (fun x i => x + 2 ^ i) 0)

/-! ### Visitor partitions and the directory (R143, R147, R256) -/

def State.vis? (s : State) (dk pl : Nat) : Option VLine := (s.domain dk).visit.find? (fun v => v.pline == pl)
/-- The visitor partition without a line. -/
def State.dropVis (s : State) (dk pl : Nat) : State :=
  s.updDomain dk (fun d => { d with visit := d.visit.filter (fun v => v.pline != pl) })
/-- The set of a line in a domain's L2: the bank group by address bits [10:7] (R142), and in it one of 32,768 sets, which the
model takes from bits [25:11] (DESIGN CHOICE, log 62). -/
def visSet (pl : Nat) : Nat := pl % 2 ^ 19

/-- A visitor copy evicted: an M copy is written back, any other goes silently (R144). -/
def State.evictVis (s : State) (dk : Nat) (v : VLine) : State :=
  let s1 := s.dropVis dk v.pline
  if v.state = .m then s1.send (.writeback v.pline dk v.dirty v.bytes) else s1

/-- The visitor partition with a line in the given form. A line it does not hold takes a free way of its set; with none free a line
of the set is evicted, which one being unspecified (R142). -/
def State.putVis (s : State) (dk : Nat) (v : VLine) : State :=
  let d := s.domain dk
  let put (s : State) (k : Nat) : State :=
    s.updDomain dk (fun d => { d with visit := d.visit.filter (fun x => x.pline != v.pline) ++ [{ v with way := k }] })
  match d.visit.find? (fun x => x.pline == v.pline) with
  | some x => put s x.way
  | none =>
    let inSet := d.visit.filter (fun x => visSet x.pline == visSet v.pline)
    match (List.range d.visitor).find? (fun k => inSet.all (fun x => x.way != k)) with
    | some k => put s k
    | none =>
      let (i, s1) := s.choose inSet.length
      match inSet[i % inSet.length]? with
      | some x => put (s1.evictVis dk x) x.way
      | none => if v.state = .m then s.send (.writeback v.pline dk v.dirty v.bytes) else s

def homeOfLine (pl : Nat) : Nat := homeOf (pl * 128)
def State.dir? (s : State) (pl : Nat) : Option DirEnt := (s.domain (homeOfLine pl)).dir.find? (fun e => e.pline == pl)
/-- Whether a line's SEQ is still in use: a transaction of the line is open or a probe of it is on its way (R149). -/
def State.lineBusy (s : State) (pl : Nat) : Bool :=
  (s.domain (homeOfLine pl)).trans.any (fun t => t.pline == pl) ||
  s.msgs.any (fun m => match m.body with | .probe p _ _ _ => p == pl | _ => false)

/-- The directory with an entry for the line; one without sharers whose SEQ is not in use is free. -/
def State.putDir (s : State) (e : DirEnt) : State :=
  let keep := e.sharers != 0 || s.lineBusy e.pline
  s.updDomain (homeOfLine e.pline) (fun d =>
    { d with dir := d.dir.filter (fun x => x.pline != e.pline) ++ (if keep then [e] else []) })

/-- The entry of a line is freed when it has no sharer and its SEQ is no longer in use. -/
def State.tidyDir (s : State) (pl : Nat) : State :=
  match s.dir? pl with
  | some e => if e.sharers = 0 then s.putDir e else s
  | none => s

/-- The domain keys of a directory entry's sharers. -/
def DirEnt.holders (e : DirEnt) : List Nat :=
  ((List.range Config.domains).filter (fun i => e.sharers.getLsbD i)).map (mkDk (waferOf (homeOfLine e.pline)))

/-- Whether a copy is tracked by the home directory: not a replica, not of class 3 (R143, R151). -/
def VLine.tracked (v : VLine) : Bool := v.state != .r && v.cls != 3

/-- A copy recalled at one visitor at once: dirty sectors to the home, the copy to S, or to I (R144). -/
def recallAt (s : State) (dk pl : Nat) (inval : Bool) : State :=
  match s.vis? dk pl with
  | none => s
  | some v =>
    if v.tracked then
      let s1 := if v.state = .m then mergeSectors s pl v.dirty v.bytes else s
      if inval then s1.dropVis dk pl else s1.putVis dk { v with state := .s, dirty := 0 }
    else s

/-- The directory entry after its copies have been recalled: SEQ counts the probes (R149). -/
def DirEnt.recalled (e : DirEnt) (inval : Bool) : DirEnt :=
  { e with owned := false, owner := 0, sharers := if inval then 0 else e.sharers,
           seq := e.seq + BitVec.ofNat 8 e.holders.length }

/-- Writebacks of a line that are on their way reach the home at once, and so does the dirty data of answers (R150). -/
def mergeInFlight (s : State) (pl : Nat) : State :=
  let back (m : Msg) : Bool := match m.body with | .writeback p _ _ _ => p == pl | _ => false
  if s.msgs.any (fun m => match m.body with | .writeback p _ _ _ | .answer p _ _ _ _ _ => p == pl | _ => false) then
    let s1 := s.msgs.foldl (fun s m => match m.body with
      | .writeback p dk dirty bs =>
        if p = pl then
          let s' := mergeSectors s pl dirty bs
          match s'.dir? pl with
          | some e => s'.putDir { e with sharers := e.sharers &&& ~~~(1#56 <<< domOf dk), owned := e.owned && e.owner != domOf dk }
          | none => s'
        else s
      | .answer p _ _ dirty bs _ => if p = pl then mergeSectors s pl dirty bs else s
      | _ => s) s
    { s1 with msgs := (s1.msgs.filter (fun m => !back m)).map (fun m => match m.body with
        | .answer p dk q _ bs st => if p = pl then { m with body := .answer p dk q 0 bs st } else m
        | _ => m) }
  else s

/-- Grants of a line that are on their way are taken back, and the requests they serve are made again: those that gave
ownership, or all. -/
def cancelGrants (s : State) (pl : Nat) (all : Bool) : State :=
  let hit (m : Msg) : Bool := match m.body with | .grant p _ x _ _ _ _ => p == pl && (x || all) | _ => false
  if s.msgs.any hit then
    let ids := (s.msgs.filter hit).map (fun m => match m.body with | .grant _ _ _ _ r _ _ => r | _ => 0)
    { s with msgs := s.msgs.filter (fun m => !hit m),
             reqs := s.reqs.map (fun r => if ids.contains r.id && r.stage == .granted then
               { r with stage := if r.kind = .store then .ownership else .visitorRead } else r) }
  else s

/-- Every tracked copy of a line recalled at once: owned copies to S, or all copies to I (R144, R147, R152). -/
def recallLine (s : State) (pl : Nat) (inval : Bool) : State :=
  let s1 := mergeInFlight s pl
  match s1.dir? pl with
  | none => s1
  | some e =>
    if inval || e.owned then
      (e.holders.foldl (fun s dk => recallAt s dk pl inval) (cancelGrants s1 pl inval)).putDir (e.recalled inval)
    else s1

/-- The lines of a byte range. -/
def linesOf (a n : Nat) : List Nat := if n = 0 then [] else (List.range ((a + n - 1) / 128 - a / 128 + 1)).map (· + a / 128)

/-- A coherent read by a unit: E and M copies are recalled first, as for a strong load (R144). -/
def State.unitRead (s : State) (a n : Nat) : List Byte × State :=
  let s1 := (linesOf a n).foldl (fun s pl => recallLine s pl false) s
  (memRead s1.mem a n, s1)

/-- A coherent write by a unit: every copy is invalidated first, as for a strong store (R144). -/
def State.unitWrite (s : State) (a : Nat) (bs : List Byte) : State :=
  ((linesOf a bs.length).foldl (fun s pl => recallLine s pl true) s).storeBytes a bs

/-- A coherent little-endian number of `n` bytes. -/
def State.unitNat (s : State) (a n : Nat) : Nat × State :=
  let (bs, s1) := s.unitRead a n
  (natOfBytes bs, s1)

/-- The set of a line in its directory (R256). -/
def dirSet (pl : Nat) : Nat := pl % 2 ^ 18

/-- The entry that gives way to a new one for a line: with 16 entries in the set, the least recently used (R147). -/
def dirVictim (s : State) (pl : Nat) : Option DirEnt :=
  let inSet := (s.domain (homeOfLine pl)).dir.filter (fun e => dirSet e.pline == dirSet pl)
  if inSet.length < 16 ∨ inSet.any (fun e => e.pline == pl) then none
  else match inSet with
    | [] => none
    | e :: t => some (t.foldl (fun a b => if b.lru < a.lru then b else a) e)

/-- A grant recorded in the directory: its SEQ, and the state after it (R147, R149). A grant is the one use that makes an entry
the most recently used (DESIGN CHOICE, log 63: the spec does not say what counts as a use). -/
def dirGrant (s : State) (pl dk : Nat) (excl : Bool) : BitVec 8 × State :=
  let e := (s.dir? pl).getD { pline := pl, sharers := 0, owner := 0, owned := false, seq := 0, lru := 0 }
  let bit : BitVec 56 := 1#56 <<< domOf dk
  let e' := { e with sharers := if excl then bit else e.sharers ||| bit, owner := if excl then domOf dk else 0,
                     owned := excl, seq := e.seq + 1, lru := s.nextId }
  (e'.seq, s.putDir e')

/-- Whether the home may advance a line's SEQ by `n`: no probe of the line that its target has not yet answered falls 128 or more
behind (R149). -/
def seqRoom (s : State) (pl n : Nat) : Bool :=
  let q : BitVec 8 := match s.dir? pl with | some e => e.seq | none => 0
  s.msgs.all (fun m => match m.body with
    | .probe p _ _ x => p != pl || decide ((q - x).toNat + n < 128)
    | _ => true)

/-- Whether a line lies in a frame. -/
def inFrame (pa n pl : Nat) : Bool := decide (pa / 128 ≤ pl) && decide (pl < (pa + n) / 128)

/-- The lines of a frame that a directory lists or whose writebacks or grants are on their way. -/
def trackedLines (s : State) (pa n : Nat) : List Nat :=
  (((s.domain (homeOf pa)).dir.map (·.pline)) ++ s.msgs.filterMap (fun m => match m.body with
    | .writeback p _ _ _ | .grant p _ _ _ _ _ _ => some p
    | _ => none)).filter (inFrame pa n)

/-- Every tracked copy and every replica of a frame's lines is given up, dirty sectors written home. -/
def recallFrame (s : State) (pa n : Nat) : State :=
  let s1 := (trackedLines s pa n).foldl (fun s pl => recallLine s pl true) s
  (domainsOf (waferOf (homeOf pa))).foldl (fun s dk =>
    if (s.domain dk).visit.any (fun v => inFrame pa n v.pline && v.state == .r) then
      s.updDomain dk (fun d => { d with visit := d.visit.filter (fun v => !(inFrame pa n v.pline && v.state == .r)) })
    else s) s1

/-! ### The host-coherent window (R155, R156) -/

/-- The 64-byte halves of a byte range, as numbers on a wafer. -/
def halvesOf (a n : Nat) : List Nat :=
  let p := a % 2 ^ 52
  if n = 0 then [] else (List.range ((p + n - 1) / 64 - p / 64 + 1)).map (· + p / 64)

/-- The halves the host holds that a load, or a write, of the range must have snooped first: 1 is S, 2 is A. -/
def winNeeds (s : State) (a n : Nat) (write : Bool) : List Nat :=
  let h := (s.wafer (a / 2 ^ 52 % 16)).halves
  if h = [] then []
  else (halvesOf a n).filter (fun x => if write then Tab.get 0 h x != 0 else Tab.get 0 h x == 2)

/-- Back-invalidation snoops sent for halves that have none on the way; `inval` asks for I, else for S. -/
def addSnoops (s : State) (w : Nat) (hs : List Nat) (inval : Bool) : State :=
  s.updWafer w (fun x => { x with snoops := x.snoops ++
    (hs.filter (fun h => !x.snoops.any (fun e => e.1 == h && (e.2.1 || !inval)))).map (fun h => (h, inval, 0)) })

/-! ### The secure frame table (R125, R253) -/

/-- The frame bit of a device address at its home, read through the home partition. -/
def frameSecure (s : State) (a : Nat) : Bool :=
  let dk := homeOf a
  let base := (s.domain dk).sftBase.toNat
  let f := a % 2 ^ 35 / 2 ^ 16
  if base = 0 ∨ base % 2 ^ 16 ≠ 0 ∨ base / 2 ^ 35 ≠ domOf dk then false
  else (memGet s.mem (devAddr (waferOf dk) (base + f / 8))).getLsbD (f % 8)

/-! ### Ring queues (R103) -/

/-- Whether a memory queue can take a record. -/
def RingQ.open (q : RingQ) : Bool := decide (4 ≤ q.log) && decide (q.log ≤ 20) && decide ((q.prod - q.cons).toNat ≠ 2 ^ q.log)

/-- The model address of the slot that record PROD takes. -/
def RingQ.slotAddr (q : RingQ) (w size : Nat) : Nat := devAddr w (q.base.toNat + size * (q.prod.toNat % 2 ^ q.log))

/-! ### Counters of a domain (R265) -/

/-- A saturating domain counter advanced by 1. -/
def countErr (s : State) (dk i : Nat) : State :=
  s.updDomain dk (fun d => { d with counters := d.counters.set i (if d.counters.get 0 i = BitVec.allOnes 32 then
    BitVec.allOnes 32 else d.counters.get 0 i + 1) })

/-! ### Hotness (R132, R133, R255, R266) -/

/-- The backing table of a domain, when HOTBASE is in order (R254). -/
def hotTable (s : State) (dk : Nat) : Option Nat :=
  let b := (s.domain dk).hotBase.toNat
  if b = 0 ∨ b % 4096 ≠ 0 ∨ b / 2 ^ 35 ≠ domOf dk then none else some (devAddr (waferOf dk) b)

/-- The 128 bytes of a block's entry, and the counts in them. -/
def hotImage (t : Tab Nat) : List Byte :=
  (List.range Config.domains).flatMap (fun e => bytesOfNat 2 (t.get 0 e)) ++ List.replicate 16 0
def hotParse (bs : List Byte) : Tab Nat :=
  (List.range Config.domains).filterMap (fun e =>
    let n := natOfBytes ((bs.drop (2 * e)).take 2); if n = 0 then none else some (e, n))

/-- The counts of a 64 KiB block: the cache's, or those read from the table. -/
def hotLoad (s : State) (dk blk : Nat) : Tab Nat × State :=
  match (s.domain dk).hot.get? blk with
  | some t => (t, s)
  | none => match hotTable s dk with
    | some a => let (bs, s1) := s.unitRead (a + 128 * blk) 128; (hotParse bs, s1)
    | none => ([], s)

/-- A block's counts put into the cache as the most recent; of 16,384 entries the least recent is written back. -/
def hotStore (s : State) (dk blk : Nat) (t : Tab Nat) : State :=
  let rest := (s.domain dk).hot.filter (fun e => e.1 != blk)
  let put (l : Tab (Tab Nat)) (s : State) : State := s.updDomain dk (fun d => { d with hot := l ++ [(blk, t)] })
  if rest.length < 16384 then put rest s
  else match rest, hotTable s dk with
    | e :: l, some a => put l (s.unitWrite (a + 128 * e.1) (hotImage e.2))
    | _ :: l, none => put l s
    | [], _ => put [] s

/-- The bytes of a notification (R255). -/
def hotRecord (pa e reqWafer thresh : Nat) (remote : Bool) (nseq : Word) : List Byte :=
  bytesOfNat 8 pa ++ bytesOfNat 1 (e + (if remote then 64 else 0)) ++ bytesOfNat 1 reqWafer ++ bytesOfNat 2 thresh ++
  bytesOfNat 4 nseq.toNat

/-- A counted request from core `ck` at the home of device address `a` (R132, R266). -/
def countHot (s : State) (a ck : Nat) : State :=
  let dk := homeOf a
  let rq := dkOfCk ck
  if rq = dk then s
  else
    let remote := decide (waferOf rq ≠ waferOf dk)
    let e := if remote then domOf dk else domOf rq
    let blk := a % 2 ^ 35 / 2 ^ 16
    let d := s.domain dk
    let (counts, s0) := hotLoad s dk blk
    let n := counts.get 0 e + 1
    if d.hotthresh ≠ 0 ∧ d.hotthresh.toNat ≤ n then
      let s1 := hotStore s0 dk blk (counts.set e 0)
      let rec_ := hotRecord (domOf dk * 2 ^ 35 + blk * 2 ^ 16) e (waferOf rq) d.hotthresh.toNat remote d.nseq
      let s2 := if d.hotq.open then
          (s1.unitWrite (d.hotq.slotAddr (waferOf dk) 16) rec_).updDomain dk
            (fun d => { d with hotq := { d.hotq with prod := d.hotq.prod + 1 } })
        else countErr s1 dk 9
      s2.updDomain dk (fun d => { d with nseq := d.nseq + 1 })
    else hotStore s0 dk blk (counts.set e (min n 65535))

/-- The counters of the blocks of a frame cleared, in the cache and in the table (R131). -/
def hotClear (s : State) (dk blk n : Nat) : State :=
  let s1 := s.updDomain dk (fun d => { d with hot := d.hot.filter (fun e => !(decide (blk ≤ e.1) && decide (e.1 < blk + n))) })
  match hotTable s1 dk with
  | some a => (List.range n).foldl (fun s i => s.unitWrite (a + 128 * (blk + i)) (List.replicate 128 0)) s1
  | none => s1

end Sys2Proof.Machine
end

