-- ==== Sys2Proof/Machine/Translate.lean ====
section
/-!
DEFINITION. Virtual addresses and their translation at the owner (R110-R119, R124-R125, R245-R247).
-/

namespace Sys2Proof.Machine

/-! ### Address fields (R110, R111, R112) -/

def ownerOf (va : DWord) : Nat := bitsOf va.toNat 56 51
def offsetOf (va : DWord) : Nat := bitsOf va.toNat 50 0
/-- The 57 bits the device uses. -/
def vaddr (va : DWord) : Nat := va.toNat % 2 ^ 57
/-- The virtual line of an address. -/
def vlineOf (va : DWord) : Nat := vaddr va / 128
/-- The wafer and domain of a pod-remote address (R111). -/
def podWafer (va : DWord) : Nat := bitsOf (offsetOf va) 50 47
def podDomain (va : DWord) : Nat := bitsOf (offsetOf va) 46 41

/-- The owner codes that have no space, or a pod-remote address of a domain above 55 (R111). -/
def ownerBad (va : DWord) : Bool :=
  let o := ownerOf va
  (decide (57 ≤ o) && decide (o ≤ 60)) || o == 63 || (o == 61 && decide (56 ≤ podDomain va))

/-- The control aperture's part of the owner-56 space (R113): 128 MiB at offset 2^50. -/
def apertureOff (va : DWord) : Option Nat :=
  let o := offsetOf va
  if ownerOf va = 56 ∧ 2 ^ 50 ≤ o ∧ o < 2 ^ 50 + 2 ^ 27 then some (o - 2 ^ 50) else none

/-- The domain key whose TLB translates an address seen from wafer `w`, the wafer, and the offset in its space: the
owner, D0 for owner 56, the remote domain for owner 61 (R111). -/
def translator (w : Nat) (va : DWord) : Nat × Nat :=
  let o := ownerOf va
  if o = 61 then (mkDk (podWafer va) (podDomain va), offsetOf va % 2 ^ 41)
  else if o = 56 then (mkDk w 0, offsetOf va)
  else (mkDk w o, offsetOf va)

/-- Whether a request of wafer `w` reaches wafer `w'`: the wafer itself, or a listed wafer with a usable link (R112, R232,
R250). -/
def podReach (s : State) (w w' : Nat) : Bool :=
  w == w' || ((s.wafer w).podmap.getLsbD w' &&
    (s.wafer w).links.any (fun l => l.2.present && l.2.usable && l.2.peerWafer == w'))

/-! ### The walk (R117, R245, R247) -/

/-- A leaf found: its entry, the model address where it lies, and its page size. -/
structure Leaf where
  entry : Nat
  addr : Nat
  size : Nat
  deriving DecidableEq, Repr

def Leaf.bit (l : Leaf) (i : Nat) : Bool := l.entry.testBit i
def Leaf.cls (l : Leaf) : Nat := bitsOf l.entry 9 8
def Leaf.world (l : Leaf) : Bool := l.bit 10
def Leaf.frame (l : Leaf) : Nat := bitsOf l.entry 51 16 * 2 ^ 16
def Leaf.port (l : Leaf) : Nat := bitsOf l.entry 53 52
/-- The permission bits R, W, X and U (R245). -/
def Leaf.perms (l : Leaf) : Nat := bitsOf l.entry 5 2
/-- Whether user mode may use the page an answer came from. -/
def Attr.user (a : Attr) : Bool := a.perms.testBit 3

/-- The low bit of a level's index, and the bytes of a table at that level (R117, R245). -/
def levelShift : Nat → Nat
  | 1 => 39 | 2 => 30 | 3 => 21 | _ => 16
def tableBytes : Nat → Nat
  | 1 => 32768 | 2 | 3 => 4096 | _ => 256

/-- A device physical address that names memory (R244). -/
def namesMemory (pa : Nat) : Bool := decide (pa < 56 * 2 ^ 35)
/-- A physical address in the DRAM of domain `d`. -/
def inDram (pa d : Nat) : Bool := pa / 2 ^ 35 == d

/-- What the walk needs of the machine: the wafer, the owner's domain, whether it is the owner-56 table, and the
host-coherent window when it is enabled (R117). -/
structure WalkCfg where
  w : Nat
  dom : Nat
  host : Bool
  win : Option Nat
  deriving DecidableEq, Repr

/-- Whether a pointer entry may be followed to a table of the next level (R245, R247). -/
def pointerOk (c : WalkCfg) (e lvl : Nat) : Bool :=
  bitsOf e 7 2 == 0 && bitsOf e 55 52 == 0 &&
  (let next := bitsOf e 51 8 * 256; next % tableBytes (lvl + 1) == 0 && inDram next c.dom)

/-- Whether a leaf entry is present: fields marked zero, frame aligned and naming memory, a window leaf inside the
window (R117, R247). -/
def leafOk (c : WalkCfg) (e size : Nat) : Bool :=
  let frame := bitsOf e 51 16 * 2 ^ 16
  bitsOf e 15 11 == 0 && (c.host || bitsOf e 53 52 == 0) && bitsOf e 55 54 == 0 && frame % size == 0 &&
  (c.host || (namesMemory frame && (bitsOf e 9 8 != 2 || (match c.win with
    | some b => decide (b ≤ frame) && decide (frame + size ≤ b + 2 ^ 28)
    | none => false))))

/-- The walk from a table at physical address `base` at level `lvl`, its reads strong reads at the table's home
(R118). -/
def walkFrom (c : WalkCfg) (off : Nat) : Nat → Nat → Nat → State → Option Leaf × State
  | 0, _, _, s => (none, s)
  | fuel + 1, lvl, base, s =>
    let a := devAddr c.w (base + 8 * (off / 2 ^ levelShift lvl % (tableBytes lvl / 8)))
    let (e, s1) := s.unitNat a 8
    if e.testBit 0 = false then (none, s1)
    else if e.testBit 1 then
      let size := 2 ^ levelShift lvl
      if lvl ≠ 1 ∧ leafOk c e size then (some { entry := e, addr := a, size := size }, s1) else (none, s1)
    else if lvl < 4 ∧ pointerOk c e lvl then walkFrom c off fuel (lvl + 1) (bitsOf e 51 8 * 256) s1
    else (none, s1)

/-- The root of a domain's table, or of D0's owner-56 table. -/
def Domain.rootOf (d : Domain) (host : Bool) : Nat := (if host then d.hostRoot else d.root).toNat

/-- The walk at an owner from a root (R117): a malformed root ends as not present (R249). -/
def walkRoot (s : State) (dk off : Nat) (host : Bool) (root : Nat) : Option Leaf × State :=
  let w := s.wafer (waferOf dk)
  if root % tableBytes 1 = 0 ∧ inDram root (domOf dk) then
    walkFrom { w := waferOf dk, dom := domOf dk, host := host,
               win := if w.hostwinEn then some (w.hostwin.toNat / 2 ^ 28 * 2 ^ 28) else none } off 4 1 root s
  else (none, s)

/-- The walk from the root the domain has now. -/
def walk (s : State) (dk off : Nat) (host : Bool) : Option Leaf × State := walkRoot s dk off host ((s.domain dk).rootOf host)

/-! ### The memory-side TLB (R118) -/

/-- The TLB entry that covers an offset. -/
def tlbFind (d : Domain) (off : Nat) : Option TlbEnt := d.tlb.find? (fun e => off / e.size == e.page)

/-- A leaf put into the TLB; of 8,192 entries the oldest gives way. -/
def tlbPut (s : State) (dk off : Nat) (l : Leaf) : State :=
  let same (x : TlbEnt) : Bool := x.page == off / l.size && x.size == l.size
  s.updDomain dk (fun d =>
    let e : TlbEnt := { page := off / l.size, size := l.size, leaf := BitVec.ofNat 64 l.entry, lpa := l.addr,
                        moving := d.tlb.any (fun x => same x && x.moving) }
    let t := d.tlb.filter (fun x => !same x)
    { d with tlb := (if 8192 ≤ t.length then t.drop 1 else t) ++ [e] })

/-- The leaf for an offset, from the TLB or by a walk that fills it; the TLB holds no absent entry, and the owner-56
table is walked by the bridge each time (R113, R118). -/
def findLeaf (s : State) (dk off : Nat) (host : Bool) : Option Leaf × State :=
  if host then walk s dk off true
  else match tlbFind (s.domain dk) off with
    | some e => (some { entry := e.leaf.toNat, addr := e.lpa, size := e.size }, s)
    | none =>
      match walk s dk off false with
      | (some l, s1) => (some l, tlbPut s1 dk off l)
      | (none, s1) => (none, s1)

/-- The page of an offset at its owner: its first offset and size, from the TLB or from the table as it stands; without a present
leaf the smallest page (R117, R118). -/
def pageAt (s : State) (dk off : Nat) : Nat × Nat :=
  match tlbFind (s.domain dk) off with
  | some e => (e.page * e.size, e.size)
  | none => match (walk s dk off false).1 with
    | some l => (off / l.size * l.size, l.size)
    | none => (off / 2 ^ 16 * 2 ^ 16, 2 ^ 16)

/-- A leaf's accessed and dirty bits set by the device (R118, R247): a compare-and-swap on the entry, of which it changes only
these bits. No answer: the entry in memory is not the one the TLB holds, and the walk starts again. -/
def touchLeaf (s : State) (dk : Nat) (l : Leaf) (write : Bool) : Option State :=
  let add := (if l.bit 6 then 0 else 64) + (if write && !l.bit 7 then 128 else 0)
  if add = 0 then some s
  else
    let (e0, s1) := s.unitNat l.addr 8
    if e0 ≠ l.entry then none
    else
      let e := l.entry + add
      let s2 := s1.unitWrite l.addr (bytesOfNat 1 (e % 256))
      some (s2.updDomain dk (fun d => { d with tlb := d.tlb.map (fun x =>
        if x.lpa = l.addr ∧ x.leaf.toNat = l.entry then { x with leaf := BitVec.ofNat 64 e } else x) }))

/-! ### Permission (R119, R246) -/

/-- The kinds of access R246 tells apart. -/
inductive Access where
  | read | write | rmw | fetch
  deriving DecidableEq, Repr

/-- The leaf's permission bits against the access and the mode (R246). -/
def permOk (l : Leaf) (a : Access) (priv : Bool) : Bool :=
  (match a with
    | .read => l.bit 2
    | .write => l.bit 3
    | .rmw => l.bit 2 && l.bit 3
    | .fetch => l.bit 4) && (priv || l.bit 5)

/-- Whether an access sets the dirty bit. -/
def Access.writes : Access → Bool
  | .write | .rmw => true
  | _ => false

/-- A translation done: the model address, whether it lies behind a host port, and the attributes. -/
structure Xlat where
  addr : Nat
  host : Bool
  attr : Attr
  deriving DecidableEq, Repr

/-- What an access meets at a leaf: a translation, a fault, or an entry that has changed in memory since the walk. -/
inductive LeafAns where
  | ok (x : Xlat)
  | fault (code : BitVec 8)
  | stale
  deriving DecidableEq, Repr

/-- The translation of a leaf at an offset. -/
def Leaf.xlat (l : Leaf) (w off : Nat) (host : Bool) : Xlat :=
  let a := if host then hostAddr w l.port (l.frame + off % l.size) else devAddr w (l.frame + off % l.size)
  { addr := a, host := host, attr := { cls := l.cls, world := l.world, perms := l.perms, size := l.size, pline := a / 128 } }

/-- Permission and world of a leaf found, and the translation, with the A and D bits set (R115 step 4, R119, R125). The
codes are XLAT_PERM and WORLD. -/
def applyLeaf (s : State) (dk off : Nat) (host : Bool) (l : Leaf) (acc : Access) (priv secure : Bool) : LeafAns × State :=
  if permOk l acc priv = false then (.fault codePerm, s)
  else if l.world ≠ secure then (.fault codeWorld, s)
  else match touchLeaf s dk l acc.writes with
    | some s1 => (.ok (l.xlat (waferOf dk) off host), s1)
    | none => (.stale, s)

/-- The same, the walk started again when the entry has changed (R118): at most once, the second leaf being as memory holds it. -/
def useLeaf (s : State) (dk off : Nat) (host : Bool) (l : Leaf) (acc : Access) (priv secure : Bool) :
    Except (BitVec 8) Xlat × State :=
  match applyLeaf s dk off host l acc priv secure with
  | (.ok x, s1) => (.ok x, s1)
  | (.fault e, s1) => (.error e, s1)
  | (.stale, s1) => match walk s1 dk off host with
    | (none, s2) => (.error codeNoPage, s2)
    | (some l', s2) => match applyLeaf (if host then s2 else tlbPut s2 dk off l') dk off host l' acc priv secure with
      | (.ok x, s3) => (.ok x, s3)
      | (.fault e, s3) => (.error e, s3)
      | (.stale, s3) => (.error codeNoPage, s3)

/-- Requests to a moving page after the switch, and to a range whose class changes, are held at the owner (R128, R152). -/
def heldAtOwner (s : State) (dk off : Nat) : Bool :=
  (s.domain dk).migs.any (fun m => 2 ≤ m.phase && m.ownerDk == dk && off / m.size == m.vpage) ||
  s.unitOps.any (fun u => u.what == 1 && u.phase != 0 && u.dk == dk && decide (u.lo ≤ off) && decide (off < u.hi))

/-- Whether the owner of an address holds new requests to it, seen from wafer `w`. -/
def ownerHolds (s : State) (w : Nat) (va : DWord) : Bool :=
  decide (ownerOf va ≤ 61 ∧ ownerOf va ≠ 56) && (let (dk, off) := translator w va; heldAtOwner s dk off)

/-- The pieces of a byte run that lie in one 64 KiB page each: offset in the run and length. -/
def pagePieces (a n : Nat) : List (Nat × Nat) :=
  let k := min n (2 ^ 16 - a % 2 ^ 16)
  if n = k then [(0, n)] else [(0, k), (k, n - k)]

/-- A translation in one step, as the units and the fetch make it: XLAT_NOPAGE, XLAT_PERM, WORLD or LINK_DOWN otherwise. Owner
56 is walked at D0; every offset outside host memory is not present (R113). -/
def translate (s : State) (w : Nat) (va : DWord) (acc : Access) (priv secure : Bool) : Except (BitVec 8) Xlat × State :=
  let (dk, off) := translator w va
  let host := ownerOf va == 56
  if host && decide (2 ^ 50 ≤ off) then (.error codeNoPage, s)
  else if ownerOf va = 61 ∧ podReach s w (podWafer va) = false then (.error codeLinkDown, s)
  else match findLeaf s dk off host with
    | (none, s1) => (.error codeNoPage, s1)
    | (some l, s1) => useLeaf s1 dk off host l acc priv secure

end Sys2Proof.Machine
end

