-- ==== Sys2Proof/Machine/FaultQueue.lean ====
section
/-!
DEFINITION. Fault-queue records (R59, R60, R103, R104): which queue takes a record, its bytes, and the record held while
the queue is full or off.
-/

namespace Sys2Proof.Machine

/-- What a fault-queue record says (R60), the token apart. -/
structure FRec where
  addr : DWord
  code : BitVec 8
  kind : Nat
  world : Bool
  entry : Nat
  source : Nat
  slot : Nat
  warp : Nat
  grid : Nat
  lanes : Word
  deriving DecidableEq, Repr

/-- The 32 bytes of a record. -/
def FRec.bytes (r : FRec) (token : Nat) : List Byte :=
  bytesOfNat 8 r.addr.toNat ++ bytesOfNat 1 r.code.toNat ++ bytesOfNat 1 r.kind ++
  bytesOfNat 1 (if r.world then 1 else 0) ++ bytesOfNat 1 r.entry ++ bytesOfNat 2 r.source ++ bytesOfNat 1 r.slot ++
  bytesOfNat 1 r.warp ++ bytesOfNat 8 r.grid ++ bytesOfNat 4 r.lanes.toNat ++ bytesOfNat 4 token

/-- The domain whose queue takes a fault on an address (R59): the owner, D0 for owner 56, the remote domain for
owner 61. -/
def faultDk (w : Nat) (va : DWord) : Nat := (translator w va).1

/-- The record of a domain as a requester: its number and its wafer (R60). -/
def sourceOf (dk : Nat) : Nat := domOf dk + 64 * waferOf dk

/-- A record written into the queue (R103). -/
def writeFaultRecord (s : State) (dk : Nat) (bs : List Byte) : State :=
  let q := (s.domain dk).fltq
  (s.unitWrite (q.slotAddr (waferOf dk) 32) bs).updDomain dk (fun d => { d with fltq := { d.fltq with prod := d.fltq.prod + 1 } })

/-- A record sent to a queue, with who waits for its reply; behind held records, or while the queue is full or off, it
is held (R60, R103). Tokens have bit 31 clear (R104). -/
def sendRecord (s : State) (dk : Nat) (r : FRec) (who : Waiter) : Nat × State :=
  let token := s.nextId % 2 ^ 31
  let bs := r.bytes token
  let s1 := { s with nextId := s.nextId + 1 }
  let s2 := s1.updDomain dk (fun d => { d with waiters := d.waiters.set token who })
  if (s2.domain dk).held = [] ∧ (s2.domain dk).fltq.open then (token, writeFaultRecord s2 dk bs)
  else (token, s2.updDomain dk (fun d => { d with held := d.held ++ [{ bytes := bs, token := token }] }))

/-- The record of a fault that a resident warp meets. -/
def warpRecord (b : Block) (w : Warp) (va : DWord) (code : BitVec 8) (kind entry : Nat) (lanes : Word) : FRec :=
  { addr := va, code := code, kind := kind, world := w.secure, entry := entry, source := sourceOf (dkOfCk b.core),
    slot := slotOfCk b.core, warp := w.number, grid := b.gid, lanes := lanes }

end Sys2Proof.Machine
end

