-- ==== Sys2Proof/Machine/Numbers.lean ====
section
/-!
DEFINITION. Numbers (R268-R281): integer types, the floating-point and tapered formats to the bit, rounding, the flags
of a rounding, and the exact arithmetic on values.
-/

namespace Sys2Proof.Machine

/-! ### Integer types (R268, R297, R322) -/

/-- A type of values: its width and whether it is read as signed. Raw bits read as unsigned. -/
structure VTy where
  bits : Nat
  signed : Bool
  deriving DecidableEq, Repr

/-- The 32-bit words a value of the type takes (R72). -/
def VTy.words (t : VTy) : Nat := if t.bits = 64 then 2 else 1

/-- The integer types of class I (R297). -/
def intTy (x : BitVec 3) : VTy := { bits := 8 * 2 ^ (x.toNat / 2), signed := x.toNat % 2 == 0 }

/-- The raw types of class Bt (R297); codes 4-7 are reserved. -/
def bitTy (x : BitVec 3) : Option VTy := if x.toNat < 4 then some { bits := 8 * 2 ^ x.toNat, signed := false } else none

def tyI32 : VTy := { bits := 32, signed := true }
def tyN32 : VTy := { bits := 32, signed := false }

/-- The unsigned number in the low bits of an operand (R322). -/
def VTy.nat (t : VTy) (x : DWord) : Nat := x.toNat % 2 ^ t.bits

/-- The number an operand holds in the type (R322). -/
def VTy.val (t : VTy) (x : DWord) : Int :=
  if t.signed && decide (2 ^ (t.bits - 1) ≤ t.nat x) then (t.nat x : Int) - 2 ^ t.bits else t.nat x

/-- A value as a register holds it: widened to 32 bits, or a pair (R268). -/
def VTy.store (t : VTy) (x : DWord) : DWord := if t.bits = 64 then x else (BitVec.ofInt 32 (t.val x)).setWidth 64

/-- The exact number wrapped into the type and stored (R268, R269). -/
def VTy.wrap (t : VTy) (r : Int) : DWord := t.store (BitVec.ofInt 64 r)

/-- The least and greatest number of the type (R268). -/
def VTy.lo (t : VTy) : Int := if t.signed then -(2 ^ (t.bits - 1)) else 0
def VTy.hi (t : VTy) : Int := if t.signed then 2 ^ (t.bits - 1) - 1 else 2 ^ t.bits - 1

/-- A number limited to the range of the type (R329). -/
def VTy.clamp (t : VTy) (r : Int) : Int := max t.lo (min t.hi r)

/-! ### Floating-point formats (R270, R273) -/

/-- The formats of R270 and R273. -/
inductive Fmt where
  | f32 | f16 | bf16 | e4m3 | e5m2 | e2m3 | e3m2 | e2m1 | t8 | t6
  deriving DecidableEq, Repr

/-- Width in bits. -/
def Fmt.bits : Fmt → Nat
  | .f32 => 32 | .f16 | .bf16 => 16 | .e4m3 | .e5m2 | .t8 => 8 | .e2m3 | .e3m2 | .t6 => 6 | .e2m1 => 4

/-- Fraction bits; none for the tapered formats. -/
def Fmt.frac : Fmt → Nat
  | .f32 => 23 | .f16 => 10 | .bf16 => 7 | .e4m3 => 3 | .e5m2 => 2 | .e2m3 => 3 | .e3m2 => 2 | .e2m1 => 1 | _ => 0

/-- Exponent bias; none for the tapered formats. -/
def Fmt.bias : Fmt → Int
  | .f32 => 127 | .f16 => 15 | .bf16 => 127 | .e4m3 => 7 | .e5m2 => 15 | .e2m3 => 1 | .e3m2 => 3 | .e2m1 => 1 | _ => 0

/-- The pattern of the largest finite magnitude (R270, R275). -/
def Fmt.largest : Fmt → Nat
  | .f32 => 0x7F7FFFFF | .f16 => 0x7BFF | .bf16 => 0x7F7F | .e4m3 => 0x7E | .e5m2 => 0x7B | .e2m3 => 0x1F
  | .e3m2 => 0x1F | .e2m1 => 7 | .t8 => 0x7F | .t6 => 0x1F

/-- The pattern of +∞, in the formats that have one. -/
def Fmt.inf : Fmt → Option Nat
  | .f32 => some 0x7F800000 | .f16 => some 0x7C00 | .bf16 => some 0x7F80 | .e5m2 => some 0x7C | _ => none

/-- The canonical NaN, or NaR; E2M3, E3M2 and E2M1 have none (R270, R273). -/
def Fmt.nan : Fmt → Option Nat
  | .f32 => some 0x7FC00000 | .f16 => some 0x7E00 | .bf16 => some 0x7FC0 | .e4m3 => some 0x7F | .e5m2 => some 0x7E
  | .t8 => some 0x80 | .t6 => some 0x20 | _ => none

/-- FP32, FP16 and BF16: the formats that IEEE overflow and FTZ concern (R274, R280). -/
def Fmt.ieee : Fmt → Bool
  | .f32 | .f16 | .bf16 => true
  | _ => false

/-- T8 and T6. -/
def Fmt.tapered : Fmt → Bool
  | .t8 | .t6 => true
  | _ => false

/-- A value: NaN (signalling or not; NaR too), an infinity, or m × 2^e with its sign. -/
inductive FVal where
  | nan (signalling : Bool)
  | inf (neg : Bool)
  | fin (neg : Bool) (m : Nat) (e : Int)
  deriving DecidableEq, Repr

def FVal.isNan : FVal → Bool
  | .nan _ => true
  | _ => false
def FVal.isSnan : FVal → Bool
  | .nan b => b
  | _ => false
def FVal.neg : FVal → Bool
  | .inf n | .fin n _ _ => n
  | .nan _ => false
def FVal.isZero : FVal → Bool
  | .fin _ 0 _ => true
  | _ => false

/-- The run of equal leading bits of the low `n` bits of `x` (R273). -/
def leadRun (x : Nat) (b : Bool) : Nat → Nat
  | 0 => 0
  | n + 1 => if x.testBit n == b then 1 + leadRun x b n else 0

/-- The value of a tapered pattern of `n` bits (R273). -/
def taperedVal (n x : Nat) : FVal :=
  if x = 0 then .fin false 0 0
  else if x = 2 ^ (n - 1) then .nan false
  else
    let b := x.testBit (n - 2)
    let m := leadRun x b (n - 1)
    let k : Int := if b then (m : Int) - 1 else -(m : Int)
    let rest := n - 1 - m - 1
    if rest = 0 then .fin (x.testBit (n - 1)) 1 (2 * k)
    else
      let e := if x.testBit (rest - 1) then 1 else 0
      .fin (x.testBit (n - 1)) (2 ^ (rest - 1) + x % 2 ^ (rest - 1)) (2 * k + e - (rest - 1))

/-- The value of a pattern (R270, R273). In E5M2 a NaN without the high fraction bit is signalling. -/
def Fmt.val (f : Fmt) (x0 : Nat) : FVal :=
  let x := x0 % 2 ^ f.bits
  if f.tapered then taperedVal f.bits x
  else
    let neg := x.testBit (f.bits - 1)
    let mag := x % 2 ^ (f.bits - 1)
    let fr := mag % 2 ^ f.frac
    let ex := mag / 2 ^ f.frac
    if f = .e4m3 ∧ mag = 0x7F then .nan false
    else match f.inf with
      | some i =>
        if mag = i then .inf neg
        else if i < mag then .nan (!fr.testBit (f.frac - 1))
        else if ex = 0 then .fin neg fr (1 - f.bias - f.frac)
        else .fin neg (fr + 2 ^ f.frac) (ex - f.bias - f.frac)
      | none =>
        if ex = 0 then .fin neg fr (1 - f.bias - f.frac)
        else .fin neg (fr + 2 ^ f.frac) (ex - f.bias - f.frac)

/-- Whether a pattern is subnormal: exponent field zero, fraction not (R270). -/
def Fmt.subnormal (f : Fmt) (x : Nat) : Bool :=
  let mag := x % 2 ^ (f.bits - 1)
  !f.tapered && decide (mag < 2 ^ f.frac) && decide (mag ≠ 0)

/-- The value of a source, with FTZ (R280). -/
def Fmt.src (f : Fmt) (ftz : Bool) (x : Nat) : FVal :=
  if ftz && f.ieee && f.subnormal x then .fin ((x % 2 ^ f.bits).testBit (f.bits - 1)) 0 0 else f.val x

/-! ### Rounding (R274-R276) -/

/-- Rounding modes; SR carries its 16 random bits (R276). -/
inductive RMode where
  | rne | rtz | rdn | rup
  | sr (rnd : Nat)
  deriving DecidableEq, Repr

/-- The modes by their codes 0-3 (R274). -/
def rmodeOf (n : Nat) : RMode := match n with | 0 => .rne | 1 => .rtz | 2 => .rdn | _ => .rup

/-- Whether the magnitude q + r/d rounds up to q + 1 (R274, R276). -/
def roundsUp (md : RMode) (neg : Bool) (q r d : Nat) : Bool :=
  match md with
  | .rne => decide (d < 2 * r) || (decide (2 * r = d) && q % 2 == 1)
  | .rtz => false
  | .rdn => neg && decide (r ≠ 0)
  | .rup => !neg && decide (r ≠ 0)
  | .sr rnd => decide (r ≠ 0) && decide (2 ^ 16 ≤ r * 2 ^ 16 / d + rnd)

/-- The magnitude m × 2^k rounded to an integer, and whether it was inexact. -/
def roundMag (md : RMode) (neg : Bool) (m : Nat) (k : Int) : Nat × Bool :=
  if 0 ≤ k then (m * 2 ^ k.toNat, false)
  else
    let d := 2 ^ (-k).toNat
    let q := m / d
    let r := m % d
    (if roundsUp md neg q r d then q + 1 else q, decide (r ≠ 0))

/-- A pattern with its sign bit. -/
def Fmt.signed (f : Fmt) (neg : Bool) (mag : Nat) : Nat := if neg then 2 ^ (f.bits - 1) + mag else mag

/-- Rounding of a nonzero finite value on the pattern of T8 or T6 (R275). -/
def roundTapered (f : Fmt) (md : RMode) (neg : Bool) (m : Nat) (e : Int) : Nat × Word :=
  let n := f.bits
  let top : Int := 2 * ((n : Int) - 2)
  let ex : Int := e + Nat.log2 m
  if top ≤ ex then
    (f.signed neg f.largest, flIf (decide (ex ≠ top) || decide (m ≠ 2 ^ Nat.log2 m)) (flOF ||| flNX))
  else if ex < -top then (f.signed neg 1, flUF ||| flNX)
  else
    let k := ex / 2
    let run : Nat × Nat := if 0 ≤ k then ((2 ^ (k.toNat + 1) - 1) * 2, k.toNat + 2) else (1, (-k).toNat + 1)
    let fb := Nat.log2 m
    let str := (run.1 * 2 + (ex % 2).toNat) * 2 ^ fb + (m - 2 ^ fb)
    let len := run.2 + 1 + fb
    let (p, nx) := roundMag md neg str ((n : Int) - 1 - len)
    (f.signed neg (min p f.largest), flIf nx flNX)

/-- The IEEE overflow result (R274), and ±largest finite for the other formats and for SR (R276, R277). -/
def overflowPat (f : Fmt) (md : RMode) (neg : Bool) : Nat :=
  let toInf := match md with | .rne => true | .rdn => neg | .rup => !neg | _ => false
  match f.ieee && toInf, f.inf with
  | true, some i => f.signed neg i
  | _, _ => f.signed neg f.largest

/-- Rounding of a nonzero finite value to a format with an exponent field (R274, R276, R277, R279). -/
def roundFloat (f : Fmt) (md : RMode) (neg : Bool) (m : Nat) (e : Int) : Nat × Word :=
  let ex : Int := e + Nat.log2 m
  let emin : Int := 1 - f.bias
  let ex' := max ex emin
  let (r, nx) := roundMag md neg m (e - (ex' - f.frac))
  let p := (ex' - emin).toNat * 2 ^ f.frac + r
  if f.largest < p then (overflowPat f md neg, flOF ||| flNX)
  else
    let ru := (roundMag md neg m (e - (ex - f.frac))).1
    let tiny := decide (ex < emin) && !(decide (ex = emin - 1) && decide (ru = 2 ^ (f.frac + 1)))
    (f.signed neg p, flIf nx flNX ||| flIf (nx && tiny) flUF)

/-- A subnormal result written as zero of its sign, with UF and NX (R280). -/
def flush (f : Fmt) (ftz : Bool) (r : Nat × Word) : Nat × Word :=
  if ftz && f.ieee && f.subnormal r.1 then (r.1 / 2 ^ (f.bits - 1) * 2 ^ (f.bits - 1), r.2 ||| flUF ||| flNX) else r

/-- `Round(v, format, mode)` with the special values of R277 and R281, and the flags of R279. -/
def roundTo (f : Fmt) (md : RMode) (ftz : Bool) (v : FVal) : Nat × Word :=
  match v with
  | .nan s =>
    match f.nan with
    | some p => (p, flIf s flNV)
    | none => (0, flNV)
  | .inf n =>
    match f.inf with
    | some i => (f.signed n i, 0)
    | none => (f.signed n f.largest, flOF ||| flNX)
  | .fin n 0 _ => (if f.tapered then 0 else f.signed n 0, 0)
  | .fin n m e => if f.tapered then roundTapered f md n m e else flush f ftz (roundFloat f md n m e)

/-- A value converted to an integer type (R277). -/
def roundInt (t : VTy) (md : RMode) (v : FVal) : DWord × Word :=
  match v with
  | .nan _ => (0, flNV)
  | .inf n => (t.wrap (if n then t.lo else t.hi), flNV)
  | .fin n m e =>
    let (r, nx) := roundMag md n m e
    let x : Int := if n then -(r : Int) else r
    if t.lo ≤ x ∧ x ≤ t.hi then (t.wrap x, flIf nx flNX) else (t.wrap (t.clamp x), flNV)

/-- A value converted to E8M0 (R278). -/
def roundE8m0 (md : RMode) (v : FVal) : Nat × Word :=
  match v with
  | .nan _ | .inf _ => (0xFF, flNV)
  | .fin _ 0 _ => (0, flUF ||| flNX)
  | .fin _ m e =>
    let j : Int := e + Nat.log2 m
    let pow2 := decide (m = 2 ^ Nat.log2 m)
    let twice := 4 * m           -- compared with 3 × 2^(log2 m + 1): |v| against 1.5 × 2^j
    let mid := 3 * 2 ^ (Nat.log2 m + 1)
    let fld : Int := match md with
      | .rtz | .rdn => j + 127
      | .rup => if pow2 then j + 127 else j + 128
      | _ => if twice < mid then j + 127 else if mid < twice then j + 128
             else if (j + 127) % 2 = 0 then j + 127 else j + 128
    if fld < 0 then (0, flUF ||| flNX)
    else if 254 < fld then (0xFE, flOF ||| flNX)
    else (fld.toNat, flIf (!(pow2 && decide (fld = j + 127))) flNX)

/-- The value of an E8M0 pattern (R271). -/
def e8m0Val (x : Nat) : FVal := if x % 256 = 255 then .nan false else .fin false 1 ((x % 256 : Nat) - 127)

/-- An integer as a value. -/
def ofIntVal (x : Int) : FVal := .fin (decide (x < 0)) x.natAbs 0

/-! ### Exact arithmetic (R359, R363) -/

/-- The canonical NaN of an operation with a NaN operand, NV for a signalling one (R279, R281). -/
def nanOf (vs : List FVal) : Option (FVal × Word) :=
  if vs.any FVal.isNan then some (.nan false, flIf (vs.any FVal.isSnan) flNV) else none

/-- The exact sum of two finite values as sign and magnitude; `zneg` is the sign of an exact zero. -/
def sumFin (zneg : Bool) (n1 : Bool) (m1 : Nat) (e1 : Int) (n2 : Bool) (m2 : Nat) (e2 : Int) : FVal :=
  let e := min e1 e2
  let x1 : Int := (m1 * 2 ^ (e1 - e).toNat : Nat)
  let x2 : Int := (m2 * 2 ^ (e2 - e).toNat : Nat)
  let s := (if n1 then -x1 else x1) + (if n2 then -x2 else x2)
  if s = 0 then .fin zneg 0 0 else .fin (decide (s < 0)) s.natAbs e

/-- The exact sum, with the IEEE special cases (R359). -/
def fAdd (md : RMode) (x y : FVal) : FVal × Word :=
  match nanOf [x, y] with
  | some r => r
  | none =>
    match x, y with
    | .inf a, .inf b => if a = b then (.inf a, 0) else (.nan false, flNV)
    | .inf a, _ => (.inf a, 0)
    | _, .inf b => (.inf b, 0)
    | .fin a m e, .fin b m' e' =>
      let zneg := if m = 0 ∧ m' = 0 ∧ a = b then a else decide (md = .rdn)
      (sumFin zneg a m e b m' e', 0)
    | _, _ => (.nan false, 0)

/-- A value with its sign inverted. -/
def FVal.negate : FVal → FVal
  | .nan s => .nan s
  | .inf n => .inf (!n)
  | .fin n m e => .fin (!n) m e

/-- The exact product. -/
def fMul (x y : FVal) : FVal × Word :=
  match nanOf [x, y] with
  | some r => r
  | none =>
    match x, y with
    | .inf a, .inf b => (.inf (a != b), 0)
    | .inf a, .fin b m _ => if m = 0 then (.nan false, flNV) else (.inf (a != b), 0)
    | .fin a m _, .inf b => if m = 0 then (.nan false, flNV) else (.inf (a != b), 0)
    | .fin a m e, .fin b m' e' => (.fin (a != b) (m * m') (e + e'), 0)
    | _, _ => (.nan false, 0)

/-- a × b + c exactly; ∞ × 0 sets NV whatever c holds (R359). -/
def fFma (md : RMode) (a b c : FVal) : FVal × Word :=
  let inv := (match a, b with
    | .inf _, .fin _ 0 _ => true
    | .fin _ 0 _, .inf _ => true
    | _, _ => false)
  if inv then (.nan false, flNV)
  else match nanOf [a, b, c] with
    | some r => r
    | none => fAdd md (fMul a b).1 c

/-- The quotient, its low bit standing for the rest of the digits (R363). -/
def fDiv (x y : FVal) : FVal × Word :=
  match nanOf [x, y] with
  | some r => r
  | none =>
    match x, y with
    | .inf _, .inf _ => (.nan false, flNV)
    | .inf a, .fin b _ _ => (.inf (a != b), 0)
    | .fin a _ _, .inf b => (.fin (a != b) 0 0, 0)
    | .fin a m e, .fin b m' e' =>
      if m' = 0 then (if m = 0 then (.nan false, flNV) else (.inf (a != b), flDZ))
      else if m = 0 then (.fin (a != b) 0 0, 0)
      else
        let k := 64 + Nat.log2 m'
        let n := m * 2 ^ k
        (.fin (a != b) (2 * (n / m') + (if n % m' = 0 then 0 else 1)) (e - e' - k - 1), 0)
    | _, _ => (.nan false, 0)

/-- The integer square root, digit by digit from bit `k`. -/
def sqrtBits (n : Nat) : Nat → Nat → Nat
  | 0, r => r
  | k + 1, r =>
    let t := r + 2 ^ k
    if t * t ≤ n then sqrtBits n k t else sqrtBits n k r

/-- The square root, its low bit standing for the rest of the digits (R363). -/
def fSqrt (x : FVal) : FVal × Word :=
  match nanOf [x] with
  | some r => r
  | none =>
    match x with
    | .fin n 0 _ => (.fin n 0 0, 0)
    | .fin true _ _ | .inf true => (.nan false, flNV)
    | .inf false => (.inf false, 0)
    | .fin false m e =>
      let (m1, e1) := if e % 2 = 0 then (m, e) else (2 * m, e - 1)
      let n := m1 * 2 ^ 80
      let r := sqrtBits n 64 0
      (.fin false (2 * r + (if r * r = n then 0 else 1)) ((e1 - 80) / 2 - 1), 0)
    | .nan _ => (.nan false, 0)

/-- Less than on numbers, with −0 equal to +0 (R361). -/
def fLt (x y : FVal) : Bool :=
  match x, y with
  | .nan _, _ | _, .nan _ => false
  | .inf a, .inf b => a && !b
  | .inf a, _ => a
  | _, .inf b => !b
  | .fin a m e, .fin b m' e' =>
    match sumFin false a m e (!b) m' e' with
    | .fin n k _ => n && decide (k ≠ 0)
    | _ => false

/-- Equality of numbers, with −0 equal to +0 (R361). -/
def fEq (x y : FVal) : Bool := !x.isNan && !y.isNan && !fLt x y && !fLt y x

/-- minimumNumber, or maximumNumber: the left operand is taken when it is the lesser (the greater), −0 below +0
(R360). -/
def fMinMax (max : Bool) (x y : FVal) : FVal × Word :=
  let fl := flIf (x.isSnan || y.isSnan) flNV
  match x.isNan, y.isNan with
  | true, true => (.nan false, fl)
  | true, false => (y, fl)
  | false, true => (x, fl)
  | false, false =>
    let less := fLt x y || (fEq x y && x.neg && !y.neg)
    (if less != max then x else y, fl)

end Sys2Proof.Machine
end

