-- ==== Sys2Proof/Machine/Lanes.lean ====
section
/-!
DEFINITION. The shape shared by every instruction that computes a value for each lane, or once for a uniform form
(R299-R301, R321-R325, R356-R358, R375-R376): operands by format, the static checks, and the effect.
-/

namespace Sys2Proof.Machine

/-- The operands of an instruction: destination, three sources, and the source-lane modifier on B (R301). -/
structure Opnds where
  d : Opd
  a : Opd := .zero
  b : Opd := .zero
  c : Opd := .zero
  kind : Nat := 0
  amt : Nat := 0
  deriving DecidableEq, Repr

/-- What is computed: the widths of the destination and of the sources in words (0: not used), whether the destination
or C is a predicate, whether the result arrives later (R328), and the value with its flags from FPMODE and the
operands. -/
structure LaneOp where
  dW : Nat := 1
  aW : Nat := 1
  bW : Nat := 0
  cW : Nat := 0
  dPred : Bool := false
  cPred : Bool := false
  long : Bool := false
  f : Word → DWord → DWord → DWord → DWord × Word

/-! ### Operands by format -/

/-- The operands of sub-format A (R293). -/
def opndsA (f : FmtA) : Opnds :=
  { d := opd9 f.d, a := opd9 f.a, b := opd9 f.b, c := opd9 f.c, kind := f.lkind.toNat, amt := f.lamt.toNat }

/-- The operands of sub-format B with the immediate as b (R294, R337). -/
def opndsB (f : FmtB) : Opnds := { d := opd9 f.d, a := opd9 f.a, b := .imm (f.imm.signExtend 64) }

/-- The operands of an L32 word with a register as b (R291). -/
def opndsDab (f : F32) : Opnds := { d := opd7 f.d, a := opd7 f.a, b := opd7 f.b }

/-- The operands of an L32 word with an immediate as b (R292). -/
def opndsDai (f : F32) : Opnds := { d := opd7 f.d, a := opd7 f.a, b := .imm (f.b.signExtend 64) }

/-- The operands of an S16 word: D is the first source as well (R289). -/
def opnds16 (float : Bool) (f : F16) : Opnds := { d := .v f.d.toNat, a := .v f.d.toNat, b := opdS float f.s }

/-! ### Static checks (R299-R301, R306) -/

/-- Whether the modifier of an operand B is one the instruction may not hold (R301). -/
def lkindBad (f : FmtA) (lk : Bool) : Bool :=
  if f.lkind = 0 then f.lamt ≠ 0
  else !lk || f.lkind == 7 || !(match opd9 f.b with | .v _ | .o _ => true | _ => false)

/-- Whether a field of sub-format A that the instruction does not use is not zero, a strict bit stands on a field that
is no source, RND is one the instruction does not take, or the modifier is bad (R299-R301, R306). `raw` says that C is
read as a number. -/
def badA (f : FmtA) (useD srcA srcB srcC raw rnd lk : Bool) : Bool :=
  (!useD && f.d != 0) || (!srcA && f.a != 0) || (!srcB && f.b != 0) || (!srcC && !raw && f.c != 0) ||
  (!srcA && f.strict.getLsbD 0) || (!srcB && f.strict.getLsbD 1) || (!srcC && f.strict.getLsbD 2) ||
  (!rnd && f.rnd != 0) || lkindBad f lk

/-- The fields of a lane instruction (R299): vector roles, or uniform roles. -/
def LaneOp.fields (op : LaneOp) (uni : Bool) (x : Opnds) (strict : BitVec 3) : List Field :=
  let src := if uni then Role.usrc else Role.vsrc
  [{ opd := x.d, role := if op.dPred then .pred else if uni then .udst else .vdst, words := op.dW, dst := true }] ++
  (if op.aW = 0 then [] else [{ opd := x.a, role := src, words := op.aW, strict := strict.getLsbD 0 }]) ++
  (if op.bW = 0 then [] else [{ opd := x.b, role := src, words := op.bW, strict := strict.getLsbD 1 }]) ++
  (if op.cW = 0 then [] else
    [{ opd := x.c, role := if op.cPred then .pred else src, words := op.cW, strict := strict.getLsbD 2 }])

/-- The shape of an encoding that no row allows: ILLEGAL_OPCODE whatever its operands. -/
def badShape (gov : Bool) : Shape := { opcodeBad := true, fields := [], gov := gov }

/-- The shape of a lane instruction of sub-format A; `none` stands for a type the row does not allow. -/
def shapeA (op : Option LaneOp) (uni rnd lk raw : Bool) (f : FmtA) : Shape :=
  match op with
  | none => badShape (!uni)
  | some op => { opcodeBad := badA f true (op.aW != 0) (op.bW != 0) (op.cW != 0) raw rnd lk,
                 fields := op.fields uni (opndsA f) f.strict, gov := !uni }

/-- The shape of a lane instruction of another format, whose unused fields are zero when `ok`. -/
def shapeX (op : LaneOp) (uni ok : Bool) (x : Opnds) : Shape :=
  { opcodeBad := !ok, fields := op.fields uni x 0, gov := !uni }

/-! ### The effect (R322, R323, R328, R358, R376) -/

/-- One lane of a source of `w` words. -/
def srcLane (c : Ctx) (x : Opd) (w i : Nat) : DWord :=
  match w with
  | 0 => 0
  | 2 => read64 c.blk c.warp c.ref.wi x i
  | _ => (read32 c.blk c.warp c.ref.wi x i).setWidth 64

/-- One lane of B under its source-lane modifier; a lane outside the warp reads 0 (R301). -/
def modLane (c : Ctx) (x : Opnds) (w i : Nat) : DWord :=
  match laneMod x.kind x.amt i with
  | some j => srcLane c x.b w j
  | none => 0

/-- The value and flags of one lane. -/
def laneValue (op : LaneOp) (x : Opnds) (c : Ctx) (i : Nat) : DWord × Word :=
  op.f c.warp.csr.fpmode (srcLane c x.a op.aW i) (modLane c x op.bW i) (srcLane c x.c op.cW i)

/-- The flags of all active lanes (R279). -/
def laneFlags (op : LaneOp) (x : Opnds) (c : Ctx) : Word :=
  (lanesOf c.m).foldl (fun fl i => fl ||| (laneValue op x c i).2) 0

/-- Divisions and the like that the warp has outstanding (R328, R363). -/
def longCount (s : State) (r : PathRef) : Nat :=
  (s.pends.filter (fun p => p.bid == r.bid && p.wi == r.wi && p.kind == .long)).length

/-- The effect of a lane instruction. -/
def laneEff (op : LaneOp) (x : Opnds) (c : Ctx) (s : State) : Res :=
  if op.dPred then .done (writePred c x.d (fun i => (laneValue op x c i).1.getLsbD 0) (raiseFlags c (laneFlags op x c) s))
  else if op.long then
    if c.m = 0 then .done s
    else if 2 ≤ longCount s c.ref then .wait (.retry false)
    else .done (arriveLater c .long (dstOf x.d op.dW) c.m
      ((lanesOf c.m).map (fun i => (i, (laneValue op x c i).1.setWidth 128)))
      (raiseFlags c (laneFlags op x c) s))
  else .done (writeLanes c x.d op.dW (fun i => (laneValue op x c i).1.setWidth 128) (raiseFlags c (laneFlags op x c) s))

/-- The effect of a uniform instruction: one value, no lane, no flag, l unchanged (R375, R376). -/
def uniEff (op : LaneOp) (x : Opnds) (c : Ctx) (s : State) : Res :=
  .done (writeK c x.d op.dW ((laneValue op x c 0).1.setWidth 128) s)

/-- A lane instruction whose type the row does not allow has no effect (never reached: the check refuses it). -/
def noEff : Ctx → State → Res := fun _ s => .done s

/-! ### The issue of a lane instruction, by format -/

/-- Sub-format A, vector. -/
def laneA (i : Instr) (op : Option LaneOp) (lk : Bool) (f : FmtA) (s : State) : Host.Outcome State Fault Refusal :=
  issue i (shapeA op false false lk false f) noPre
    (match op with | some op => laneEff op (opndsA f) | none => noEff) s

/-- Sub-format A, vector, of a form that rounds: RND 0-4 (R298, R356). -/
def laneR (i : Instr) (op : Option LaneOp) (lk : Bool) (f : FmtA) (s : State) : Host.Outcome State Fault Refusal :=
  let op := if f.rnd.toNat ≤ 4 then op else none
  issue i (shapeA op false true lk false f) noPre
    (match op with | some op => laneEff op (opndsA f) | none => noEff) s

/-- A conversion: C is a number, B and LKIND are in use only where the operation reads b; `old` makes d the third
source (R366-R369). -/
def laneCvt (i : Instr) (op : Option LaneOp) (old : Bool) (f : FmtA) (s : State) : Host.Outcome State Fault Refusal :=
  let x : Opnds := { opndsA f with c := if old then opd9 f.d else .zero }
  match op with
  | none => issue i (badShape true) noPre noEff s
  | some op => issue i { opcodeBad := badA f true true (op.bW != 0) false true true (op.bW != 0),
                         fields := op.fields false x (f.strict &&& 3) } noPre (laneEff op x) s

/-- Sub-format B, vector; `movi` requires A = 0 (R337). -/
def laneB (i : Instr) (op : Option LaneOp) (f : FmtB) (s : State) : Host.Outcome State Fault Refusal :=
  match op with
  | none => issue i (badShape true) noPre noEff s
  | some op => issue i (shapeX op false (op.aW != 0 || f.a == 0) (opndsB f)) noPre (laneEff op (opndsB f)) s

/-- L32 with registers; a unary form requires B = 0 (R317). -/
def laneDab (i : Instr) (op : LaneOp) (f : F32) (s : State) : Host.Outcome State Fault Refusal :=
  issue i (shapeX op false (op.bW != 0 || f.b == 0) (opndsDab f)) noPre (laneEff op (opndsDab f)) s

/-- A form that reads its destination as the addend, L32 or sub-format B (R365). -/
def laneAcc (i : Instr) (op : LaneOp) (x : Opnds) (s : State) : Host.Outcome State Fault Refusal :=
  let x' := { x with c := x.d }
  issue i (shapeX op false true x') noPre (laneEff op x') s

/-- L32 with an immediate; `movi` requires A = 0 (R317). -/
def laneDai (i : Instr) (op : LaneOp) (f : F32) (s : State) : Host.Outcome State Fault Refusal :=
  issue i (shapeX op false (op.aW != 0 || f.a == 0) (opndsDai f)) noPre (laneEff op (opndsDai f)) s

/-- S16 (R290). -/
def lane16 (i : Instr) (float : Bool) (op : LaneOp) (f : F16) (s : State) : Host.Outcome State Fault Refusal :=
  issue i (shapeX op false true (opnds16 float f)) noPre (laneEff op (opnds16 float f)) s

/-- Uniform, sub-format A: C, RND and LKIND are zero (R375). -/
def uniA (i : Instr) (op : Option LaneOp) (f : FmtA) (s : State) : Host.Outcome State Fault Refusal :=
  issue i (shapeA op true false false false f) noPre
    (match op with | some op => uniEff op (opndsA f) | none => noEff) s

/-- Uniform, sub-format B. -/
def uniB (i : Instr) (op : Option LaneOp) (f : FmtB) (s : State) : Host.Outcome State Fault Refusal :=
  match op with
  | none => issue i (badShape false) noPre noEff s
  | some op => issue i (shapeX op true (op.aW != 0 || f.a == 0) (opndsB f)) noPre (uniEff op (opndsB f)) s

/-- Uniform, L32 with registers. -/
def uniDab (i : Instr) (op : LaneOp) (f : F32) (s : State) : Host.Outcome State Fault Refusal :=
  issue i (shapeX op true (op.bW != 0 || f.b == 0) (opndsDab f)) noPre (uniEff op (opndsDab f)) s

/-- Uniform, L32 with an immediate. -/
def uniDai (i : Instr) (op : LaneOp) (f : F32) (s : State) : Host.Outcome State Fault Refusal :=
  issue i (shapeX op true true (opndsDai f)) noPre (uniEff op (opndsDai f)) s

end Sys2Proof.Machine
end

