-- ==== Sys2Proof/Machine/Scratch.lean ====
section
/-!
DEFINITION. Read-modify-write operations (R390), and the scratchpad with its mirror windows (R114, R134-R137, R385,
R386).
-/

namespace Sys2Proof.Machine

/-! ### Read-modify-write (R390) -/

/-- The operations of R390. -/
inductive RmwOp where
  | add | fadd | minI | minN | maxI | maxN | and | or | xor | xchg | cas | incwrap
  deriving DecidableEq, Repr

/-- Numbers under which a request carries its operation. -/
def rmwOps : List RmwOp := [.add, .fadd, .minI, .minN, .maxI, .maxN, .and, .or, .xor, .xchg, .cas, .incwrap]
def RmwOp.num (o : RmwOp) : Nat := rmwOps.findIdx (· == o)
def rmwOf (n : Nat) : RmwOp := rmwOps.getD n .add

/-- A FP32 sum rounded RNE, with or without FTZ, and its flags. -/
def faddBits (ftz : Bool) (x y : Nat) : Nat × Word :=
  let r := fAdd .rne (Fmt.f32.src ftz x) (Fmt.f32.src ftz y)
  let q := roundTo .f32 .rne ftz r.1
  (q.1, r.2 ||| q.2)

/-- The new value of a word of `n` bytes and the flags of `fadd` (R390). `b` is the operand or comparand, `d` the new
value of `cas`. -/
def rmwNew (op : RmwOp) (n : Nat) (ftz : Bool) (old b d : DWord) : DWord × Word :=
  let t : VTy := { bits := 8 * n, signed := true }
  let u : VTy := { bits := 8 * n, signed := false }
  match op with
  | .add => (old + b, 0)
  | .fadd => let r := faddBits ftz (old.toNat % 2 ^ 32) (b.toNat % 2 ^ 32); (BitVec.ofNat 64 r.1, r.2)
  | .minI => (if t.val old ≤ t.val b then old else b, 0)
  | .minN => (if u.nat old ≤ u.nat b then old else b, 0)
  | .maxI => (if t.val b ≤ t.val old then old else b, 0)
  | .maxN => (if u.nat b ≤ u.nat old then old else b, 0)
  | .and => (old &&& b, 0)
  | .or => (old ||| b, 0)
  | .xor => (old ^^^ b, 0)
  | .xchg => (b, 0)
  | .cas => (if u.nat old = u.nat b then d else old, 0)
  | .incwrap => (if u.nat b ≤ u.nat old then 0 else old + 1, 0)

/-! ### The scratchpad (R114, R134, R136) -/

/-- The slice offset an owner-62 OFFSET names in a block, if it lies inside (R114, R136). -/
def sliceOff (b : Block) (off : Nat) : Option Nat :=
  if off / 2 ^ 20 ≠ 0 then none
  else
    let o := off % 2 ^ 19
    if off.testBit 19 then
      (if o < 1024 * b.lrec.mirror then some (1024 * (b.lrec.scratch - b.lrec.mirror) + o) else none)
    else (if o < 1024 * b.lrec.scratch then some o else none)

/-- The address by which the range-lock table knows a byte of the slice (R385). -/
def sliceVa (o : Nat) : Nat := 62 * 2 ^ 51 + o

/-- `n` little-endian bytes of the slice. -/
def sliceNat (b : Block) (o n : Nat) : Nat := natOfBytes (memRead b.slice o n)
def sliceSet (b : Block) (o n : Nat) (x : BitVec 128) : Block := { b with slice := memWrite b.slice o (bytesOfNat n x.toNat) }

/-- Cycles a scratchpad access takes beyond the first: the greatest number of distinct words in one bank, less 1
(R134). -/
def bankExtra (offs : List Nat) (n : Nat) : Nat :=
  let ws := (offs.flatMap (fun o => (List.range ((n + 3) / 4)).map (fun j => o / 4 + j))).eraseDups
  ((List.range 32).foldl (fun m k => max m (ws.filter (fun x => x % 32 == k)).length) 1) - 1

/-! ### Range locks (R173) -/

/-- Whether an access of the block overlaps a locked span: a read a write-locked one, a write any. -/
def lockHit (s : State) (b : Block) (va n : Nat) (write : Bool) : Bool :=
  ((s.core b.core).locks.map (·.2) ++ (s.core b.core).owed).any (fun e => e.bid == b.bid && (write || e.write) &&
    decide (va ≤ e.hi) && decide (e.lo < va + n))

/-! ### Precise checks of a memory form (R57, R378) -/

/-- What a lane's access is checked for. -/
structure LaneChk where
  lane : Nat
  va : DWord
  codes : List (BitVec 8)
  deriving DecidableEq, Repr

/-- The lowest code that any lane raises, with the lanes that raised it and the address of the lowest (R57). -/
def pickFault (c : Ctx) (xs : List LaneChk) : Option Flt :=
  let all := xs.flatMap (·.codes)
  match all with
  | [] => none
  | k :: t =>
    let code := t.foldl (fun a b => if b < a then b else a) k
    let hit := xs.filter (fun x => x.codes.contains code)
    some { code := code, lanes := maskOf (hit.map (·.lane)), addr := (hit.head?.map (·.va)).getD 0, pc := c.fpc }

/-- What the control aperture asks of an access of `n` bytes: 4 aligned bytes, and outside the notify area privileged
mode (R96). -/
def apertureCodes (va : DWord) (n : Nat) (priv : Bool) : List (BitVec 8) :=
  match apertureOff va with
  | none => []
  | some o => (if n = 4 ∧ o % 4 = 0 then [] else [codeMisalign]) ++
      (if priv || decide (0x5000000 ≤ o ∧ o < 0x5400000) then [] else [codePriv])

/-- The checks of one lane's access of `n` bytes: MISALIGN, OWNER_BAD, SCRATCH_BOUNDS, RANGE_LOCK (R378), and those of
the control aperture (R96). -/
def laneCodes (s : State) (b : Block) (va : DWord) (n : Nat) (write align priv : Bool) : List (BitVec 8) :=
  (if align && va.toNat % n != 0 then [codeMisalign] else []) ++ apertureCodes va n priv ++
  (if ownerBad va then [codeOwnerBad] else []) ++
  (if ownerOf va = 62 then
    (match sliceOff b (offsetOf va) with
      | none => [codeScratch]
      | some o => if lockHit s b (sliceVa o) n write then [codeRangeLock] else [])
   else if lockHit s b (vaddr va) n write then [codeRangeLock] else [])

end Sys2Proof.Machine
end

