-- ==== Sys2Proof/Machine/Requests.lean ====
section
/-!
DEFINITION. The core's side of a memory access (R115 steps 1-3, R139-R141, R160, R380): what an instruction does at
issue with the L1, the write buffer and the scratchpad, and the requests it sends.
-/

namespace Sys2Proof.Machine

/-! ### Order and scope (R160, R161) -/

/-- The order an access carries, its scope, and whether it is strong. -/
structure MemOrd where
  order : Order
  scope : Scope
  strong : Bool
  deriving DecidableEq, Repr

def orderOf (x : BitVec 3) : Order :=
  match x.toNat with | 0 => .plain | 1 => .rlx | 2 => .acq | 3 => .rel | _ => .ar
def scopeOf (x : BitVec 2) : Scope := match x.toNat with | 0 => .block | 1 => .domain | 2 => .wafer | _ => .system

/-- A strong access that names no order is relaxed at system scope. -/
def MemOrd.default (strong : Bool) : MemOrd :=
  if strong then { order := .rlx, scope := .system, strong := true } else { order := .plain, scope := .block, strong := false }

/-- The order of a sub-format C access; `strong` says that even ORDER 0 is strong. -/
def ordC (f : FmtC) (strong : Bool) : MemOrd :=
  if f.order = 0 then .default strong else { order := orderOf f.order, scope := scopeOf f.scope, strong := true }

/-- The order of an L32 access: from the `ordp` before it, if there is one. -/
def ordL (c : Ctx) (strong : Bool) : MemOrd :=
  match c.ord with
  | some o => { order := o.order, scope := o.scope, strong := true }
  | none => .default strong

/-- A scratchpad access: strong at block scope (R160). -/
def MemOrd.bank : MemOrd := { order := .rlx, scope := .block, strong := true }
/-- The order of `lds.b32` or `sts.b32`: what an `ordp` before it names, at block scope (R161, R385). -/
def ordS (c : Ctx) : MemOrd :=
  match c.ord with
  | some o => { order := o.order, scope := .block, strong := true }
  | none => .bank

/-- The order an access takes at its address: a scratchpad access acts at block scope (R135, R161); a weak access to owner 56, to
owner 61 or to the control aperture is strong and relaxed at system scope (R160, R161). -/
def MemOrd.at (o : MemOrd) (va : DWord) : MemOrd :=
  if ownerOf va = 62 then { order := if o.order = .plain then .rlx else o.order, scope := .block, strong := true }
  else if 56 ≤ ownerOf va ∧ o.strong = false then .default true
  else o

/-- Whether an acquire, or a release, of domain scope or wider. -/
def MemOrd.acqWide (o : MemOrd) : Bool := (o.order == .acq || o.order == .ar) && o.scope != .block
def MemOrd.relWide (o : MemOrd) : Bool := (o.order == .rel || o.order == .ar) && o.scope != .block
def Req.acqWide (r : Req) : Bool := (r.order == .acq || r.order == .ar) && r.scope != .block
def Req.relWide (r : Req) : Bool := (r.order == .rel || r.order == .ar) && r.scope != .block
/-- A release of block scope. -/
def Req.relBlock (r : Req) : Bool := (r.order == .rel || r.order == .ar) && r.scope == .block

/-! ### Requests and what they wait for -/

/-- Whether a request has not been performed. -/
def Stage.isOpen : Stage → Bool
  | .answered | .acked | .faulted _ _ => false
  | _ => true

/-- Whether a request reads its location. -/
def ReqKind.reads : ReqKind → Bool
  | .store | .refStore | .fieldStore => false
  | _ => true
/-- Whether a request writes its location. -/
def ReqKind.writes : ReqKind → Bool
  | .store | .rmw _ | .red _ | .refStore | .refCas | .fieldStore | .heal | .pin _ => true
  | _ => false

/-- The threads of a request: a drained line carries the pieces of several. -/
def Req.threads (r : Req) : List (Nat × Nat × Nat × Nat) :=
  if r.pieces = [] then [(r.bid, r.wi, r.lane, r.id)] else r.pieces.map (fun p => (p.bid, p.wi, p.lane, p.tag))

/-- Whether an earlier request of the core holds a later access back: to the same line (R116, R167), a strong read
before a strong access or a write, an acquire before anything, anything of the block before a release (R167, R169: what the
block's threads have done may happen before it through a barrier). `th` is the later access's thread with its number in
issue order. -/
def holdsBack (q : Req) (vline : Nat) (strongOrWrite release : Bool) (th : Nat × Nat × Nat × Nat) : Bool :=
  decide (q.id < th.2.2.2) &&
  (vlineOf q.va == vline || (release && q.threads.any (fun t => t.1 == th.1)) ||
   (q.threads.any (fun t => t.1 == th.1 && t.2.1 == th.2.1 && t.2.2.1 == th.2.2.1) &&
    (q.acqWide || (q.strong && q.kind.reads && strongOrWrite))))

/-- Whether a thread's block has a store in the write buffer, or one unacknowledged, issued before number `id`, other than
those of instruction `own` itself. -/
def unackedBefore (s : State) (own : Nat) (th : Nat × Nat × Nat × Nat) : Bool :=
  s.pends.any (fun p => p.bid == th.1 && p.tag != own && decide (p.tag < th.2.2.2) && (p.kind == .store) && p.need != 0)

/-- A logged strong read, not of instruction `own`, that holds back a thread's later strong accesses and writes (R65,
R169): strong by its order or by its address. -/
def loggedBefore (s : State) (own : Nat) (th : Nat × Nat × Nat × Nat) : Bool :=
  match s.warp? th.1 th.2.1 with
  | none => false
  | some w => w.log.any (fun e => e.state != .free && e.tag != own && decide (e.tag < th.2.2.2) && e.lanes.getLsbD th.2.2.1 &&
      (match s.pend? e.tag with
        | some p => p.kind != .store && (p.order != .plain || decide (56 ≤ ownerOf (e.addr.get 0 th.2.2.1)))
        | none => false))

/-- Whether an instruction in flight is a `waitv`. -/
def Pend.polls (p : Pend) : Bool := match p.kind with | .waitv _ _ => true | _ => false

/-- A logged access of a block, issued before number `id` by another instruction than `own`, that a release waits for
(R169); a `waitv` of another warp has not been satisfied and precedes nothing. -/
def loggedInBlock (s : State) (own bid id : Nat) : Bool :=
  match s.block? bid with
  | none => false
  | some b => b.warps.any (fun w => w.log.any (fun e => e.state != .free && e.tag != own && decide (e.tag < id) &&
      (match s.pend? e.tag with | some p => !p.polls | none => false)))

/-- Whether a warp has a read, issued before number `id` by another instruction than `own`, that has not been performed or is logged. A
release of block scope waits for it: a write that the release happens before must not be seen by it (R166, R167). -/
def readsOpen (s : State) (own bid wi id : Nat) : Bool :=
  s.reqs.any (fun q => decide (q.id < id) && q.tag != own && q.stage.isOpen && q.kind.reads && q.kind != .prefetch && q.kind != .fetch &&
    q.threads.any (fun t => t.1 == bid && t.2.1 == wi)) ||
  (match s.warp? bid wi with
    | some w => w.log.any (fun e => e.state != .free && e.tag != own && decide (e.tag < id) &&
        (match s.pend? e.tag with | some p => !p.polls | none => false))
    | none => false)

/-- Whether a warp's access to the control aperture, issued before number `id`, has not been performed: one requester's are performed in
its program order (R96). -/
def apertureOpen (s : State) (bid wi id : Nat) : Bool :=
  s.reqs.any (fun q => decide (q.id < id) && q.stage.isOpen && q.kind != .prefetch && q.kind != .fetch &&
    (apertureOff q.va).isSome && q.bid == bid && q.wi == wi)

/-- Whether a request may be translated now (R96, R116, R169). -/
def mayProceed (s : State) (r : Req) : Bool :=
  let sw := r.strong || r.kind.writes
  r.threads.all (fun th =>
    !(s.reqs.any (fun q => q.core == r.core && q.id != r.id && q.stage.isOpen && q.kind != .prefetch &&
        holdsBack q (vlineOf r.va) sw r.relWide th)) &&
    !(r.relWide && (unackedBefore s r.tag th || loggedInBlock s r.tag th.1 th.2.2.2)) && !(sw && loggedBefore s r.tag th) &&
    !(r.relBlock && readsOpen s r.tag th.1 th.2.1 th.2.2.2)) &&
  !((apertureOff r.va).isSome && apertureOpen s r.bid r.wi r.id)

/-! ### The write buffer (R140) -/

def bankOf (vline : Nat) : Nat := vline % 8
def Core.bank (c : Core) (b : Nat) : List WbEnt := c.wb.get [] b
/-- Whether the buffer holds an entry for a line. -/
def Core.wbHas (c : Core) (vline : Nat) : Bool := (c.bank (bankOf vline)).any (fun e => e.line == vline)
/-- Whether a store to a line merges into an entry: it is the line's, and its drain has not begun. -/
def WbEnt.takes (e : WbEnt) (vline : Nat) : Bool := e.line == vline && e.draining == []
/-- Whether a store to a line may enter: a free entry or one to merge with. -/
def Core.wbRoom (c : Core) (vline : Nat) : Bool :=
  let b := c.bank (bankOf vline)
  decide (b.length < 8) || b.any (fun e => e.takes vline)

/-- A piece entered: merged into the line's entry, or a new one. -/
def Core.wbPut (c : Core) (vline : Nat) (p : Piece) : Core :=
  let b := c.bank (bankOf vline)
  let b' := if b.any (fun e => e.takes vline) then
      b.map (fun e => if e.takes vline then { e with pieces := e.pieces ++ [p] } else e)
    else b ++ [{ line := vline, pieces := [p], draining := [] }]
  { c with wb := c.wb.set (bankOf vline) b' }

/-- A line image with the buffered pieces of the line laid over it, later ones on top. -/
def Core.overlay (c : Core) (vline : Nat) (keep : Piece → Bool) (bs : List Byte) : List Byte :=
  (((c.bank (bankOf vline)).filter (fun e => e.line == vline)).flatMap (·.pieces)).foldl
    (fun bs p => if keep p then lineWrite bs p.off p.bytes else bs) bs

/-- Which bytes of a line the buffer covers. -/
def Core.covered (c : Core) (vline off n : Nat) : Bool :=
  (List.range n).all (fun j => (((c.bank (bankOf vline)).filter (fun e => e.line == vline)).flatMap (·.pieces)).any
    (fun p => decide (p.off ≤ off + j) && decide (off + j < p.off + p.bytes.length)))

/-! ### The L1 (R139, R141) -/

/-- The L1 line that serves an ordinary load: same virtual line, the requester's world, and the permissions the fill delivered
(R115). -/
def Core.l1Hit (c : Core) (vline : Nat) (secure priv : Bool) : Option CLine :=
  c.l1.find? (fun l => l.vline == vline && l.attr.world == secure && l.attr.perms.testBit 0 && (priv || l.attr.user))

/-- A line filled: of 16 ways of a set the oldest gives way (R139). -/
def Core.l1Fill (c : Core) (l : CLine) : Core :=
  let rest := c.l1.filter (fun x => x.vline != l.vline)
  let inSet := rest.filter (fun x => x.vline % 512 == l.vline % 512)
  let rest' := if 16 ≤ inSet.length then
      (match inSet with | e :: _ => rest.filter (fun x => x.vline != e.vline) | [] => rest) else rest
  { c with l1 := rest' ++ [l] }

/-- A write to a line issued by a core: a weak one updates the L1 line, a strong one removes it; lines on their way are
not filled. -/
def State.l1Write (s : State) (ck vline : Nat) (off : Nat) (bs : List Byte) (strong : Bool) : State :=
  let write (l : CLine) : CLine := if l.vline = vline then { l with bytes := lineWrite l.bytes off bs } else l
  let lines (x : List CLine) : List CLine := if strong then x.filter (fun l => l.vline != vline) else x.map write
  let s1 := s.updCore ck (fun c => { c with l1 := lines c.l1 })
  s1.noFill ck (fun r => vlineOf r.va == vline)

/-! ### Requests of an instruction -/

/-- The fields every request of an instruction shares. -/
def newReq (c : Ctx) (tag : Nat) (kind : ReqKind) (o : MemOrd) (hint lane : Nat) (va : DWord) (size : Nat) : Req :=
  let m := o.at va
  { id := 0, core := c.blk.core, bid := c.ref.bid, wi := c.ref.wi, tag := tag, lane := lane, kind := kind, va := va,
    size := size, data := 0, cmp := 0, strong := m.strong, order := m.order,
    scope := m.scope, hint := hint, secure := c.warp.secure, priv := c.warp.priv, stage := .toOwner, pa := 0,
    attr := .zero, value := 0, pieces := [], line := [], fill := true,
    seq := 0, obj := 0, replay := none, arrived := none, half := none }

/-- A request that is already answered: the value is on its way to the register. -/
def answerNow (s : State) (r : Req) (v : BitVec 128) : State :=
  s.addReq { r with stage := .answered, value := v, seq := s.nextId, fill := false }

/-- Whether an earlier access has been performed but its L1 effect is still on the way to the core: an acquire's invalidation
(R141, R168), or what an access of the same thread to the same line leaves of the L1 line (R167). -/
def effectDue (q : Req) (vline : Nat) (th : Nat × Nat × Nat × Nat) : Bool :=
  q.stage.hasRead && decide (q.id < th.2.2.2) && q.threads.any (fun t => t.1 == th.1 && t.2.1 == th.2.1 && t.2.2.1 == th.2.2.1) &&
  (q.acqWide || vlineOf q.va == vline)

/-- Whether a thread's ordinary load may be served by its own core: nothing of the thread that must come first is
open, or has still to reach the L1 (R141, R167, R169). -/
def localOk (s : State) (r : Req) : Bool :=
  let th := (r.bid, r.wi, r.lane, s.nextId)
  !(s.reqs.any (fun q => q.core == r.core && q.kind != .prefetch &&
      ((q.stage.isOpen && holdsBack q (vlineOf r.va) false false th) || effectDue q (vlineOf r.va) th)))

/-- The value of an ordinary load that its core serves, from an L1 line or from the write buffer (R139, R140). -/
def localValue (s : State) (r : Req) : Option (BitVec 128) :=
  let c := s.core r.core
  let vl := vlineOf r.va
  let off := r.va.toNat % 128
  let see (bs : List Byte) : BitVec 128 := BitVec.ofNat 128 (natOfBytes (lineSlice (c.overlay vl (fun _ => true) bs) off r.size))
  if r.strong || !localOk s r then none
  else match c.l1Hit vl r.secure r.priv with
    | some l => some (see l.bytes)
    | none => if c.covered vl off r.size then some (see (List.replicate 128 0)) else none

/-- An L1 hit or miss, counted once per line and instruction (R267). -/
def countLine (s : State) (r : Req) (ev : Nat) : State :=
  if s.reqs.any (fun q => q.tag == r.tag && q.bid == r.bid && vlineOf q.va == vlineOf r.va) then s
  else perfAdd s r.core ev 1 r.priv r.secure

/-- One lane of a load leaves the core (R115, R139, R140, R380). -/
def sendLoad (s : State) (r : Req) : State :=
  match s.block? r.bid with
  | none => s
  | some b =>
    if ownerOf r.va = 62 then
      (match sliceOff b (offsetOf r.va) with
        | some o => answerNow s r (BitVec.ofNat 128 (sliceNat b o r.size))
        | none => s)
    else match localValue s r with
      | some x => answerNow (if ((s.core r.core).l1Hit (vlineOf r.va) r.secure r.priv).isSome then countLine s r 4 else s) r x
      | none => (if r.strong then s else countLine s r 5).addReq r

/-- Whether a migration has sent a request on and has not ended: its acknowledgement or answer waits for the release (R129, R130). -/
def forwardedOn (s : State) (id : Nat) : Bool := s.domains.any (fun e => e.2.migs.any (fun m => m.phase == 3 && m.fwd.contains id))

/-! ### Slots (R228) -/

/-- Whether a request holds one of its core's 32 data slots (R228): it has left the core, and its answer has not arrived. What the
core answered itself holds none. -/
def Req.holdsSlot (r : Req) : Bool :=
  r.kind != .fetch && (match r.stage with | .toOwner => false | .answered => r.attr.size != 0 | _ => true)
def slotsHeld (s : State) (ck : Nat) : Nat := (s.reqs.filter (fun r => r.core == ck && r.holdsSlot)).length

/-- Whether every data slot of a core is held, or will be by the requests issued already: a new remote data request stalls its
warp (R34, R228, log 49). -/
def slotsTaken (s : State) (ck : Nat) : Bool :=
  decide (32 ≤ slotsHeld s ck + (s.reqs.filter (fun r => r.core == ck && r.kind != .fetch && r.kind != .prefetch && r.stage == .toOwner)).length)

/-- One lane's weak store as the write buffer takes it (R140). -/
def pieceOf (c : Ctx) (tag lane hint : Nat) (va : DWord) (bs : List Byte) : Piece :=
  { tag := tag, bid := c.ref.bid, wi := c.ref.wi, lane := lane, va := va, off := va.toNat % 128, bytes := bs,
    hint := hint, secure := c.warp.secure, priv := c.warp.priv }

/-- A store enters the write buffer, and the L1 line if there is one (R140). -/
def bufferStore (ck : Nat) (p : Piece) (s : State) : State :=
  (s.l1Write ck (vlineOf p.va) p.off p.bytes false).updCore ck (fun k => k.wbPut (vlineOf p.va) p)

/-- Stores enter the write buffer in order while there is room; what is left, and the state (R140). -/
def feedBuffer (ck : Nat) : List Piece → State → List Piece × State
  | [], s => ([], s)
  | p :: t, s => if (s.core ck).wbRoom (vlineOf p.va) then feedBuffer ck t (bufferStore ck p s) else (p :: t, s)

/-- The path of a store whose last lanes have been taken goes on. -/
def Warp.fed (w : Warp) (tag : Nat) : Warp :=
  { w with slots := w.slots.map (fun sl => if sl.wait = .feed tag then { sl with wait := .ready } else sl) }

/-- A store's remaining lanes enter the write buffer as entries free, and its path goes on when none is left (R140). -/
def feedPend (ck : Nat) (s : State) (p : Pend) : State :=
  let x := feedBuffer ck p.feed s
  let s1 := x.2.updPend p.tag (fun q => { q with feed := x.1 })
  if x.1 = [] then s1.updWarp p.bid p.wi (fun w => w.fed p.tag) else s1

/-- The stores of a core's warps that stand at the write buffer, the oldest first. -/
def feedCore (s : State) (ck : Nat) : State :=
  (s.pends.filter (fun p => p.feed != [] && (match s.block? p.bid with | some b => b.core == ck | none => false))).foldl (feedPend ck) s

/-- A held memory-effect entry whose page a later load or atomic names makes it wait (R65). A page is as large as its
translation makes it, and 64 KiB where there is none (R117, log 15). -/
def logPageWait (w : Warp) (va : DWord) : Bool :=
  w.log.any (fun e => e.state != .free && e.memfx &&
    e.pages.any (fun p => decide (p.1 ≤ vaddr va) && decide (vaddr va < p.1 + p.2)))

end Sys2Proof.Machine
end

