-- ==== Sys2Proof/Machine/Fetch.lean ====
section
/-!
DEFINITION. The instruction cache and instruction fetch (R58, R153, R287), and the drain of the write buffer (R140).
-/

namespace Sys2Proof.Machine

/-! ### The instruction cache (R153) -/

/-- The line that serves a fetch: the requester's world, and the permissions the fill delivered (R115). -/
def Core.iHit (c : Core) (vline : Nat) (secure priv : Bool) : Option CLine :=
  c.icache.find? (fun l => l.vline == vline && l.attr.world == secure && l.attr.perms.testBit 2 && (priv || l.attr.user))

/-- A line filled: of 8 ways of a set the oldest line that is not locked gives way. -/
def Core.iFill (c : Core) (l : CLine) : Core :=
  let rest := c.icache.filter (fun x => x.vline != l.vline || (x.locks != [] && x.attr.world != l.attr.world))
  let inSet := rest.filter (fun x => x.vline % 64 == l.vline % 64)
  let kept := if 8 ≤ inSet.length then
      (match inSet.find? (fun x => x.locks == []) with
        | some e => rest.filter (fun x => x.vline != e.vline)
        | none => rest) else rest
  { c with icache := kept ++ [l] }

/-- The code byte at an address, if its line is held. -/
def Core.codeByte (c : Core) (secure priv : Bool) (a : DWord) : Option Byte :=
  (c.iHit (vlineOf a) secure priv).bind (fun l => l.bytes[a.toNat % 128]?)

/-- `n` code bytes, or the address of the first that is missing. -/
def Core.codeBytes (c : Core) (secure priv : Bool) (a : DWord) : Nat → Except DWord (List Byte)
  | 0 => .ok []
  | n + 1 =>
    match c.codeByte secure priv a with
    | none => .error a
    | some b => match c.codeBytes secure priv (a + 1) n with
      | .ok bs => .ok (b :: bs)
      | .error e => .error e

/-- The bytes of the instruction at an address, as long as its first byte says (R287). -/
def Core.insBytes (c : Core) (secure priv : Bool) (pc : DWord) : Except DWord (List Byte) :=
  match c.codeByte secure priv pc with
  | none => .error pc
  | some b => c.codeBytes secure priv pc (lengthOf b)

/-- Whether bytes are those of an `ordp`. -/
def isOrdp : List Byte → Bool
  | b0 :: b1 :: _ => ((b1 ++ b0 : BitVec 16).extractLsb' 0 11) == (0x1F1#9 ++ 0b01#2)
  | _ => false

/-- The bytes of a path's next instruction; an `ordp` is complete only with the instruction it governs (R305). -/
def pathBytes (s : State) (b : Block) (w : Warp) (pc : DWord) : Except DWord (List Byte) :=
  let get (a : DWord) : Except DWord (List Byte) := (s.core b.core).insBytes w.secure w.priv a
  match get pc with
  | .error a => .error a
  | .ok bs => if isOrdp bs then (match get (pc + 4) with | .error a => .error a | .ok _ => .ok bs) else .ok bs

/-! ### Fetch (R58) -/

/-- The code a fetch address raises before any translation (R58). -/
def fetchCode (va : DWord) : Option (BitVec 8) :=
  if ownerBad va ∨ ownerOf va = 62 then some codeOwnerBad
  else if (apertureOff va).isSome then some codePerm else none

/-- A line read coherently for a core: its image and what the translation says of it. -/
inductive LineAns where
  | line (l : CLine)
  | fault (code : BitVec 8)
  | busy
  deriving DecidableEq, Repr

/-- The line of code at an address, fetched for a core (R58, R124, R125); its owner may hold the request (R128, R152), and its home
counts it (R132). -/
def fetchLine (s : State) (ck : Nat) (va : DWord) (secure priv : Bool) : LineAns × State :=
  match fetchCode va with
  | some e => (.fault e, s)
  | none =>
    let base := va - BitVec.ofNat 64 (va.toNat % 128)
    if ownerHolds s (waferOf (dkOfCk ck)) base then (.busy, s)
    else match translate s (waferOf (dkOfCk ck)) base .fetch priv secure with
    | (.error e, s1) => (.fault e, s1)
    | (.ok x, s1) =>
      if x.host then (.line { vline := vlineOf va, bytes := memRead s1.mem x.addr 128, attr := x.attr, locks := [] }, s1)
      else if x.attr.cls = 1 then (.fault codeHeapClass, s1)
      else if frameSecure s1 x.addr ≠ secure then (.fault codeWorld, s1)
      else if winNeeds s1 x.addr 128 false ≠ [] then
        (.busy, addSnoops s1 (x.addr / 2 ^ 52 % 16) (winNeeds s1 x.addr 128 false) false)
      else if s1.poisoned x.addr 128 then (.fault codeEcc, s1)
      else
        let (bs, s2) := (countHot s1 x.addr ck).unitRead x.addr 128
        (.line { vline := vlineOf va, bytes := bs, attr := x.attr, locks := [] }, s2)

/-- A line brought into a core's instruction cache when it is not there; the second part says that it must be tried again. A fault is
passed over. -/
def bringLine (s : State) (ck : Nat) (va : DWord) (secure priv : Bool) : State × Bool :=
  if ((s.core ck).iHit (vlineOf va) secure priv).isSome then (s, false)
  else match fetchLine s ck va secure priv with
    | (.line l, s1) => (s1.updCore ck (fun c => c.iFill l), false)
    | (.busy, s1) => (s1, true)
    | (.fault _, s1) => (s1, false)

/-- The leader of a block: its warp with the greatest progress (R218). -/
def Block.leads (b : Block) (w : Warp) : Bool := b.warps.all (fun x => x.done || decide (x.progress ≤ w.progress))

/-- The leader's fetch requests up to 4 lines beyond its PC; how many, the spec leaves open (R218, log 64). -/
def fetchAhead (s : State) (b : Block) (w : Warp) (va : DWord) : State :=
  if b.leads w then
    let (n, s1) := s.choose 5
    (List.range n).foldl (fun s i => (bringLine s b.core (va + BitVec.ofNat 64 (128 * (i + 1))) w.secure w.priv).1) s1
  else s

/-- Lines that Arbor pushes for a block (R219): those that are there, or whose fetch faults, are done with; one whose fetch is held
back is tried again. -/
def pushStep (s : State) (b : Block) : State :=
  let x := b.push.foldl (fun (a : State × List DWord) va =>
    let y := bringLine a.1 b.core (va &&& ~~~127#64) b.world b.lrec.privileged
    (y.1, if y.2 then a.2 ++ [va] else a.2)) (s, [])
  x.1.updBlock b.bid (fun b => { b with push := x.2 })

/-- Whether a path needs a fetch now; the pushed lines of its block come first (R219). -/
def fetchDue (s : State) (r : PathRef) : Bool :=
  match s.block? r.bid, s.warp? r.bid r.wi with
  | some b, some w => if b.push ≠ [] then r.wi == 0 && r.slot == 0 else match w.slots[r.slot]? with
    | some sl => pathFree s b w r.slot && sl.ordPfx.isNone &&
        (sl.fetchFault.isSome || (match pathBytes s b w sl.path.pc with | .ok _ => false | .error _ => true))
    | none => false
  | _, _ => false

/-- A fetch (R58): the missing line is filled; a translation fault makes the path wait at the pager, every other fault is
precise for the path. -/
def fetchEff (s : State) (r : PathRef) : State :=
  match s.block? r.bid, s.warp? r.bid r.wi, s.slot? r with
  | some b, some w, some sl =>
    if fetchDue s r = false then s
    else if b.push ≠ [] then pushStep s b
    else match sl.fetchFault, pathBytes s b w sl.path.pc with
      | some e, _ => takeFault s r { code := e, lanes := sl.path.mask, addr := sl.path.pc, pc := sl.path.pc }
      | none, .ok _ => s
      | none, .error va => match fetchLine s b.core va w.secure w.priv with
        | (.busy, s1) => s1
        | (.line l, s1) => fetchAhead (s1.updCore b.core (fun c => c.iFill l)) b w va
        | (.fault e, s1) =>
          if (e = codeNoPage ∨ e = codePerm) ∧ fetchCode va = none then
            let (t, s2) := sendRecord s1 (faultDk (waferOf (dkOfCk b.core)) va) (warpRecord b w va e 3 0xFF sl.path.mask) (.fetch r.bid r.wi r.slot e)
            s2.updSlot r (fun sl => { sl with wait := .fetch t })
          else takeFault s1 r { code := e, lanes := sl.path.mask, addr := va, pc := sl.path.pc }
  | _, _, _ => s

/-! ### The write buffer's drain (R140) -/

/-- The entry a bank drains next: its oldest, one at a time. -/
def drainNext (c : Core) (bank : Nat) : Option WbEnt :=
  match c.bank bank with
  | e :: t => if e.draining == [] && t.all (fun x => x.draining == []) then some e else none
  | [] => none

/-- The request that drains stores of one line, world and mode. -/
def drainReq (ck : Nat) (p : Piece) (ps : List Piece) : Req :=
  { id := 0, core := ck, bid := p.bid, wi := p.wi, tag := 0, lane := 0, kind := .store,
    va := p.va - BitVec.ofNat 64 p.off, size := 128, data := 0, cmp := 0, strong := false, order := .plain, scope := .block,
    hint := p.hint, secure := p.secure, priv := p.priv, stage := .toOwner, pa := 0, attr := .zero, value := 0, pieces := ps,
    line := [], fill := false, seq := 0, obj := 0, replay := none, arrived := none, half := none }

/-- An entry's stores by the world and the mode they are translated in, in order. -/
def WbEnt.groups (e : WbEnt) : List (Piece × List Piece) :=
  [(false, false), (false, true), (true, false), (true, true)].filterMap (fun k =>
    match e.pieces.filter (fun p => p.secure == k.1 && p.priv == k.2) with
    | [] => none
    | p :: t => some (p, p :: t))

/-- The oldest entry of a bank sets out for the visitor partition or the home. -/
def drainBank (s : State) (ck bank : Nat) : State :=
  match drainNext (s.core ck) bank with
  | none => s
  | some e =>
    let ids := (List.range e.groups.length).map (· + s.nextId)
    let s1 := e.groups.foldl (fun s g => s.addReq (drainReq ck g.1 g.2)) s
    s1.updCore ck (fun c => { c with wb := c.wb.set bank ((c.bank bank).map (fun x => if x = e then { x with draining := ids } else x)) })

/-- One drain of an entry is done; the entry leaves the buffer with its last one. -/
def WbEnt.drained (e : WbEnt) (id : Nat) : List WbEnt :=
  if e.draining.contains id then
    (let rest := e.draining.filter (· != id)
     if rest = [] then [] else [{ e with draining := rest }])
  else [e]

/-- The buffer without what a drain carried; stores that stood for want of room enter (R140). -/
def dropDrained (s : State) (ck id : Nat) : State :=
  feedCore (s.updCore ck (fun c => { c with wb := c.wb.map (fun b => (b.1, b.2.flatMap (fun e => e.drained id))) })) ck

end Sys2Proof.Machine
end

