-- ==== Sys2Proof/Machine/Admit.lean ====
section
/-!
DEFINITION. Launch records (R193, R195), admission of blocks to cores (R20-R28, R31, R497), and the start of a block (R27-R29,
R73-R81, R91, R219).
-/

namespace Sys2Proof.Machine

/-! ### The launch record (R193) -/

/-- A little-endian field of a record. -/
def fld (bs : List Byte) (off n : Nat) : Nat := natOfBytes ((bs.drop off).take n)

/-- The record in 128 bytes. -/
def parseLaunch (bs : List Byte) : LaunchRec :=
  let fl := fld bs 0x1A 2
  { entry := BitVec.ofNat 64 (fld bs 0 8), gridx := fld bs 0x08 4, gridy := fld bs 0x0C 2, gridz := fld bs 0x0E 2,
    warps := fld bs 0x10 1, regs := fld bs 0x11 1, scratch := fld bs 0x12 2, tiles := fld bs 0x14 1,
    barriers := fld bs 0x15 1, gang := fld bs 0x16 1, mirror := fld bs 0x17 1, spill := fld bs 0x18 2,
    pair := fl.testBit 0, kill := fl.testBit 1, push := fl.testBit 2, privileged := fl.testBit 3, world := fl.testBit 4,
    prio := fld bs 0x1C 1 % 64, scope := fld bs 0x1D 1 % 4, target := fld bs 0x1E 2, hintMode := fld bs 0x20 1,
    hintCount := fld bs 0x22 2, hintTab := BitVec.ofNat 64 (fld bs 0x28 8),
    hints := (List.range 4).map (fun i => BitVec.ofNat 64 (fld bs (0x30 + 8 * i) 8)),
    params := BitVec.ofNat 64 (fld bs 0x50 8), compAddr := BitVec.ofNat 64 (fld bs 0x58 8),
    compVal := BitVec.ofNat 64 (fld bs 0x60 8), faultRec := BitVec.ofNat 64 (fld bs 0x68 8),
    handler := BitVec.ofNat 64 (fld bs 0x70 8), spillBase := BitVec.ofNat 64 (fld bs 0x78 8) }

/-- Reserved fields zero and every field within the limits of R193 (R195). -/
def launchOk (bs : List Byte) (r : LaunchRec) : Bool :=
  r.entry.toNat % 2 == 0 && r.gridx != 0 && r.gridy != 0 && r.gridz != 0 && decide (1 ≤ r.warps) && decide (r.warps ≤ 32) &&
  (r.regs == 255 || (decide (8 ≤ r.regs) && decide (r.regs ≤ 248) && r.regs % 8 == 0)) && decide (r.scratch ≤ 512) &&
  decide (r.tiles ≤ 8) && decide (r.barriers ≤ 16) && decide (1 ≤ r.gang) && decide (r.gang ≤ 8) && decide (r.mirror ≤ 64) &&
  decide (r.mirror ≤ r.scratch) && fld bs 0x1A 2 / 32 == 0 && fld bs 0x1C 1 / 64 == 0 && fld bs 0x1D 1 / 4 == 0 && r.scope != 3 &&
  bitsOf r.target 14 10 == 0 && decide (r.hintMode ≤ 3) && fld bs 0x21 1 == 0 && fld bs 0x24 4 == 0 &&
  (match r.hintMode with
    | 1 => decide (1 ≤ r.hintCount) && decide (r.hintCount ≤ 4)
    | 2 => decide (1 ≤ r.hintCount)
    | _ => r.hintCount == 0) &&
  (if r.hintMode = 2 ∨ r.hintMode = 3 then r.hintTab.toNat % 8 == 0 else r.hintTab == 0) &&
  (r.hints.drop (if r.hintMode = 1 then r.hintCount else 0)).all (fun h => h == 0) &&
  decide (r.compVal.toNat < 2 ^ 56) && r.faultRec.toNat % 128 == 0 && r.compAddr != 0 && r.compAddr.toNat % 32 == 0

/-- The units of a grid, and its blocks (R21, R206). -/
def LaunchRec.units (r : LaunchRec) : Nat := r.gridx * r.gridy * r.gridz
def LaunchRec.blocks (r : LaunchRec) : Nat := r.units * r.gang
/-- Cores a unit needs of a domain's free-core count. -/
def LaunchRec.cores (r : LaunchRec) : Nat := if r.pair then 2 * r.gang else r.gang

/-! ### Enabled cores and capacity (R2, R24-R26, R31) -/

/-- Whether a core slot of a domain is enabled. -/
def coreOn (s : State) (dk sl : Nat) : Bool := (s.domain dk).mask.getLsbD sl
/-- The enabled slots of a domain. -/
def slotsOf (s : State) (dk : Nat) : List Nat := (List.range Config.coreSlots).filter (coreOn s dk)
def coreCount (s : State) (dk : Nat) : Nat := (slotsOf s dk).length
/-- The enabled cores of a wafer (WAFERID.CORES). -/
def waferCores (s : State) (w : Nat) : Nat := ((domainsOf w).map (coreCount s)).foldl (· + ·) 0

/-- The blocks on a core. -/
def blocksOn (s : State) (ck : Nat) : List Block := s.blocks.filter (fun b => b.core == ck)
/-- Resident warps of a core, in all and on one issue slot. -/
def warpsOn (s : State) (ck : Nat) : Nat := ((blocksOn s ck).map (fun b => b.warps.length)).foldl (· + ·) 0
def warpsAt (s : State) (ck isl : Nat) : Nat :=
  ((blocksOn s ck).map (fun b => (b.warps.filter (fun w => w.issueSlot == isl)).length)).foldl (· + ·) 0

/-- The number of a domain's enabled cores that hold no block and no pair reservation (R31). -/
def freeCount (s : State) (dk : Nat) : Nat :=
  ((slotsOf s dk).filter (fun sl => blocksOn s (mkCk dk sl) == [] && (s.core (mkCk dk sl)).reservedBy.isNone)).length

/-- The assignment of `n` warps to issue slots, fewest resident warps first, from the counts given (R28). -/
def assignSlots : Nat → List Nat → List Nat
  | 0, _ => []
  | n + 1, cs =>
    let i := (List.range 4).foldl (fun b i => if cs.getD i 0 < cs.getD b 0 then i else b) 0
    i :: assignSlots n (cs.set i (cs.getD i 0 + 1))

/-- The issue slots that the warps of a new block would take. -/
def slotsFor (s : State) (ck n : Nat) : List Nat := assignSlots n ((List.range 4).map (warpsAt s ck))

/-- Warps in the sets of an issue slot. -/
def setSize (s : State) (ck isl : Nat) : Nat :=
  match (s.core ck).issue[isl]? with | some q => q.active.length + q.pending.length | none => 0

/-- Whether a core admits a block of a grid (R25); mirror windows of members that have retired before their gang count as scratchpad
held (R47). -/
def admits (s : State) (ck : Nat) (r : LaunchRec) : Bool :=
  let bs := blocksOn s ck
  let sum (f : Block → Nat) : Nat := (bs.map f).foldl (· + ·) 0
  let sl := slotsFor s ck r.warps
  coreOn s (dkOfCk ck) (slotOfCk ck) && decide (bs.length < 16) && decide (warpsOn s ck + r.warps ≤ 64) &&
  (List.range 4).all (fun i => decide (setSize s ck i + (sl.filter (· == i)).length ≤ 16)) &&
  decide (sum (fun b => b.warps.length * b.lrec.regs) + r.warps * r.regs ≤ 4096) &&
  decide (sum (fun b => b.lrec.scratch) + ((s.core ck).windows.map (·.2)).foldl (· + ·) 0 + r.scratch ≤ 512) && decide (sum (fun b => b.lrec.tiles) + r.tiles ≤ 8)

/-- Whether a core has room for a block of a grid; a paired block takes an even slot whose neighbour is enabled, unreserved and
without a matrix instruction of its own (R23, R203). -/
def hasRoom (s : State) (ck : Nat) (r : LaunchRec) : Bool :=
  admits s ck r &&
  (!r.pair || (slotOfCk ck % 2 == 0 && coreOn s (dkOfCk ck) (slotOfCk ck + 1) && (s.core ck).reservedBy.isNone &&
    (s.core (ck + 1)).reservedBy.isNone && (s.core (ck + 1)).matq == []))

/-- The greatest member of a list by a measure, the first of equals. -/
def bestBy (f : Nat → Nat) : List Nat → Option Nat
  | [] => none
  | x :: t => some (t.foldl (fun a b => if f a < f b then b else a) x)

/-- The cores on which an Arbor starts a unit (R203); a gang's members take the lowest slots of the bay with most room. -/
def placeUnit (s : State) (dk : Nat) (r : LaunchRec) : Option (List Nat) :=
  let ok := ((slotsOf s dk).map (mkCk dk)).filter (fun ck => hasRoom s ck r)
  if r.gang = 1 then (bestBy (fun ck => 64 - warpsOn s ck) ok).map (fun ck => [ck])
  else
    let inBay (b : Nat) : List Nat := ok.filter (fun ck => slotOfCk ck / 8 == b)
    match bestBy (fun b => (inBay b).length) (List.range Config.bays) with
    | some b => if r.gang ≤ (inBay b).length then some ((inBay b).take r.gang) else none
    | none => none

/-- Whether some bay of a domain has enough enabled cores for a gang of the grid (R24). -/
def bayFits (s : State) (dk : Nat) (r : LaunchRec) : Bool :=
  (List.range Config.bays).any (fun b =>
    let sl := (slotsOf s dk).filter (fun x => x / 8 == b && (!r.pair || (x % 2 == 0 && coreOn s dk (x + 1))))
    decide (r.gang ≤ sl.length))

/-! ### The start of a block -/

/-- k0 to k5 at block start (R74). -/
def launchK (r : LaunchRec) : Tab Word :=
  [(0, r.params.setWidth 32), (1, (r.params >>> 32).setWidth 32), (2, BitVec.ofNat 32 r.gridx),
   (3, BitVec.ofNat 32 (r.gridy + 65536 * r.gridz)), (4, BitVec.ofNat 32 (r.warps + 256 * r.gang)),
   (5, BitVec.ofNat 32 (r.prio + (if r.world then 256 else 0)))]

/-- STATUS at block start, REDUCED apart (R86). -/
def launchStatus (r : LaunchRec) : Word :=
  BitVec.ofNat 32 ((if r.world then 2 else 0) + (if r.privileged then 4 else 0) + (if r.pair then 8 else 0) + 256 * r.prio)

/-- The registers of R82 that a warp holds, as a launch leaves them (R86-R90). -/
def launchCsr (r : LaunchRec) : Csr :=
  { status := launchStatus r, fpmode := 0, faultcode := 0, faultlanes := 0, faultpc := 0, faultaddr := 0, faultem := 0, rowprog := 0,
    batchIssued := 0, batchDone := 0, cycleLatch := none, heapBaseLatch := none, heapLimitLatch := none }

/-- A warp as a launch leaves it (R20, R73-R81). -/
def launchWarp (r : LaunchRec) (linear member wi number isl : Nat) : Warp :=
  { slots := [{ Slot.empty with live := true, path := { pc := r.entry, rpc := none, mask := BitVec.allOnes 32 } }, Slot.empty],
    v := [], o := [], k := launchK r, h := [], p := [], l := splat 0, lc0 := 0, lc1 := 0, empty := [],
    spillBase := r.spillBase + BitVec.ofNat 64 (((linear * r.gang + member) * r.warps + wi) * r.spill * 16),
    spillDepth := r.spill, spill := [], rotation := 0, levels := [], csr := launchCsr r, log := List.replicate 4 LogEnt.empty, rowSeq := none,
    logSeq := 0, logWait := [], deferred := [], exited := 0, freshLanes := 0, done := false, number := number, issueSlot := isl, lastSlot := 0,
    trapSlot := 0, progress := 0, openOps := [], batches := [], engCmds := [] }

/-- The lowest `n` warp numbers of a core that are free (R497). -/
def freeNumbers (s : State) (ck n : Nat) : List Nat :=
  ((List.range 64).filter (fun i => !(s.core ck).warpNums.contains i)).take n

/-- A warp enters its slot's active set, or its pending set when that is full (R36). -/
def IssueSlot.enter (q : IssueSlot) (clock bid wi : Nat) : IssueSlot :=
  if q.active.length < 8 then { q with active := q.active ++ [(bid, wi, clock)] }
  else { q with pending := q.pending ++ [(bid, wi, clock)] }

/-- A block's warps that have not exited enter their issue slots. -/
def enterWarps (clock : Nat) (b : Block) (l : List IssueSlot) : List IssueSlot :=
  (b.warps.zip (List.range b.warps.length)).foldl (fun (l : List IssueSlot) (x : Warp × Nat) =>
    if x.1.done then l else l.modify x.1.issueSlot (fun q => q.enter clock b.bid x.2)) l

/-- A block is admitted to a core: its warps enter the issue slots, their numbers are taken, a paired block reserves its
neighbour's array (R23, R28, R36, R497), and its first instruction is an acquire (R29). -/
def admitBlock (s : State) (b : Block) : State :=
  let ck := b.core
  let s0 : State := { s with blocks := s.blocks ++ [b] }
  let s1 := s0.updCore ck (fun c =>
    { c with warpNums := c.warpNums ++ b.warps.map Warp.number, issue := enterWarps s.clock b c.issue })
  let s2 := if b.lrec.pair then s1.updCore (ck + 1) (fun c => { c with reservedBy := some b.bid }) else s1
  acquireL1 s2 ck

/-- Bytes of a block's parameter block, as a load of the block would read them; none where it would fault. -/
def paramBytes (s : State) (b : Block) (va : DWord) (n : Nat) : List Byte × State :=
  match translate s (waferOf (dkOfCk b.core)) va .read b.lrec.privileged b.world with
  | (.error _, s1) => ([], s1)
  | (.ok x, s1) =>
    if x.host then (memRead s1.mem x.addr n, s1)
    else if x.attr.cls = 1 ∨ frameSecure s1 x.addr ≠ b.world ∨ s1.poisoned x.addr n = true then ([], s1)
    else (countHot s1 x.addr b.core).unitRead x.addr n

/-- The code lines that a launch pushes into the instruction cache: the addresses in the first 32 bytes of the parameter block, up to
a zero; where those cannot be read there are none (R219). -/
def pushLines (s : State) (b : Block) : State :=
  if b.lrec.push = false then s
  else
    let x := (pagePieces (vaddr b.lrec.params) 32).foldl (fun (a : List Byte × State) p =>
      let y := paramBytes a.2 b (b.lrec.params + BitVec.ofNat 64 p.1) p.2
      (a.1 ++ y.1, y.2)) ([], s)
    if x.1.length < 32 then x.2
    else
      let as := ((List.range 4).map (fun i => BitVec.ofNat 64 (fld x.1 (8 * i) 8))).takeWhile (fun a => a != (0 : DWord))
      pushStep x.2 { b with push := as }

/-- A unit starts on its cores: one block, or the members of a gang (R22, R27). -/
def startUnit (s : State) (g : Grid) (linear target arrival home : Nat) (cores : List Nat) : State :=
  let gang := s.nextId
  (cores.zip (List.range cores.length)).foldl (fun s x =>
    let ck := x.1
    let r := g.lrec
    let nums := freeNumbers s ck r.warps
    let sl := slotsFor s ck r.warps
    let b : Block :=
      { bid := s.nextId, gid := g.gid, lrec := r, launchAddr := g.launchAddr, linear := linear, member := x.2, gangId := gang,
        world := r.world, core := ck, phase := .running, killed := false,
        warps := (List.range r.warps).map (fun i => launchWarp r linear x.2 i (nums.getD i 0) (sl.getD i 0)),
        slice := [], tiles := [], bars := [], gbar := 0, win := [], cancel := false, ilocks := [], ilockedBytes := 0,
        ilockShort := false, hint := none, arrival := arrival, home := home, start := s.clock, saveRec := none,
        target := target, push := [] }
    pushLines (admitBlock { s with nextId := s.nextId + 1 } b) b) { s with nextId := s.nextId + 1 }

end Sys2Proof.Machine
end

