-- ==== Sys2Proof/Machine/MemOps.lean ====
section
/-!
DEFINITION. The operations shared by the memory instructions (R377-R395): addresses, shapes, and the effects of loads,
stores, read-modify-writes, waits on a word, range instructions and fences at issue.
-/

namespace Sys2Proof.Machine

/-! ### Addresses and widths (R377, R379) -/

/-- The effective address of a lane (R377). -/
def eaOf (c : Ctx) (base : Opd) (off : DWord) (i : Nat) : DWord :=
  (if base = .zero then 0 else read64 c.blk c.warp c.ref.wi base i) + off

/-- The bytes of a WIDTH code, and the registers they take (R295). -/
def widthBytes (w : BitVec 3) : Nat := 2 ^ w.toNat
def bytesWords (n : Nat) : Nat := if n ≤ 4 then 1 else n / 4

/-- The offset of a sub-format C instruction. -/
def offC (f : FmtC) : DWord := f.off.signExtend 64
/-- The offset of an L32 memory instruction (R292). -/
def offL (f : F32) : DWord := f.b.signExtend 64

/-! ### Shapes (R295, R381, R389, R393) -/

/-- Whether a sub-format C word breaks what an instruction accepts. -/
def badC (f : FmtC) (useD useBase useData : Bool) (widths hints orders : List Nat) : Bool :=
  (!useD && f.d != 0) || (!useBase && (f.base != 0 || f.sbase)) || (!useData && (f.data != 0 || f.sdata)) ||
  !widths.contains f.width.toNat || !hints.contains f.hint.toNat || !orders.contains f.order.toNat ||
  (f.order == 0 && f.scope != 0)

def fldDst (x : Opd) (n : Nat) : Field := { opd := x, role := .vdst, words := n, dst := true }
def fldSrc (x : Opd) (n : Nat) (strict : Bool) : Field := { opd := x, role := .vsrc, words := n, strict := strict }
def fldBase (x : Opd) (strict : Bool) : Field := { opd := x, role := .abase, words := 2, strict := strict, addr := true }
def fldUbase (x : Opd) (strict : Bool) : Field := { opd := x, role := .ubase, words := 2, strict := strict, addr := true }

/-- The orders `ordp` may give (R161, R317). -/
def ordLoads : Option (Bool × Bool × Bool) := some (true, false, false)
def ordStores : Option (Bool × Bool × Bool) := some (false, true, false)
def ordRmws : Option (Bool × Bool × Bool) := some (true, true, true)

/-! ### Precise checks (R378) -/

/-- The checks of every active lane's access. -/
def memPre (va : Ctx → Nat → DWord) (n : Nat) (write : Bool) : Ctx → State → Option Flt := fun c s =>
  pickFault c ((lanesOf c.m).map (fun i =>
    { lane := i, va := va c i, codes := laneCodes s c.blk (va c i) n write true c.warp.priv }))

/-- The checks of a scratchpad form: its address is an OFFSET, zero above bit 19 (R385). -/
def sliceCodes (s : State) (b : Block) (ea : DWord) (n : Nat) (write : Bool) : List (BitVec 8) :=
  (if ea.toNat % n ≠ 0 then [codeMisalign] else []) ++
  (match (if ea.toNat / 2 ^ 20 = 0 then sliceOff b ea.toNat else none) with
    | none => [codeScratch]
    | some o => if lockHit s b (sliceVa o) n write then [codeRangeLock] else [])
def slicePre (va : Ctx → Nat → DWord) (n : Nat) (write : Bool) : Ctx → State → Option Flt := fun c s =>
  pickFault c ((lanesOf c.m).map (fun i => { lane := i, va := va c i, codes := sliceCodes s c.blk (va c i) n write }))

/-- The owner-62 address of a scratchpad offset. -/
def sliceEa (ea : DWord) : DWord := BitVec.ofNat 64 (62 * 2 ^ 51) + ea

/-! ### Waits before a memory access (R65, R140, R160) -/

/-- Whether a lane's access is strong, by its order or by its owner (R160). -/
def laneStrong (o : MemOrd) (va : DWord) : Bool := o.strong || decide (56 ≤ ownerOf va)

/-- A lane's scratchpad access waits for what must be performed before a strong access of its thread (R169): an open
or logged strong read. -/
def bankHeld (c : Ctx) (s : State) (i : Nat) : Bool :=
  let th := (c.ref.bid, c.ref.wi, i, s.nextId)
  s.reqs.any (fun q => q.core == c.blk.core && q.stage.isOpen && q.kind != .prefetch &&
    q.threads.any (fun t => t.1 == c.ref.bid && t.2.1 == c.ref.wi && t.2.2.1 == i) &&
    (q.acqWide || (q.strong && q.kind.reads))) || loggedBefore s s.nextId th

/-- The access waits: a strong one for the core's buffered stores to its line (R160); a load or atomic for a held entry
whose page it names, a release for every held memory-effect entry (R65). -/
def memWaits (c : Ctx) (s : State) (o : MemOrd) (reads : Bool) (va : Nat → DWord) : Bool :=
  ((o.order == .rel || o.order == .ar) && c.warp.heldFx) ||
  (lanesOf c.m).any (fun i =>
    if ownerOf (va i) = 62 then bankHeld c s i
    else (laneStrong o (va i) && (s.core c.blk.core).wbHas (vlineOf (va i))) || (reads && logPageWait c.warp (va i)))

/-- The access stalls: a lane needs a remote-request slot and none is free (R34, R228). A lane that its own core serves needs
none. -/
def slotStall (c : Ctx) (s : State) (kind : ReqKind) (o : MemOrd) (n : Nat) (va : Nat → DWord) : Bool :=
  slotsTaken s c.blk.core && (lanesOf c.m).any (fun i => ownerOf (va i) != 62 &&
    !(kind == .load && (localValue s (newReq c s.nextId kind o 0 i (va i) n)).isSome))

/-! ### Loads (R382, R384, R385) -/

/-- The scratchpad cycles beyond the first, counted (R134, R267). -/
def countBanks (c : Ctx) (va : Nat → DWord) (n : Nat) (s : State) : State :=
  let offs := ((lanesOf c.m).filter (fun i => ownerOf (va i) == 62)).filterMap (fun i => sliceOff c.blk (offsetOf (va i)))
  if bankExtra offs n = 0 then s else perfAdd s c.blk.core 14 (bankExtra offs n) c.warp.priv c.warp.secure

/-- The destination of an instruction whose values arrive: empty, with l undefined (R75, R79). -/
def markArriving (c : Ctx) (d : Dst) (s : State) : State :=
  (s.updWarp c.ref.bid c.ref.wi (fun w => w.markEmpty d.regs')).undefL c.ref.bid c.ref.wi

/-- A load of `n` bytes a lane for the lanes of `m`. -/
def loadEff (d : Opd) (n : Nat) (sx : Bool) (o : Ctx → MemOrd) (hint : Nat) (va : Ctx → Nat → DWord) (c : Ctx)
    (s : State) : Res :=
  let mo := o c
  if c.m = 0 then .done s
  else if memWaits c s mo true (va c) then .wait (.retry false)
  else if slotStall c s .load mo n (va c) then .wait .stall
  else
    let dst := dstOf d (bytesWords n)
    let (tag, s1) := addPend s { basePend c with kind := .load n sx, dst := dst, order := mo.order, scope := mo.scope }
    let s2 := (lanesOf c.m).foldl (fun s i => sendLoad s (newReq c tag .load mo hint i (va c i) n)) s1
    .done (markArriving c dst (countBanks c (va c) n s2))

/-! ### Waiting after the effect -/

/-- The instruction is done and its path waits at the next one. -/
def afterWait (c : Ctx) (s : State) (wt : Wait) : Res :=
  .own ((advance c s).updSlot c.ref (fun sl => { sl with wait := wt }))

/-! ### Stores (R382, R385, R386) -/

/-- Whether a lane's store goes by the write buffer (R140, R160). -/
def buffered (o : MemOrd) (va : DWord) : Bool := ownerOf va != 62 && !laneStrong o va

/-- A lane of a store that does not go by the write buffer: into the slice, or as a request (R160, R380). -/
def storeLane (c : Ctx) (tag : Nat) (o : MemOrd) (hint n : Nat) (va : DWord) (x : BitVec 128) (s : State) (i : Nat) :
    State :=
  if ownerOf va = 62 then
    match sliceOff c.blk (offsetOf va) with
    | some off => s.updBlock c.ref.bid (fun b => sliceSet b off n x)
    | none => s
  else (s.l1Write c.blk.core (vlineOf va) 0 [] true).addReq { newReq c tag .store o hint i va n with data := x }

/-- The store stalls before any effect: the write buffer takes not even the first lane that goes by it, or a request slot is
missing (R34, R140, R228). -/
def storeStall (c : Ctx) (s : State) (o : MemOrd) (va : Nat → DWord) : Bool :=
  (match (lanesOf c.m).find? (fun i => buffered o (va i)) with
    | some i => !(s.core c.blk.core).wbRoom (vlineOf (va i))
    | none => false) ||
  (slotsTaken s c.blk.core && (lanesOf c.m).any (fun i => ownerOf (va i) != 62 && laneStrong o (va i)))

/-- A store of `n` bytes a lane. Lanes that the write buffer has no room for enter as entries free; the path stands until then
(R140). -/
def storeEff (data : Opd) (n : Nat) (o : Ctx → MemOrd) (hint : Nat) (va : Ctx → Nat → DWord) (c : Ctx) (s : State) :
    Res :=
  let mo := o c
  if c.m = 0 then .done s
  else if memWaits c s mo false (va c) then .wait (.retry false)
  else if storeStall c s mo (va c) then .wait .stall
  else
    let value (i : Nat) : BitVec 128 := readN c.blk c.warp c.ref.wi data (bytesWords n) i
    let need := maskOf ((lanesOf c.m).filter (fun i => ownerOf (va c i) != 62))
    let (tag, s1) := if need = 0 then (0, s) else
      addPend s { basePend c with kind := .store, need := need, order := mo.order, scope := mo.scope }
    let s2 := countBanks c (va c) n (((lanesOf c.m).filter (fun i => !buffered mo (va c i))).foldl (fun s i =>
      storeLane c tag mo hint n (va c i) (value i) s i) s1)
    let x := feedBuffer c.blk.core (((lanesOf c.m).filter (fun i => buffered mo (va c i))).map (fun i =>
      pieceOf c tag i hint (va c i) (bytesOfNat n (value i).toNat))) s2
    if x.1 = [] then .done x.2
    else afterWait c (x.2.updPend tag (fun p => { p with feed := x.1 })) (.feed tag)

/-! ### Mirror-window stores (R136, R137, R386) -/

/-- The precise checks of `stm`: the address is the window offset. -/
def stmPre (va : Ctx → Nat → DWord) (n : Nat) : Ctx → State → Option Flt := fun c s =>
  pickFault c ((lanesOf c.m).map (fun i =>
    let o := (va c i).toNat
    let r := c.blk.lrec
    { lane := i, va := va c i, codes :=
        (if o % n ≠ 0 then [codeMisalign] else []) ++
        (if 1024 * r.mirror ≤ o then [codeScratch]
         else if lockHit s c.blk (sliceVa (1024 * (r.scratch - r.mirror) + o)) n true then [codeRangeLock] else []) }))

/-- The source number of a warp for the race of R137. -/
def winSource (c : Ctx) : Nat := 64 * c.ref.bid + c.ref.wi

/-- Bytes written from slice offset `a` at a member by source `src`. Where `behind`, the store lies behind what another source has
stored since the last gang barrier: those bytes keep that source's value (R137). -/
def winWrite (src : Nat) (behind : Bool) (b : Block) (a : Nat) (bs : List Byte) : Block :=
  ((List.range bs.length).zip bs).foldl (fun b x =>
    let at_ := a + x.1
    match b.win.get? at_ with
    | some e => if behind && e.1 != src then { b with slice := memSet b.slice at_ e.2 }
        else { b with slice := memSet b.slice at_ x.2, win := b.win.set at_ (src, x.2) }
    | none => { b with slice := memSet b.slice at_ x.2, win := b.win.set at_ (src, x.2) }) b

/-- One lane's multicast store at one member: where another source has stored to a byte of it since the last gang barrier, the
copy keeps one of the racing values (R137). -/
def stmMember (c : Ctx) (o n : Nat) (x : BitVec 128) (s : State) (bid : Nat) : State :=
  match s.block? bid with
  | none => s
  | some b =>
    let a := 1024 * (b.lrec.scratch - b.lrec.mirror) + o
    let put (s : State) (behind : Bool) : State := s.updBlock bid (fun b => winWrite (winSource c) behind b a (bytesOfNat n x.toNat))
    if (List.range n).any (fun j => match b.win.get? (a + j) with | some e => e.1 != winSource c | none => false) then
      let (k, s1) := s.choose 2
      put s1 (k == 1)
    else put s false

/-- `stm`: every member's window at the same offset (R137). -/
def stmEff (data : Opd) (n : Nat) (va : Ctx → Nat → DWord) (c : Ctx) (s : State) : Res :=
  let members := (s.blocks.filter (fun b => b.gangId == c.blk.gangId)).map (·.bid)
  if (lanesOf c.m).any (bankHeld c s) then .wait (.retry false)
  else
    let base := 1024 * (c.blk.lrec.scratch - c.blk.lrec.mirror)
    let s1 := countBanks c (fun i => sliceEa (va c i + BitVec.ofNat 64 base)) n s
    .done ((lanesOf c.m).foldl (fun s i =>
      members.foldl (stmMember c (va c i).toNat n (readN c.blk c.warp c.ref.wi data (bytesWords n) i)) s) s1)

/-! ### Atomics and reductions (R390, R391) -/

/-- One lane of a read-modify-write: in the bank (R135), or as a request. -/
def rmwLane (c : Ctx) (tag : Nat) (op : RmwOp) (red : Bool) (o : MemOrd) (n : Nat) (ret : Bool) (va : DWord) (b d : DWord)
    (s : State) (i : Nat) : State :=
  let kind : ReqKind := if red then .red op.num else .rmw op.num
  if ownerOf va = 62 then
    match s.block? c.ref.bid with
    | none => s
    | some blk =>
      match sliceOff blk (offsetOf va) with
      | none => s
      | some off =>
        let old := BitVec.ofNat 64 (sliceNat blk off n)
        let (x, fl) := rmwNew op n (c.warp.csr.fpmode.getLsbD 8) old b d
        let s1 := (s.updBlock c.ref.bid (fun k => sliceSet k off n (x.setWidth 128)))
        let s2 := if fl = 0 then s1 else s1.updWarp c.ref.bid c.ref.wi (fun w => w.setFlags fl)
        if ret then answerNow s2 (newReq c tag kind o 0 i va n) (old.setWidth 128) else s2
  else
    (s.l1Write c.blk.core (vlineOf va) 0 [] true).addReq
      { newReq c tag kind o 0 i va n with data := d.setWidth 128, cmp := b }

/-- A read-modify-write of `n` bytes a lane: `d` returns the old value (zero: no return), `data` is the operand. Without `back` it
is a reduction. -/
def rmwEff (op : RmwOp) (d : Opd) (back : Bool) (data : Opd) (n : Nat) (o : Ctx → MemOrd) (va : Ctx → Nat → DWord)
    (c : Ctx) (s : State) : Res :=
  let mo := o c
  if c.m = 0 then .done s
  else if memWaits c s mo true (va c) then .wait (.retry false)
  else if slotStall c s (.rmw op.num) mo n (va c) then .wait .stall
  else
    let ret := back && d != .zero
    let dst := if ret then dstOf d (bytesWords n) else .none
    let need := if ret then c.m else maskOf ((lanesOf c.m).filter (fun i => ownerOf (va c i) != 62))
    let (tag, s1) := if need = 0 then (0, s) else
      addPend s { basePend c with kind := if ret then .load n false else .store, dst := dst, need := need,
                                  order := mo.order, scope := mo.scope }
    let src (x : Opd) (i : Nat) : DWord := (readN c.blk c.warp c.ref.wi x (bytesWords n) i).setWidth 64
    let s2 := countBanks c (va c) n ((lanesOf c.m).foldl (fun s i =>
      rmwLane c tag op (!back) mo n ret (va c i) (src data i) (if op = .cas then src d i else 0) s i) s1)
    .done (if ret then markArriving c dst s2 else s2)

/-! ### `ldk` (R384) -/

/-- The one access of `ldk`, whatever the mask. -/
def ldkPre (va : Ctx → Nat → DWord) (n : Nat) : Ctx → State → Option Flt := fun c s =>
  memPre va n false { c with m := 1 } s
def ldkEff (d : Opd) (n hint : Nat) (va : Ctx → Nat → DWord) (c : Ctx) (s : State) : Res :=
  loadEff d n false (fun _ => .default false) hint va { c with m := 1 } s

/-! ### Prefetch (R387) -/

/-- A prefetch sends a request that no register waits for; hint 1 brings the line into the home partition, which the
model does not keep apart from DRAM (log 8). -/
def prefetchEff (hint : Nat) (va : Ctx → Nat → DWord) (c : Ctx) (s : State) : Res :=
  if hint = 1 then .done s
  else .done ((lanesOf c.m).foldl (fun s i =>
    let a := va c i
    if 56 ≤ ownerOf a ∨ ((s.core c.blk.core).l1Hit (vlineOf a) c.warp.secure c.warp.priv).isSome then s
    else
      let (t, s1) := s.fresh
      s1.addReq (newReq c t .prefetch (.default false) hint i (a &&& ~~~127#64) 128)) s)

/-! ### Range cache control (R388) -/

/-- The virtual lines of a range. -/
def rangeLo (u : UnitOp) : Nat := u.lo / 128
def rangeHi (u : UnitOp) : Nat := (u.hi - 1) / 128

/-- Whether a virtual line lies in the range. -/
def inRange (u : UnitOp) (vl : Nat) : Bool := decide (rangeLo u ≤ vl) && decide (vl ≤ rangeHi u)

/-- Whether the core's write buffer still holds lines of the range. -/
def rangeBuffered (s : State) (u : UnitOp) : Bool := (s.core u.core).wb.any (fun b => b.2.any (fun e => inRange u e.line))

/-- One tracked, class-3, class-1 or R copy handled by the table of R388. -/
def rangeCopy (what dk : Nat) (s : State) (v : VLine) : State :=
  let clean (s : State) : State := if v.state = .m then mergeSectors s v.pline v.dirty v.bytes else s
  let kept : VLine := { v with dirty := 0, state := if v.state = .m then (if v.cls = 3 then .s else .e) else v.state }
  if v.cls = 1 ∨ v.state = .r then (if what = 6 then s else s.dropVis dk v.pline)
  else if v.cls = 3 then
    (if what = 6 then (clean s).putVis dk kept else if what = 7 then s.dropVis dk v.pline else (clean s).dropVis dk v.pline)
  else if what = 6 then (clean s).putVis dk kept
  else
    let s1 := (clean s).dropVis dk v.pline
    match s1.dir? v.pline with
    | some e => s1.putDir { e with sharers := e.sharers &&& ~~~(1#56 <<< domOf dk), owned := e.owned && e.owner != domOf dk }
    | none => s1

/-- The lines of one 64 KiB block of virtual addresses, under the translation at its owner; owners 56 to 63, blocks
without a translation and pages of the other world are skipped (R388). -/
def rangeBlock (u : UnitOp) (s : State) (blk : Nat) : State :=
  let va : DWord := BitVec.ofNat 64 (blk * 2 ^ 16)
  if 56 ≤ ownerOf va then s
  else
    let (dk, off) := translator (waferOf u.dk) va
    match findLeaf s dk off false with
    | (none, s1) => s1
    | (some l, s1) =>
      if l.world ≠ u.secure then s1
      else
        let base := (l.xlat (waferOf dk) off false).addr / 128
        let first := blk * 512
        let hit (pl : Nat) : Bool := decide (base ≤ pl) && decide (pl < base + 512) && inRange u (first + (pl - base))
        let s2 := ((s1.domain u.dk).visit.filter (fun v => hit v.pline)).foldl (rangeCopy u.what u.dk) s1
        if u.what = 6 then s2
        else s2.updCore u.core (fun c => { c with l1 := c.l1.filter (fun x => !(hit x.attr.pline && x.attr.world == u.secure)) })

/-- The lines of the range handled, after the write buffer has drained (R388). -/
def rangeRun (s : State) (u : UnitOp) : State :=
  let b0 := u.lo / 2 ^ 16
  (List.range ((u.hi - 1) / 2 ^ 16 - b0 + 1)).foldl (fun s i => rangeBlock u s (b0 + i)) s

/-- Range operations whose core's buffer has drained are carried out. -/
def rangeProgress (s : State) : State :=
  (s.unitOps.filter (fun u => decide (6 ≤ u.what) && decide (u.what ≤ 8) && !rangeBuffered s u)).foldl
    (fun s u => rangeRun { s with unitOps := s.unitOps.filter (fun x => x.op != u.op) } u) s

/-- `cwb`, `cinv`, `cflush`. -/
def rangeEff (what : Nat) (base : Opd) (off : DWord) (len : Opd) (c : Ctx) (s : State) : Res :=
  let n := (read32 c.blk c.warp c.ref.wi len 0).toNat
  if n = 0 then .done s
  else
    let lo := vaddr (eaOf c base off 0)
    let u : UnitOp := { op := s.nextId, what := what, dk := dkOfCk c.blk.core, lo := lo, hi := lo + n, cls := 0,
                        secure := c.warp.secure, waitReqs := [], cores := [], tag := none, core := c.blk.core,
                        bid := c.ref.bid, wi := c.ref.wi, host := false, phase := 1 }
    if rangeBuffered s u then
      afterWait c { s with unitOps := s.unitOps ++ [u], nextId := s.nextId + 1 } (.range u.op)
    else .done (rangeRun { s with nextId := s.nextId + 1 } u)

/-! ### `waitv` (R393, R394) -/

/-- Whether a word meets the condition of R393. -/
def waitvHolds (cond n : Nat) (x cmp : DWord) : Bool :=
  let t : VTy := { bits := 8 * n, signed := false }
  match cond with
  | 0 => t.nat x == t.nat cmp
  | 1 => t.nat x != t.nat cmp
  | 2 => decide (t.nat cmp ≤ t.nat x)
  | _ => decide (t.nat (x - cmp) < 2 ^ (8 * n - 1))

/-- The strong reads of the lanes of a mask; they carry no order (R394). -/
def waitvReads (c : Ctx) (tag n : Nat) (va : Nat → DWord) (m : Word) (s : State) : State :=
  (lanesOf m).foldl (fun s i => sendLoad s (newReq c tag .load (.default true) 0 i (va i) n)) s

/-- `waitv`: the reads are sent and the path waits. The instruction in flight keeps, by lane, the comparands, from key
32 on the addresses, and at key 64 the address of the next instruction. -/
def waitvEff (d : Opd) (cond n : Nat) (data : Opd) (o : Ctx → MemOrd) (va : Ctx → Nat → DWord) (c : Ctx) (s : State) :
    Res :=
  let mo := o c
  if c.m = 0 then .done s
  else if memWaits c s mo true (va c) then .wait (.retry false)
  else if slotStall c s (.rmw 0) mo n (va c) then .wait .stall
  else
    let dst := dstOf d (bytesWords n)
    let cmp (i : Nat) : DWord := (readN c.blk c.warp c.ref.wi data (bytesWords n) i).setWidth 64
    let aux := (lanesOf c.m).map (fun i => (i, cmp i)) ++ (lanesOf c.m).map (fun i => (32 + i, va c i)) ++
      [(64, c.pc + BitVec.ofNat 64 c.len)]
    let (tag, s1) := addPend s { basePend c with kind := .waitv cond n, dst := dst, order := mo.order, scope := mo.scope,
                                                 aux := aux }
    .hold (markArriving c dst (waitvReads c tag n (va c) c.m s1)) (.waitv tag)

/-! ### Fences (R170, R395, R65) -/

/-- Stores of the warp that are not acknowledged. -/
def warpUnacked (s : State) (r : PathRef) : Bool :=
  s.pends.any (fun p => p.bid == r.bid && p.wi == r.wi && p.kind == .store)

/-- Whether everything a block has issued before number `id` is done with, as a fence or a release of domain scope or wider
needs: stores acknowledged, requests performed, nothing logged but a `waitv` (R167, R170). -/
def settledBefore (s : State) (bid id : Nat) : Bool :=
  !s.pends.any (fun p => p.bid == bid && decide (p.tag < id) && p.kind == .store) &&
  !s.reqs.any (fun q => decide (q.id < id) && q.kind != .prefetch && q.kind != .fetch && q.stage.isOpen &&
    q.threads.any (fun t => t.1 == bid)) && !loggedInBlock s id bid id

/-- What a fence waits for: held memory-effect entries and unacknowledged stores of the warp (R65), its earlier reads (R167), and, at
domain scope or wider, every earlier access of the block. -/
def fenceWaits (scope : Scope) (c : Ctx) (s : State) : Bool :=
  c.warp.heldFx || warpUnacked s c.ref || readsOpen s s.nextId c.ref.bid c.ref.wi s.nextId || (scope != .block && (c.warp.logCount != 0 || !settledBefore s c.ref.bid s.nextId))

/-- A fence; with an acquire side it invalidates the L1 (R141, R170, R395). -/
def fenceEff (scope : Scope) (acq : Bool) (c : Ctx) (s : State) : Res :=
  if fenceWaits scope c s then .wait (.retry false)
  else .done (if acq && scope != .block then acquireL1 s c.blk.core else s)

/-! ### The issue of a memory instruction, by format -/

/-- The shape of `memLd`. -/
def memLdShape (sx : Bool) (f : FmtC) : Shape :=
  let n := widthBytes f.width
  { opcodeBad := badC f true true false (if sx then [0, 1] else [0, 1, 2, 3, 4]) [0, 1, 2, 3] [0, 1, 2] ||
              (f.hint != 0 && f.order != 0),
            fields := [fldDst (opd9 f.d) (bytesWords n), fldBase (opd9 f.base) f.sbase] }

/-- `ld`, sub-format C. -/
def memLd (i : Instr) (sx : Bool) (f : FmtC) (s : State) :
    Host.Outcome State Fault Refusal :=
  let n := widthBytes f.width
  let va (c : Ctx) := eaOf c (opd9 f.base) (offC f)
  issue i (memLdShape sx f)
    (memPre va n false) (loadEff (opd9 f.d) n sx (fun _ => ordC f false) f.hint.toNat va) s

/-- The shape of `memSt`. -/
def memStShape (f : FmtC) : Shape :=
  let n := widthBytes f.width
  { opcodeBad := badC f false true true [0, 1, 2, 3, 4] [0, 1, 2] [0, 1, 3] || (f.hint != 0 && f.order != 0),
            fields := [fldSrc (opd9 f.data) (bytesWords n) f.sdata, fldBase (opd9 f.base) f.sbase] }

/-- `st`, sub-format C. -/
def memSt (i : Instr) (f : FmtC) (s : State) :
    Host.Outcome State Fault Refusal :=
  let n := widthBytes f.width
  let va (c : Ctx) := eaOf c (opd9 f.base) (offC f)
  issue i (memStShape f)
    (memPre va n true) (storeEff (opd9 f.data) n (fun _ => ordC f false) f.hint.toNat va) s

/-- The shape of `memLdk`. -/
def memLdkShape (f : FmtC) : Shape :=
  let n := widthBytes f.width
  { opcodeBad := badC f true true false [2, 3] [0, 1, 2] [0],
            fields := [{ opd := opd9 f.d, role := .udst, words := bytesWords n, dst := true },
                       fldUbase (opd9 f.base) f.sbase], gov := false }

/-- `ldk`, sub-format C. -/
def memLdk (i : Instr) (f : FmtC) (s : State) :
    Host.Outcome State Fault Refusal :=
  let n := widthBytes f.width
  let va (c : Ctx) := eaOf c (opd9 f.base) (offC f)
  issue i (memLdkShape f)
    (ldkPre va n) (ldkEff (opd9 f.d) n f.hint.toNat va) s

/-- The shape of `memLds`. -/
def memLdsShape (sx : Bool) (f : FmtC) : Shape :=
  let n := widthBytes f.width
  { opcodeBad := badC f true true false (if sx then [0, 1] else [0, 1, 2, 3, 4]) [0] [0],
            fields := [fldDst (opd9 f.d) (bytesWords n), fldBase (opd9 f.base) f.sbase] }

/-- `lds`, sub-format C (R385). -/
def memLds (i : Instr) (sx : Bool) (f : FmtC) (s : State) :
    Host.Outcome State Fault Refusal :=
  let n := widthBytes f.width
  let va (c : Ctx) := eaOf c (opd9 f.base) (offC f)
  issue i (memLdsShape sx f)
    (slicePre va n false) (loadEff (opd9 f.d) n sx (fun _ => .bank) 0 (fun c i => sliceEa (va c i))) s

/-- The shape of `memSts`. -/
def memStsShape (f : FmtC) : Shape :=
  let n := widthBytes f.width
  { opcodeBad := badC f false true true [0, 1, 2, 3, 4] [0] [0],
            fields := [fldSrc (opd9 f.data) (bytesWords n) f.sdata, fldBase (opd9 f.base) f.sbase] }

/-- `sts`, sub-format C (R385). -/
def memSts (i : Instr) (f : FmtC) (s : State) :
    Host.Outcome State Fault Refusal :=
  let n := widthBytes f.width
  let va (c : Ctx) := eaOf c (opd9 f.base) (offC f)
  issue i (memStsShape f)
    (slicePre va n true) (storeEff (opd9 f.data) n (fun _ => .bank) 0 (fun c i => sliceEa (va c i))) s

/-- The shape of `memStm`. -/
def memStmShape (f : FmtC) : Shape :=
  let n := widthBytes f.width
  { opcodeBad := badC f false true true [0, 1, 2, 3, 4] [0] [0],
            fields := [fldSrc (opd9 f.data) (bytesWords n) f.sdata, fldBase (opd9 f.base) f.sbase] }

/-- `stm` (R386). -/
def memStm (i : Instr) (f : FmtC) (s : State) :
    Host.Outcome State Fault Refusal :=
  let n := widthBytes f.width
  let va (c : Ctx) := eaOf c (opd9 f.base) (offC f)
  issue i (memStmShape f)
    (stmPre va n) (stmEff (opd9 f.data) n va) s

/-- The shape of `memLdL`. -/
def memLdLShape (n : Nat) (f : F32) : Shape :=
  { opcodeBad := false, fields := [fldDst (opd7 f.d) (bytesWords n), fldBase (opd7 f.a) false],
            ordp := ordLoads }

/-- An L32 load: D destination, A base, IMM7 offset (R381). -/
def memLdL (i : Instr) (n : Nat) (sx : Bool) (f : F32) (s : State) :
    Host.Outcome State Fault Refusal :=
  let va (c : Ctx) := eaOf c (opd7 f.a) (offL f)
  issue i (memLdLShape n f)
    (memPre va n false) (loadEff (opd7 f.d) n sx (fun c => ordL c false) 0 va) s

/-- The shape of `memStL`. -/
def memStLShape (n : Nat) (f : F32) : Shape :=
  { opcodeBad := false, fields := [fldSrc (opd7 f.d) (bytesWords n) false, fldBase (opd7 f.a) false],
            ordp := ordStores }

/-- An L32 store: D data, A base, IMM7 offset (R381). -/
def memStL (i : Instr) (n : Nat) (f : F32) (s : State) :
    Host.Outcome State Fault Refusal :=
  let va (c : Ctx) := eaOf c (opd7 f.a) (offL f)
  issue i (memStLShape n f)
    (memPre va n true) (storeEff (opd7 f.d) n (fun c => ordL c false) 0 va) s

/-- The shape of `memStsL`. -/
def memStsLShape (f : F32) : Shape :=
  { opcodeBad := false, fields := [fldSrc (opd7 f.d) 1 false, fldBase (opd7 f.a) false], ordp := ordStores }

/-- The shape of `memLdsL`. -/
def memLdsLShape (f : F32) : Shape :=
  { opcodeBad := false, fields := [fldDst (opd7 f.d) 1, fldBase (opd7 f.a) false], ordp := ordLoads }

/-- `lds.b32` and `sts.b32`, L32. -/
def memLdsL (i : Instr) (f : F32) (s : State) :
    Host.Outcome State Fault Refusal :=
  let va (c : Ctx) := eaOf c (opd7 f.a) (offL f)
  issue i (memLdsLShape f)
    (slicePre va 4 false) (loadEff (opd7 f.d) 4 false ordS 0 (fun c i => sliceEa (va c i))) s
def memStsL (i : Instr) (f : F32) (s : State) :
    Host.Outcome State Fault Refusal :=
  let va (c : Ctx) := eaOf c (opd7 f.a) (offL f)
  issue i (memStsLShape f)
    (slicePre va 4 true) (storeEff (opd7 f.d) 4 ordS 0 (fun c i => sliceEa (va c i))) s

/-- The shape of `memLdkL`. -/
def memLdkLShape (f : F32) : Shape :=
  { opcodeBad := false, fields := [{ opd := opd7 f.d, role := .udst, dst := true }, fldUbase (opd7 f.a) false],
            gov := false }

/-- `ldk.b32`, L32. -/
def memLdkL (i : Instr) (f : F32) (s : State) :
    Host.Outcome State Fault Refusal :=
  let va (c : Ctx) := eaOf c (opd7 f.a) (offL f)
  issue i (memLdkLShape f)
    (ldkPre va 4) (ldkEff (opd7 f.d) 4 0 va) s

/-- The shape of `memPrefetch`. -/
def memPrefetchShape (f : FmtC) : Shape :=
  { opcodeBad := badC f false true false [0] [0, 1, 3] [0], fields := [fldBase (opd9 f.base) f.sbase],
            gov := false }

/-- `prefetch` (R387). -/
def memPrefetch (i : Instr) (f : FmtC) (s : State) :
    Host.Outcome State Fault Refusal :=
  issue i (memPrefetchShape f)
    noPre (prefetchEff f.hint.toNat (fun c => eaOf c (opd9 f.base) (offC f))) s

/-- The shape of `memRange`. -/
def memRangeShape (f : FmtC) : Shape :=
  { opcodeBad := badC f false true true [0] [0] [0],
            fields := [fldUbase (opd9 f.base) f.sbase,
                       { opd := opd9 f.data, role := .usrc, strict := f.sdata }], gov := false }

/-- `cwb`, `cinv`, `cflush` (R388). -/
def memRange (i : Instr) (what : Nat) (f : FmtC) (s : State) :
    Host.Outcome State Fault Refusal :=
  issue i (memRangeShape f)
    noPre (rangeEff what (opd9 f.base) (offC f) (opd9 f.data)) s

/-- The shape of `memWaitv`. -/
def memWaitvShape (f : FmtC) : Shape :=
  let n := widthBytes f.width
  { opcodeBad := badC f true true true [2, 3] [0, 1, 2, 3] [0, 1, 2],
            fields := [fldDst (opd9 f.d) (bytesWords n), fldSrc (opd9 f.data) (bytesWords n) f.sdata,
                       fldBase (opd9 f.base) f.sbase], gov := false }

/-- `waitv`, sub-format C: HINT holds the condition (R393). -/
def memWaitv (i : Instr) (f : FmtC) (s : State) :
    Host.Outcome State Fault Refusal :=
  let n := widthBytes f.width
  let va (c : Ctx) := eaOf c (opd9 f.base) (offC f)
  issue i (memWaitvShape f)
    (memPre va n false) (waitvEff (opd9 f.d) f.hint.toNat n (opd9 f.data) (fun _ => ordC f true) va) s

/-- The shape of `memWaitvL`. -/
def memWaitvLShape (f : F32) : Shape :=
  { opcodeBad := false,
            fields := [fldDst (opd7 f.d) 1, fldSrc (opd7 f.b) 1 false, fldBase (opd7 f.a) false], gov := false,
            ordp := ordLoads }

/-- `waitv`, L32: offset 0, B the comparand (R393). -/
def memWaitvL (i : Instr) (cond : Nat) (f : F32) (s : State) :
    Host.Outcome State Fault Refusal :=
  let va (c : Ctx) := eaOf c (opd7 f.a) 0
  issue i (memWaitvLShape f)
    (memPre va 4 false) (waitvEff (opd7 f.d) cond 4 (opd7 f.b) (fun c => ordL c true) va) s

/-- The shape of `memAtom`. -/
def memAtomShape (op : RmwOp) (f : FmtC) : Shape :=
  let n := widthBytes f.width
  { opcodeBad := badC f true true true (if op = .fadd then [2] else [2, 3]) [0] [0, 1, 2, 3, 4],
            fields := [fldDst (opd9 f.d) (bytesWords n), fldSrc (opd9 f.data) (bytesWords n) f.sdata,
                       fldBase (opd9 f.base) f.sbase] ++
                      (if op = .cas then [fldSrc (opd9 f.d) (bytesWords n) false] else []) }

/-- `atom`, sub-format C; `cas` reads D as well (R389, R390). -/
def memAtom (i : Instr) (op : RmwOp) (f : FmtC) (s : State) :
    Host.Outcome State Fault Refusal :=
  let n := widthBytes f.width
  let va (c : Ctx) := eaOf c (opd9 f.base) (offC f)
  issue i (memAtomShape op f)
    (memPre va n true) (rmwEff op (opd9 f.d) true (opd9 f.data) n (fun _ => ordC f true) va) s

/-- The shape of `memRed`. -/
def memRedShape (op : RmwOp) (f : FmtC) : Shape :=
  let n := widthBytes f.width
  { opcodeBad := badC f false true true (if op = .fadd then [2] else [2, 3]) [0] [0, 1, 3],
            fields := [fldSrc (opd9 f.data) (bytesWords n) f.sdata, fldBase (opd9 f.base) f.sbase] }

/-- `red`, sub-format C (R389). -/
def memRed (i : Instr) (op : RmwOp) (f : FmtC) (s : State) :
    Host.Outcome State Fault Refusal :=
  let n := widthBytes f.width
  let va (c : Ctx) := eaOf c (opd9 f.base) (offC f)
  issue i (memRedShape op f)
    (memPre va n true) (rmwEff op .zero false (opd9 f.data) n (fun _ => ordC f true) va) s

/-- The shape of `memAtomL`. -/
def memAtomLShape (f : F32) : Shape :=
  { opcodeBad := false,
            fields := [fldDst (opd7 f.d) 1, fldSrc (opd7 f.b) 1 false, fldBase (opd7 f.a) false], ordp := ordRmws }

/-- L32 `atom`: offset 0, B the operand (R317, R389). -/
def memAtomL (i : Instr) (op : RmwOp) (f : F32) (s : State) :
    Host.Outcome State Fault Refusal :=
  let va (c : Ctx) := eaOf c (opd7 f.a) 0
  issue i (memAtomLShape f)
    (memPre va 4 true) (rmwEff op (opd7 f.d) true (opd7 f.b) 4 (fun c => ordL c true) va) s

/-- The shape of `memRedL`. -/
def memRedLShape (f : F32) : Shape :=
  { opcodeBad := false, fields := [fldSrc (opd7 f.d) 1 false, fldBase (opd7 f.a) false], ordp := ordStores }

/-- L32 `red`: D the data, IMM7 offset (R389). -/
def memRedL (i : Instr) (op : RmwOp) (f : F32) (s : State) :
    Host.Outcome State Fault Refusal :=
  let va (c : Ctx) := eaOf c (opd7 f.a) (offL f)
  issue i (memRedLShape f)
    (memPre va 4 true) (rmwEff op .zero false (opd7 f.d) 4 (fun c => ordL c true) va) s

/-- The shape of `memFence`. -/
def memFenceShape (f : FmtC) : Shape :=
  { opcodeBad := f.d != 0 || f.base != 0 || f.data != 0 || f.off != 0 || f.width != 0 || f.hint != 0 ||
              f.order != 0 || f.sbase || f.sdata, fields := [], gov := false }

/-- A fence: SCOPE, every other field zero (R395). -/
def memFence (i : Instr) (acq : Bool) (f : FmtC) (s : State) :
    Host.Outcome State Fault Refusal :=
  issue i (memFenceShape f)
    noPre (fenceEff (scopeOf f.scope) acq) s

end Sys2Proof.Machine
end

