-- ==== Sys2Proof/Machine/Heap.lean ====
section
/-!
DEFINITION. The reference instructions (R396-R406): references (R181, R182), the precise checks of R397, and what each does
at issue. The barrier of R183 runs when a value arrives.
-/

namespace Sys2Proof.Machine

/-! ### References (R181) -/

def refNull (r : DWord) : Bool := r.getLsbD 63
def refColour (r : DWord) : BitVec 2 := r.extractLsb' 60 2
/-- The virtual address of the header: ADDR [56:0], with the bits above as copies of bit 56 (R110, R181). -/
def refAddr (r : DWord) : DWord := (r.extractLsb' 0 57).signExtend 64
/-- Whether a reference names an owner that can hold a heap (R178). -/
def refOwned (r : DWord) : Bool := decide (ownerOf r < 56)
/-- The healed reference: PIN and NULL as loaded, the colour compared with, and the resolved address (R183). -/
def healRef (r : DWord) (good : BitVec 2) (a : DWord) : DWord :=
  r.extractLsb' 62 2 ++ good ++ (a.extractLsb' 0 57).signExtend 60
/-- A reference with PIN set or cleared (R181, R191). -/
def withPin (r : DWord) (b : Bool) : DWord := if b then r ||| (1#64 <<< 62) else r &&& ~~~(1#64 <<< 62)
/-- The raw alias of an address: OFFSET [50] inverted (R192). -/
def rawAlias (a : DWord) : DWord := a ^^^ (1#64 <<< 50)

/-- The number of a world (R107). -/
def worldNum (secure : Bool) : Nat := if secure then 1 else 0

/-- The good colour that a core compares with (R183, R185): while an `hphase` is in progress, one of the old and the new
colour. -/
def goodColour (s : State) (ck : Nat) (secure : Bool) : BitVec 2 × State :=
  let w := waferOf (dkOfCk ck)
  let now := (s.wafer w).phase.get 0 (worldNum secure)
  match s.unitOps.find? (fun u => u.what == 3 && waferOf u.dk == w && u.secure == secure) with
  | none => (now, s)
  | some u =>
    let (k, s1) := s.choose 2
    (if k = 0 then now else BitVec.ofNat 2 u.cls, s1)

/-! ### Field addresses and precise checks (R397) -/

/-- The reference a lane names, its offset and its address. -/
def refOff (c : Ctx) (idx : Opd) (off : DWord) (i : Nat) : DWord :=
  off + (read32 c.blk c.warp c.ref.wi idx i).setWidth 64
def refEa (c : Ctx) (base idx : Opd) (off : DWord) (i : Nat) : DWord :=
  refAddr (read64 c.blk c.warp c.ref.wi base i) + refOff c idx off i

/-- The precise codes of one lane: a null reference, alignment, owner, range lock. -/
def refCodes (s : State) (b : Block) (r off : DWord) (n : Nat) (write : Bool) : List (BitVec 8) :=
  (if refNull r then [codeRefBad] else []) ++
  (if (refAddr r).toNat % 8 ≠ 0 ∨ off.toNat % n ≠ 0 then [codeMisalign] else []) ++
  (if refOwned r then [] else [codeOwnerBad]) ++
  (if lockHit s b (vaddr (refAddr r + off)) n write then [codeRangeLock] else [])

def refPre (base idx : Opd) (off : DWord) (n : Nat) (write : Bool) : Ctx → State → Option Flt := fun c s =>
  pickFault c ((lanesOf c.m).map (fun i =>
    let r := read64 c.blk c.warp c.ref.wi base i
    let o := refOff c idx off i
    { lane := i, va := refAddr r + o, codes := refCodes s c.blk r o n write }))

/-- The request of one lane's reference access. -/
def refReq (c : Ctx) (tag : Nat) (kind : ReqKind) (o : MemOrd) (i : Nat) (r off : DWord) (n : Nat) : Req :=
  { newReq c tag kind o 0 i (refAddr r + off) n with strong := true, obj := refAddr r }

/-! ### Effects -/

/-- A reference access of every active lane: what it reads, what it carries, and where its value goes. -/
def refEff (kind : ReqKind) (pk : PendKind) (dst dst2 : Dst) (base idx : Opd) (off : DWord) (n : Nat)
    (o : MemOrd) (data cmp : Ctx → Nat → DWord) (c : Ctx) (s : State) : Res :=
  let va := refEa c base idx off
  if c.m = 0 then .done s
  else if memWaits c s o kind.reads va then .wait (.retry false)
  else if slotsTaken s c.blk.core then .wait .stall
  else
    let aux := (lanesOf c.m).map (fun i => (32 + i, va i))
    let (tag, s1) := addPend s { basePend c with kind := pk, dst := dst, dst2 := dst2, order := o.order,
                                                 scope := o.scope, aux := aux }
    let s2 := (lanesOf c.m).foldl (fun s i =>
      (s.l1Write c.blk.core (vlineOf (va i)) 0 [] true).addReq
        { refReq c tag kind o i (read64 c.blk c.warp c.ref.wi base i) (refOff c idx off i) n with
          data := (data c i).setWidth 128, cmp := cmp c i }) s1
    if pk = .store then .done s2
    else .done (markArriving c dst2 (markArriving c dst s2))

/-- `hcopy`, import: the value is already there, and meets the barrier when it arrives (R402). -/
def importEff (d a : Opd) (c : Ctx) (s : State) : Res :=
  if c.m = 0 then .done s
  else
    let dst := dstOf d 2
    let (tag, s1) := addPend s { basePend c with kind := .refLoad, dst := dst }
    let s2 := (lanesOf c.m).foldl (fun s i =>
      let r := read64 c.blk c.warp c.ref.wi a i
      answerNow s { newReq c tag .refCas (.default true) 0 i (refAddr r) 8 with obj := refAddr r } (r.setWidth 128)) s1
    .done (markArriving c dst s2)

/-- `hcopy`, h to h and export (R402). -/
def hcopyEff (d a : Opd) (n : Nat) (c : Ctx) (s : State) : Res :=
  .done (writeLanes c d n (fun i => (read64 c.blk c.warp c.ref.wi a i).setWidth 128) s)

/-- Whether the core decides a comparison itself (R401): a null, equal addresses, or both of the good colour. -/
def hcmpLocal (good : BitVec 2) (a b : DWord) : Option Bool :=
  if refNull a || refNull b then some (refNull a && refNull b)
  else if refAddr a = refAddr b then some true
  else if refColour a = good ∧ refColour b = good then some false
  else none

/-- Whether a comparison may have to ask: with some colour that the core may compare with, it does not decide it itself. -/
def hcmpAsks (s : State) (ck : Nat) (secure : Bool) (a b : DWord) : Bool :=
  let w := waferOf (dkOfCk ck)
  ((s.wafer w).phase.get 0 (worldNum secure) ::
    (s.unitOps.filter (fun u => u.what == 3 && waferOf u.dk == w && u.secure == secure)).map (fun u => BitVec.ofNat 2 u.cls)).any
      (fun good => (hcmpLocal good a b).isNone)

/-- `hcmp`: lanes the core decides are answered; for each other lane the stale references are resolved first. The
instruction in flight keeps the addresses compared, at the lane's number and 32 above it. -/
def hcmpEff (d a b : Opd) (c : Ctx) (s : State) : Res :=
  let va (x : Opd) (i : Nat) : DWord := read64 c.blk c.warp c.ref.wi x i
  if c.m = 0 then .done s
  else if slotsTaken s c.blk.core && (lanesOf c.m).any (fun i => hcmpAsks s c.blk.core c.warp.secure (va a i) (va b i)) then .wait .stall
  else
    let aux := (lanesOf c.m).map (fun i => (i, refAddr (va a i))) ++ (lanesOf c.m).map (fun i => (32 + i, refAddr (va b i)))
    let dst := dstOf d 1
    let (tag, s1) := addPend s { basePend c with kind := .hcmp, dst := dst, aux := aux }
    let s2 := (lanesOf c.m).foldl (fun s i =>
      let (good, s) := goodColour s c.blk.core c.warp.secure
      match hcmpLocal good (va a i) (va b i) with
      | some r => answerNow s { newReq c tag .load (.default true) 0 i 0 4 with obj := 0 } (if r then 1 else 0)
      | none =>
        let ask (side : Nat) (r : DWord) (s : State) : State :=
          if refColour r = good ∨ refOwned r = false then s
          else s.addReq { refReq c tag .resolve (.default true) i r 0 8 with
                          data := BitVec.ofNat 128 side, cmp := r, value := good.setWidth 128 }
        let s' := ask 1 (va b i) (ask 0 (va a i) s)
        if s'.nextId = s.nextId then
          answerNow s { newReq c tag .load (.default true) 0 i 0 4 with obj := 0 } 0
        else s') s1
    .done (markArriving c dst s2)

/-! ### The issue of the reference instructions -/

def hFld (x : Opd) (dst strict : Bool) : Field := { opd := x, role := .ref, words := 2, dst := dst, strict := strict }
/-- An address field: an h register. -/
def hBase (x : Opd) (strict : Bool) : Field := { opd := x, role := .ref, words := 2, strict := strict, addr := true }
/-- The index: a vector source, or zero. -/
def idxFld (x : Opd) (strict : Bool) : Field := { opd := x, role := .vsrc, strict := strict, addr := true }

def refLane (c : Ctx) (x : Opd) (n i : Nat) : DWord := (readN c.blk c.warp c.ref.wi x n i).setWidth 64

/-- The shape of `hld`. -/
def hldShape (f : FmtC) : Shape :=
  { opcodeBad := badC f true true true [3] [0] [0, 1, 2],
            fields := [hFld (opd9 f.d) true false, hBase (opd9 f.base) f.sbase, idxFld (opd9 f.data) f.sdata] }

/-- `hld`. -/
def hldIssue (i : Instr) (f : FmtC) (s : State) :
    Host.Outcome State Fault Refusal :=
  issue i (hldShape f)
    (refPre (opd9 f.base) (opd9 f.data) (offC f) 8 false)
    (refEff .refLoad .refLoad (dstOf (opd9 f.d) 2) .none (opd9 f.base) (opd9 f.data) (offC f) 8 (ordC f true)
      (fun _ _ => 0) (fun _ _ => 0)) s

/-- The shape of `hst`. -/
def hstShape (f : FmtC) : Shape :=
  { opcodeBad := badC f true true true [3] [0] [0, 1, 3],
            fields := [idxFld (opd9 f.d) false, hBase (opd9 f.base) f.sbase, hFld (opd9 f.data) false f.sdata] }

/-- `hst`: D is the index. -/
def hstIssue (i : Instr) (f : FmtC) (s : State) :
    Host.Outcome State Fault Refusal :=
  issue i (hstShape f)
    (refPre (opd9 f.base) (opd9 f.d) (offC f) 8 true)
    (refEff .refStore .store .none .none (opd9 f.base) (opd9 f.d) (offC f) 8 (ordC f true)
      (fun c i => refLane c (opd9 f.data) 2 i) (fun _ _ => 0)) s

/-- The shape of `hldf`. -/
def hldfShape (f : FmtC) : Shape :=
  let n := widthBytes f.width
  { opcodeBad := badC f true true true [0, 1, 2, 3] [0] [0, 1, 2],
            fields := [fldDst (opd9 f.d) (bytesWords n), hBase (opd9 f.base) f.sbase, idxFld (opd9 f.data) f.sdata] }

/-- `hldf`. -/
def hldfIssue (i : Instr) (f : FmtC) (s : State) :
    Host.Outcome State Fault Refusal :=
  let n := widthBytes f.width
  issue i (hldfShape f)
    (refPre (opd9 f.base) (opd9 f.data) (offC f) n false)
    (refEff .fieldLoad (.load n false) (dstOf (opd9 f.d) (bytesWords n)) .none (opd9 f.base) (opd9 f.data) (offC f) n
      (ordC f true) (fun _ _ => 0) (fun _ _ => 0)) s

/-- The shape of `hstf`. -/
def hstfShape (f : FmtC) : Shape :=
  let n := widthBytes f.width
  { opcodeBad := badC f true true true [0, 1, 2, 3] [0] [0, 1, 3],
            fields := [idxFld (opd9 f.d) false, hBase (opd9 f.base) f.sbase, fldSrc (opd9 f.data) (bytesWords n) f.sdata] }

/-- `hstf`: D is the index. -/
def hstfIssue (i : Instr) (f : FmtC) (s : State) :
    Host.Outcome State Fault Refusal :=
  let n := widthBytes f.width
  issue i (hstfShape f)
    (refPre (opd9 f.base) (opd9 f.d) (offC f) n true)
    (refEff .fieldStore .store .none .none (opd9 f.base) (opd9 f.d) (offC f) n (ordC f true)
      (fun c i => refLane c (opd9 f.data) (bytesWords n) i) (fun _ _ => 0)) s

/-- The shape of `hcas`. -/
def hcasShape (f : FmtC) : Shape :=
  { opcodeBad := badC f true true true [3] [0] [0, 1, 2, 3, 4],
            fields := [hFld (opd9 f.d) true false, hFld (opd9 f.d) false false, hBase (opd9 f.base) f.sbase,
                       hFld (opd9 f.data) false f.sdata] }

/-- `hcas`: D holds the new value and takes the old one (R400). -/
def hcasIssue (i : Instr) (f : FmtC) (s : State) :
    Host.Outcome State Fault Refusal :=
  issue i (hcasShape f)
    (refPre (opd9 f.base) .zero (offC f) 8 true)
    (refEff .refCas .refLoad (dstOf (opd9 f.d) 2) .none (opd9 f.base) .zero (offC f) 8 (ordC f true)
      (fun c i => refLane c (opd9 f.d) 2 i) (fun c i => refLane c (opd9 f.data) 2 i)) s

/-- The shape of `hcmp`. -/
def hcmpShape (f : FmtA) : Shape :=
  { opcodeBad := badA f true true true false false false false || f.ty != 0,
            fields := [fldDst (opd9 f.d) 1, hFld (opd9 f.a) false (f.strict.getLsbD 0), hFld (opd9 f.b) false (f.strict.getLsbD 1)] }

/-- `hcmp`. -/
def hcmpIssue (i : Instr) (f : FmtA) (s : State) :
    Host.Outcome State Fault Refusal :=
  issue i (hcmpShape f)
    noPre (hcmpEff (opd9 f.d) (opd9 f.a) (opd9 f.b)) s

/-- The shape of `hpin`. -/
def hpinShape (f : FmtA) : Shape :=
  { opcodeBad := (badA { f with b := 0 } true true false false false false false) || f.ty != 0,
            fields := [hFld (opd9 f.d) true false, hBase (opd9 f.a) (f.strict.getLsbD 0),
                       { opd := opd9 f.b, role := .vpair, words := 2, dst := true }] }

/-- `hpin`: an acquire; B is the pair that receives the raw alias (R403). -/
def hpinIssue (i : Instr) (f : FmtA) (s : State) :
    Host.Outcome State Fault Refusal :=
  issue i (hpinShape f)
    (refPre (opd9 f.a) .zero 0 8 true)
    (refEff (.pin true) (.pin true) (dstOf (opd9 f.d) 2) (dstOf (opd9 f.b) 2) (opd9 f.a) .zero 0 8
      { order := .acq, scope := .system, strong := true } (fun c i => refLane c (opd9 f.a) 2 i) (fun _ _ => 0)) s

/-- The shape of `hunpin`. -/
def hunpinShape (f : FmtA) : Shape :=
  { opcodeBad := badA f true true false false false false false || f.ty != 0,
            fields := [hFld (opd9 f.d) true false, hBase (opd9 f.a) (f.strict.getLsbD 0)] }

/-- `hunpin`: a release (R403). -/
def hunpinIssue (i : Instr) (f : FmtA) (s : State) :
    Host.Outcome State Fault Refusal :=
  issue i (hunpinShape f)
    (refPre (opd9 f.a) .zero 0 8 true)
    (refEff (.pin false) (.pin false) (dstOf (opd9 f.d) 2) .none (opd9 f.a) .zero 0 8
      { order := .rel, scope := .system, strong := true } (fun c i => refLane c (opd9 f.a) 2 i) (fun _ _ => 0)) s

/-- The shape of `hnull`. -/
def hnullShape (f : FmtA) : Shape :=
  { opcodeBad := badA f true false false false false false false || f.ty != 0,
            fields := [hFld (opd9 f.d) true false] }

/-- `hnull` (R404). -/
def hnullIssue (i : Instr) (f : FmtA) (s : State) :
    Host.Outcome State Fault Refusal :=
  issue i (hnullShape f) noPre
    (fun c s => .done (writeLanes c (opd9 f.d) 2 (fun _ => nullRef.setWidth 128) s)) s

/-- The shape of `hsize`. -/
def hsizeShape (f : FmtA) : Shape :=
  { opcodeBad := badA f true true false false false false false || f.ty != 0,
            fields := [fldDst (opd9 f.d) 1, hBase (opd9 f.a) (f.strict.getLsbD 0)] }

/-- `hsize` (R404). -/
def hsizeIssue (i : Instr) (f : FmtA) (s : State) :
    Host.Outcome State Fault Refusal :=
  issue i (hsizeShape f)
    (refPre (opd9 f.a) .zero 0 8 false)
    (refEff .size .hsize (dstOf (opd9 f.d) 1) .none (opd9 f.a) .zero 0 8 (.default true) (fun _ _ => 0) (fun _ _ => 0)) s

/-- Whether `hcopy` imports: from a register pair to an h register. -/
def hcopyImport (f : FmtA) : Bool :=
  match opd9 f.d, opd9 f.a with
  | .h _, .h _ => false
  | .h _, _ => true
  | _, _ => false

/-- The shape of `hcopy`: h to h, import, or export. -/
def hcopyShape (f : FmtA) : Shape :=
  { opcodeBad := badA f true true false false false false false || f.ty != 0,
    fields := match opd9 f.d, opd9 f.a with
      | .h d, .h a => [hFld (.h d) true false, hFld (.h a) false (f.strict.getLsbD 0)]
      | .h d, a => [hFld (.h d) true false, { opd := a, role := .pair, words := 2, strict := f.strict.getLsbD 0 }]
      | d, a => [{ opd := d, role := .vpair, words := 2, dst := true }, hFld a false (f.strict.getLsbD 0)] }

/-- `hcopy`: the form is chosen by the operand codes; any other combination raises ILLEGAL_OPERAND (R402). -/
def hcopyIssue (i : Instr) (f : FmtA) (s : State) : Host.Outcome State Fault Refusal :=
  issue i (hcopyShape f) noPre
    (if hcopyImport f then importEff (opd9 f.d) (opd9 f.a) else hcopyEff (opd9 f.d) (opd9 f.a) 2) s

/-! ### `hphase` (R405, R185) -/

/-- The change of a world's colour: the wafer's register takes it at once, and the path waits until every core's copy
holds it. -/
def hphaseEff (a : Opd) (c : Ctx) (s : State) : Res :=
  let x := read32 c.blk c.warp c.ref.wi a 0
  let secure := c.warp.secure && x.getLsbD 8
  let w := waferOf (dkOfCk c.blk.core)
  match fenceEff .wafer true c s with
  | .done s1 =>
    let old := (s1.wafer w).phase.get 0 (worldNum secure)
    let u : UnitOp := { op := s1.nextId, what := 3, dk := dkOfCk c.blk.core, lo := 0, hi := 0, cls := old.toNat,
                        secure := secure, waitReqs := [], cores := [], tag := none, core := c.blk.core,
                        bid := c.ref.bid, wi := c.ref.wi, host := false, phase := 1 }
    let s2 := s1.updWafer w (fun k => { k with phase := k.phase.set (worldNum secure) (x.extractLsb' 0 2) })
    afterWait c { s2 with unitOps := s2.unitOps ++ [u], nextId := s2.nextId + 1 } (.unit u.op)
  | r => r

/-- The shape of `hphase`. -/
def hphaseShape (f : FmtA) : Shape :=
  { opcodeBad := badA f false true false false false false false || f.ty != 0,
            fields := [{ opd := opd9 f.a, role := .usrc, strict := f.strict.getLsbD 0 }], priv := true, gov := false }

def hphaseIssue (i : Instr) (f : FmtA) (s : State) :
    Host.Outcome State Fault Refusal :=
  issue i (hphaseShape f)
    noPre (hphaseEff (opd9 f.a)) s

/-! ### The meanings -/

/-- `hld` (R396-R398). -/
def execHld (s : State) : Host.Outcome State Fault Refusal := withC s (fun f => hldIssue .hld f s)
/-- `hst` (R396-R398). -/
def execHst (s : State) : Host.Outcome State Fault Refusal := withC s (fun f => hstIssue .hst f s)
/-- `hldf` (R399). -/
def execHldf (s : State) : Host.Outcome State Fault Refusal := withC s (fun f => hldfIssue .hldf f s)
/-- `hstf` (R399). -/
def execHstf (s : State) : Host.Outcome State Fault Refusal := withC s (fun f => hstfIssue .hstf f s)
/-- `hcas` (R400). -/
def execHcas (s : State) : Host.Outcome State Fault Refusal := withC s (fun f => hcasIssue .hcas f s)
/-- `hcmp` (R401). -/
def execHcmp (s : State) : Host.Outcome State Fault Refusal := withA s (fun f => hcmpIssue .hcmp f s)
/-- `hpin` (R403, R191). -/
def execHpin (s : State) : Host.Outcome State Fault Refusal := withA s (fun f => hpinIssue .hpin f s)
/-- `hunpin` (R403, R191). -/
def execHunpin (s : State) : Host.Outcome State Fault Refusal := withA s (fun f => hunpinIssue .hunpin f s)
/-- `hnull` (R404). -/
def execHnull (s : State) : Host.Outcome State Fault Refusal := withA s (fun f => hnullIssue .hnull f s)
/-- `hphase` (R405, R185). -/
def execHphase (s : State) : Host.Outcome State Fault Refusal := withA s (fun f => hphaseIssue .hphase f s)
/-- `hcopy` (R402). -/
def execHcopy (s : State) : Host.Outcome State Fault Refusal := withA s (fun f => hcopyIssue .hcopy f s)
/-- `hsize` (R404). -/
def execHsize (s : State) : Host.Outcome State Fault Refusal := withA s (fun f => hsizeIssue .hsize f s)

end Sys2Proof.Machine
end

