-- ==== Sys2Proof/Machine/Relocate.lean ====
section
/-!
DEFINITION. The Orangery (R186-R190, R258): relocation sets, forwarding, the copying of objects, and reference sweeps.
-/

namespace Sys2Proof.Machine

/-! ### Accesses by virtual address -/

/-- The address of a word the Orangery uses, translated in the set's world and in privileged mode, on a page of an admitted
class (R186, R190). -/
def unitXlat (s : State) (w : Nat) (va : DWord) (acc : Access) (secure : Bool) (cls : Nat → Bool) : Option Nat × State :=
  match translate s w va acc true secure with
  | (.ok x, s1) =>
    if !x.host && cls x.attr.cls && frameSecure s1 x.addr == secure then (some x.addr, s1) else (none, s1)
  | (.error _, s1) => (none, s1)

/-- A little-endian number of `n` bytes at a virtual address of class 0, with its home. -/
def unitLoad (s : State) (w : Nat) (va : DWord) (n : Nat) (secure : Bool) : Option (Nat × Nat) × State :=
  match unitXlat s w va .read secure (· == 0) with
  | (some a, s1) => let (v, s2) := s1.unitNat a n; (some (v, homeOf a), s2)
  | (none, s1) => (none, s1)

/-- Bytes written at a virtual address of class 0, where it can be written. -/
def unitStore (s : State) (w : Nat) (va : DWord) (bs : List Byte) (secure : Bool) : State :=
  match unitXlat s w va .write secure (· == 0) with
  | (some a, s1) => s1.unitWrite a bs
  | (none, s1) => s1

/-! ### Reading a relocation set (R186) -/

/-- The managed-heap range of a world (R107). -/
def heapLo (s : State) (w : Nat) (secure : Bool) : Nat := vaddr ((s.wafer w).heapBase.get 0 (worldNum secure))
def heapHi (s : State) (w : Nat) (secure : Bool) : Nat := vaddr ((s.wafer w).heapLimit.get 0 (worldNum secure))

/-- A span record and a forwarding entry as they stand in memory: the number of the span or OLD, the run or NEW, and
whether every reserved field is zero. -/
def spanRec (x : Nat) : Span × Bool :=
  ({ span := bitsOf x 56 16, first := bitsOf x 80 64, count := bitsOf x 109 96, frame := 0 },
   bitsOf x 15 0 == 0 && bitsOf x 63 57 == 0 && bitsOf x 95 81 == 0 && bitsOf x 127 110 == 0 &&
   decide (bitsOf x 80 64 < 65536) && decide (bitsOf x 109 96 ≤ 8192))
def fwdRec (x : Nat) : FwdEnt × Bool :=
  ({ old := bitsOf x 56 0, new := bitsOf x 120 64, state := .uncopied },
   bitsOf x 63 57 == 0 && bitsOf x 127 121 == 0 && bitsOf x 66 64 == 0)

/-- `n` records of 16 bytes; none when one cannot be read or is not homed as asked. -/
def readRecs (w : Nat) (base : DWord) (secure : Bool) (home : Option Nat) (n : Nat) (s : State) :
    Option (List Nat) × State :=
  (List.range n).foldl (fun (acc : Option (List Nat) × State) i =>
    match acc with
    | (none, s) => (none, s)
    | (some l, s) => match unitLoad s w (base + BitVec.ofNat 64 (16 * i)) 16 secure with
      | (some (x, h), s1) => (if home = none ∨ home = some h then some (x :: l) else none, s1)
      | (none, s1) => (none, s1)) (some [], s)

/-- Whether a list of numbers rises strictly. -/
def rises : List Nat → Bool
  | a :: b :: t => decide (a < b) && rises (b :: t)
  | _ => true

/-- The frames of the spans: each is class 1 and homed in `dk` (R186). -/
def spanFrames (w dk : Nat) (secure : Bool) (sps : List Span) (s : State) : Option (List Span) × State :=
  sps.foldl (fun (acc : Option (List Span) × State) sp =>
    match acc with
    | (none, s) => (none, s)
    | (some l, s) => match translate s w (BitVec.ofNat 64 (sp.span * 2 ^ 16)) .read true secure with
      | (.ok x, s1) =>
        (if !x.host && x.attr.cls == 1 && homeOf x.addr == dk then some (l ++ [{ sp with frame := x.addr / 2 ^ 16 }]) else none, s1)
      | (.error _, s1) => (none, s1)) (some [], s)

/-- Where each run begins when the runs follow one another from entry 0; none when one does not. -/
def runsFollow : Nat → List Span → Option Nat
  | n, [] => some n
  | n, sp :: t => if sp.first = n then runsFollow (n + sp.count) t else none

/-- The relation of spans and entries that R186 asks for, apart from pages and classes. -/
def setOk (s : State) (w : Nat) (secure : Bool) (sps : List Span) (ents : List FwdEnt) : Bool :=
  let inHeap (a : Nat) : Bool := decide (heapLo s w secure ≤ a) && decide (a < heapHi s w secure)
  rises (sps.map (·.span)) && runsFollow 0 sps == some ents.length &&
  sps.all (fun sp =>
    inHeap (sp.span * 2 ^ 16) && inHeap (sp.span * 2 ^ 16 + 65535) &&
    (let run := (ents.drop sp.first).take sp.count
     rises (run.map (·.old)) && run.all (fun e => e.old / 2 ^ 16 == sp.span))) &&
  ents.all (fun e => inHeap e.new && !sps.any (fun sp => sp.span == e.new / 2 ^ 16))

/-- The relocation set that a descriptor names, if it is valid (R186). -/
def readSet (s : State) (dk : Nat) (secure : Bool) : Option RelSet × State :=
  let w := waferOf dk
  let desc := (s.domain dk).relset
  if desc.toNat % 64 ≠ 0 then (none, s)
  else match unitLoad s w desc 64 secure with
    | (none, s1) => (none, s1)
    | (some (x, _), s1) =>
      let fwd : DWord := BitVec.ofNat 64 x
      let n := bitsOf x 95 64
      let k := bitsOf x 127 96
      let list : DWord := BitVec.ofNat 64 (x / 2 ^ 128)
      if bitsOf x 511 352 ≠ 0 ∨ n = 0 ∨ 65536 < n ∨ k = 0 ∨ 64 < k ∨ fwd.toNat % 16 ≠ 0 ∨ list.toNat % 16 ≠ 0 then (none, s1)
      else match readRecs w list secure none k s1 with
        | (none, s2) => (none, s2)
        | (some sr, s2) => match readRecs w fwd secure (some dk) n s2 with
          | (none, s3) => (none, s3)
          | (some fr, s3) =>
            let sps := sr.reverse.map spanRec
            let ents := fr.reverse.map fwdRec
            if !(sps.all (·.2) && ents.all (·.2)) || !setOk s3 w secure (sps.map (·.1)) (ents.map (·.1)) then (none, s3)
            else match spanFrames w dk secure (sps.map (·.1)) s3 with
              | (none, s4) => (none, s4)
              | (some l, s4) =>
                (some { desc := desc, fwd := fwd, world := secure, spans := l, entries := ents.map (·.1), next := 0,
                        doneWord := BitVec.ofNat 64 (x / 2 ^ 192), doneVal := BitVec.ofNat 32 (x / 2 ^ 256), busy := true,
                        tokens := [] }, s4)

/-! ### Forwarding (R187, R188) -/

/-- RELSTAT.BUSY. -/
def Domain.relBusy (d : Domain) : Bool := (match d.rel with | some r => r.busy | none => false) || d.sweep.isSome

/-- The set and span in force for a header at a model address. -/
def forwarding (s : State) (hpa : Nat) : Option (RelSet × Span) :=
  match (s.domain (homeOf hpa)).rel with
  | none => none
  | some r => (r.spans.find? (fun sp => sp.frame == hpa / 2 ^ 16)).map (fun sp => (r, sp))

/-- The index of an object's entry in its span's run. -/
def RelSet.entryOf (r : RelSet) (sp : Span) (va : Nat) : Option Nat :=
  (List.range sp.count).findSome? (fun i => match r.entries[sp.first + i]? with
    | some e => if e.old = va then some (sp.first + i) else none
    | none => none)

def FwdState.code : FwdState → Nat | .uncopied => 0 | .copying => 1 | .copied => 2 | .skipped => 3

/-- The set of a domain changed. -/
def State.updRel (s : State) (dk : Nat) (f : RelSet → RelSet) : State :=
  s.updDomain dk (fun d => { d with rel := d.rel.map f })

/-- STATE of an entry, with word 0 written in one strong write (R258). -/
def setFwd (s : State) (dk i : Nat) (st : FwdState) : State :=
  match (s.domain dk).rel with
  | none => s
  | some r => match r.entries[i]? with
    | none => s
    | some e =>
      let s1 := s.updRel dk (fun r => { r with entries := r.entries.set i { e with state := st } })
      unitStore s1 (waferOf dk) (r.fwd + BitVec.ofNat 64 (16 * i)) (bytesOfNat 8 (e.old + st.code * 2 ^ 58)) r.world

/-- The fault-queue record of a destination write of the Orangery (R60). -/
def orangeryRecord (dk : Nat) (r : RelSet) (va : DWord) (code : BitVec 8) : FRec :=
  { addr := va, code := code, kind := 5, world := r.world, entry := 0xFF, source := sourceOf dk, slot := 0xFF, warp := 0xFF,
    grid := 0, lanes := 0 }

/-- The whole object written at NEW, piece by piece: done, a translation fault that waits at the fault queue, or given up
(R187). -/
def writeObject (w : Nat) (r : RelSet) (new : DWord) (bs : List Byte) (s : State) : Except (Option (BitVec 8 × DWord)) Unit × State :=
  (pagePieces (vaddr new) bs.length).foldl (fun (acc : Except (Option (BitVec 8 × DWord)) Unit × State) pc =>
    match acc with
    | (.error e, s) => (.error e, s)
    | (.ok _, s) =>
      let va := new + BitVec.ofNat 64 pc.1
      match translate s w va .write true r.world with
      | (.ok x, s1) =>
        if x.host || frameSecure s1 x.addr != r.world then (.error none, s1)
        else (.ok (), s1.unitWrite x.addr ((bs.drop pc.1).take pc.2))
      | (.error c, s1) => (.error (if c = codeNoPage ∨ c = codePerm then some (c, va) else none), s1)) (.ok (), s)

/-- An object copied, or skipped when it is pinned: step 3 of R187 for one entry. A sector of the object that is poisoned is copied as
its bytes stand, and NEW does not take the poison (DESIGN CHOICE, log 65: the spec is silent). -/
def copyObject (s : State) (dk i : Nat) : State :=
  match (s.domain dk).rel with
  | none => s
  | some r => match r.entries[i]?, r.spans.find? (fun sp => decide (sp.first ≤ i) && decide (i < sp.first + sp.count)) with
    | some e, some sp =>
      let a := sp.frame * 2 ^ 16 + e.old % 2 ^ 16
      let (hdr, s1) := s.unitNat a 8
      if e.state = .uncopied ∧ bitsOf hdr 31 24 ≠ 0 then setFwd s1 dk i .skipped
      else
        let s2 := if e.state = .uncopied then setFwd s1 dk i .copying else s1
        let n := min (8 * (hdr % 2 ^ 13 + 1)) (2 ^ 16 - e.old % 2 ^ 16)
        let (bs, s3) := s2.unitRead a n
        let new : DWord := (BitVec.ofNat 57 e.new).signExtend 64
        match writeObject (waferOf dk) r new (bs.set 3 0) s3 with
        | (.ok _, s4) => setFwd s4 dk i .copied
        | (.error none, s4) => setFwd s4 dk i .skipped
        | (.error (some (c, va)), s4) =>
          let (t, s5) := sendRecord s4 (faultDk (waferOf dk) va) (orangeryRecord dk r va c) (.orangery dk)
          s5.updRel dk (fun r => { r with tokens := r.tokens ++ [(i, t)] })
    | _, _ => s

/-- Whether an entry's destination write waits for a reply. -/
def RelSet.waits (r : RelSet) (i : Nat) : Bool := r.tokens.any (fun x => x.1 == i)

/-- The entry the Orangery takes next: one whose write is to be retried, else the first that nothing has dealt with. -/
def RelSet.nextEntry (r : RelSet) : Option Nat :=
  match r.entries.findIdx? (fun e => e.state == .copying) with
  | some i => some i
  | none => r.entries.findIdx? (fun e => e.state == .uncopied)

/-- The end of a set: the counts, DONEWORD, RELSTAT (R187 step 4). -/
def endSet (s : State) (dk : Nat) (r : RelSet) : State :=
  let n (st : FwdState) : Nat := (r.entries.filter (fun e => e.state == st)).length
  let w := waferOf dk
  let s1 := unitStore s w (r.desc + 0x24) (bytesOfNat 4 (n .copied) ++ bytesOfNat 4 (n .skipped)) r.world
  let s2 := if r.doneWord = 0 then s1 else unitStore s1 w r.doneWord (bytesOfNat 4 r.doneVal.toNat) r.world
  s2.updDomain dk (fun d => { d with relDone := true, rel := some { r with busy := false } })

/-- Whether the Orangery can take a step of its set. -/
def copyDue (s : State) (dk : Nat) : Bool :=
  match (s.domain dk).rel with | some r => r.busy && r.tokens == [] | none => false

/-- The next entry copied or skipped, or the end of the set. -/
def orangeryStep (s : State) (dk : Nat) : State :=
  match (s.domain dk).rel with
  | none => s
  | some r =>
    if r.busy = false ∨ r.tokens ≠ [] then s
    else match r.nextEntry with
      | some i => copyObject s dk i
      | none => endSet s dk r

/-- RELCMD.START (R186, R187 steps 1 and 2): a valid set begins, its spans forward and every visitor copy of their lines is
recalled, replicas as well. -/
def relStart (s : State) (dk : Nat) (secure : Bool) : State :=
  if (s.domain dk).relBusy then s
  else match readSet s dk secure with
    | (none, s1) => s1.updDomain dk (fun d => { d with relErr := true })
    | (some r, s1) =>
      let s2 := s1.updDomain dk (fun d => { d with rel := some r })
      r.spans.foldl (fun s sp => recallFrame s (sp.frame * 2 ^ 16) (2 ^ 16)) s2

/-- RELCMD.RETIRE while not busy ends the forwarding of the last set (R189). -/
def relRetire (s : State) (dk : Nat) : State :=
  if (s.domain dk).relBusy then s else s.updDomain dk (fun d => { d with rel := none })

/-! ### Reference sweeps (R190) -/

/-- RELCMD.SWEEP while not busy. -/
def sweepStart (s : State) (dk : Nat) (secure : Bool) : State :=
  if (s.domain dk).relBusy then s
  else
    let good := (s.wafer (waferOf dk)).phase.get 0 (worldNum secure)
    let sw : Sweep := { rec_ := (s.domain dk).relsweep, word := 0, world := secure, good := good, written := 0, skipped := 0 }
    s.updDomain dk (fun d => { d with sweep := some sw })

/-- The domain, set and span that forward a virtual address, on a wafer. -/
def forwardingOf (s : State) (w va : Nat) : Option (Nat × RelSet × Span) :=
  (domainsOf w).findSome? (fun dk => match (s.domain dk).rel with
    | none => none
    | some r => (r.spans.find? (fun sp => sp.span == va / 2 ^ 16)).map (fun sp => (dk, r, sp)))

/-- What a resolve gives for a header: its present address, an entry to be copied first, or a wait (R188). -/
inductive Resolved where
  | at_ (va : Nat)
  | copy (dk i : Nat)
  | wait
  deriving DecidableEq, Repr

def resolveIn (dk : Nat) (r : RelSet) (sp : Span) (va : Nat) : Resolved :=
  match r.entryOf sp va with
  | none => .at_ va
  | some i => match r.entries[i]? with
    | none => .at_ va
    | some e => match e.state with
      | .uncopied => .copy dk i
      | .copying => .wait
      | .copied => .at_ e.new
      | .skipped => .at_ va

/-- A header's address resolved through the sets in force on a wafer, one after another (R182, R188): at most as many as there are
domains. -/
def resolveFrom (s : State) (w : Nat) : Nat → Nat → Resolved
  | 0, va => .at_ va
  | fuel + 1, va => match forwardingOf s w va with
    | none => .at_ va
    | some (dk, r, sp) => match resolveIn dk r sp va with
      | .at_ a => if a = va then .at_ a else resolveFrom s w fuel a
      | x => x
def resolveVa (s : State) (w va : Nat) : Resolved := resolveFrom s w Config.domains va

/-- The address at which an object stands after each set in force, without copying: one that has still to be copied stands where it
is (R182). -/
def standsAt (s : State) (w : Nat) : Nat → Nat → Nat
  | 0, va => va
  | fuel + 1, va => match forwardingOf s w va with
    | none => va
    | some (dk, r, sp) => match resolveIn dk r sp va with
      | .at_ a => if a = va then a else standsAt s w fuel a
      | _ => va

/-- The address a non-null reference names (R182). -/
def identityVa (s : State) (w : Nat) (r : DWord) : Nat := standsAt s w Config.domains (vaddr (refAddr r))

/-- The sweep's end: the ending record, where it can be written, and RELSTAT. -/
def sweepEnd (s : State) (dk : Nat) (sw : Sweep) (record err : Bool) : State :=
  let w := waferOf dk
  let s1 := if record then
      unitStore (unitStore s w sw.rec_ (bytesOfNat 8 sw.written) sw.world) w (sw.rec_ + 12) (bytesOfNat 4 sw.skipped) sw.world
    else s
  s1.updDomain dk (fun d => { d with sweep := none, relSwept := true, relErr := d.relErr || err })

/-- The sweep moves to the next word of its record, or to the next record. -/
def Sweep.next (sw : Sweep) (words : Nat) : Sweep :=
  if sw.word + 1 = words then { sw with rec_ := sw.rec_ + 16, word := 0 } else { sw with word := sw.word + 1 }

/-- One listed word: read, resolved where it is stale or forwarded, and rewritten when the reference differs. A reference whose ADDR
lies in no forwarding span keeps ADDR, which is not translated (DESIGN CHOICE, log 66). -/
def sweepAt (s : State) (dk : Nat) (sw : Sweep) (va : DWord) (words : Nat) : State :=
  let w := waferOf dk
  let go (s : State) (sw : Sweep) : State := s.updDomain dk (fun d => { d with sweep := some (sw.next words) })
  let skip (s : State) : State := go s { sw with skipped := sw.skipped + 1 }
  match unitXlat s w va .read sw.world (fun c => c == 0 || c == 1) with
  | (none, s1) => skip s1
  | (some a, s1) =>
    let (v, s2) := s1.unitNat a 8
    let r : DWord := BitVec.ofNat 64 v
    let here := (forwardingOf s2 w (vaddr (refAddr r))).any (fun x => x.1 == dk)
    if refNull r || (refColour r == sw.good && !here) then go s2 sw
    else match (if refOwned r then resolveVa s2 w (vaddr (refAddr r)) else .at_ (vaddr (refAddr r))) with
      | .wait => s
      | .copy dk' i => copyObject s2 dk' i
      | .at_ b =>
        let h := healRef r sw.good (BitVec.ofNat 64 b)
        if h = r then go s2 sw
        else match unitXlat s2 w va .rmw sw.world (fun c => c == 0 || c == 1) with
          | (none, s3) => skip s3
          | (some a', s3) => go (s3.unitWrite a' (bytesOfNat 8 h.toNat)) { sw with written := sw.written + 1 }

/-- A step of the sweep. -/
def sweepStep (s : State) (dk : Nat) : State :=
  match (s.domain dk).sweep with
  | none => s
  | some sw => match unitLoad s (waferOf dk) sw.rec_ 16 sw.world with
    | (none, s1) => sweepEnd s1 dk sw false true
    | (some (x, _), s1) =>
      let words := bitsOf x 95 64
      if bitsOf x 2 0 ≠ 0 ∨ bitsOf x 63 57 ≠ 0 ∨ (words ≠ 0 ∧ bitsOf x 127 96 ≠ 0) then sweepEnd s1 dk sw true true
      else if words = 0 then sweepEnd s1 dk sw true false
      else sweepAt s1 dk sw (((BitVec.ofNat 57 x).signExtend 64) + BitVec.ofNat 64 (8 * sw.word)) words

/-- Whether a sweep can take a step: its word is not held behind an object being copied. -/
def sweepDue (s : State) (dk : Nat) : Bool := (s.domain dk).sweep.isSome && decide (sweepStep s dk ≠ s)

/-! ### The meanings -/

/-- RELCMD.START (R186, R187). -/
def execRelcmdStart (s : State) : Host.Outcome State Fault Refusal := event (fun a s => relStart s a.k a.flag) s
/-- RELCMD.RETIRE (R189). -/
def execRelcmdRetire (s : State) : Host.Outcome State Fault Refusal := event (fun a s => relRetire s a.k) s
/-- RELCMD.SWEEP (R190). -/
def execRelcmdSweep (s : State) : Host.Outcome State Fault Refusal := event (fun a s => sweepStart s a.k a.flag) s
/-- The Orangery's next entry (R187). -/
def execOrangeryCopy (s : State) : Host.Outcome State Fault Refusal := event (fun a s => orangeryStep s a.k) s
/-- The sweep's next word (R190). -/
def execSweepWord (s : State) : Host.Outcome State Fault Refusal := event (fun a s => sweepStep s a.k) s

end Sys2Proof.Machine
end

