-- ==== Sys2Proof/Machine/Home.lean ====
section
/-!
DEFINITION. The memory system's side of a request: translation at the owner (R115-R119), routing (R144, R146), the home slice
(R129, R142-R151, R156), read-modify-writes and reference accesses there (R180, R188, R391, R397-R404), and the messages of the
coherence protocol (R147-R150).
-/

namespace Sys2Proof.Machine

/-! ### What a request asks -/

/-- Whether a request goes by an object's header (R180, R188). -/
def ReqKind.byHeader : ReqKind → Bool
  | .refLoad | .refStore | .refCas | .fieldLoad | .fieldStore | .resolve | .heal | .pin _ | .size => true
  | _ => false

/-- The address that is translated: the header of an object, or the access's own (R397). -/
def Req.target (r : Req) : DWord := if r.kind.byHeader then r.obj else r.va

/-- The model address of the bytes accessed: a field lies in its header's page (R180). -/
def Req.fieldPa (r : Req) : Nat := if r.kind.byHeader then r.pa + vaddr r.va - vaddr r.obj else r.pa

/-- The kind of access, as the leaf's permission bits see it (R246). -/
def Req.access (r : Req) : Access :=
  match r.kind with
  | .store | .refStore | .fieldStore | .red _ => .write
  | .rmw _ | .refCas | .heal | .pin _ => .rmw
  | .fetch => .fetch
  | _ => .read

/-- What a page's class refuses (R124, R391, R397). -/
def classFault (k : ReqKind) (cls : Nat) : Option (BitVec 8) :=
  match k with
  | .resolve | .heal => none
  | .rmw op | .red op => if cls = 1 then some codeHeapClass
      else if cls = 2 ∧ rmwOf op = .fadd then some codeAtomicClass else none
  | k => if k.byHeader then (if cls = 1 then none else some codeHeapClass) else (if cls = 1 then some codeHeapClass else none)

/-- Whether the request's instruction takes a value back. -/
def wantsValue (s : State) (r : Req) : Bool :=
  match s.pend? r.tag with
  | some p => p.kind != .store
  | none => r.kind.reads && !r.kind.writes

/-! ### The ends of a request -/

/-- The transactions that a request holds open are closed. -/
def closeTrans (s : State) (r : Req) : State :=
  let dk := homeOf r.pa
  match (s.domain dk).trans.filter (fun t => t.req == some r.id) with
  | [] => s
  | ts => ts.foldl (fun s t => s.tidyDir t.pline)
      (s.updDomain dk (fun d => { d with trans := d.trans.filter (fun t => t.req != some r.id) }))

/-- A request ends in a fault on its way to the core (R56, R62). A prefetch and a heal raise nothing (R183, R387); a drained
line faults for each store in it. -/
def faultReq (s : State) (r : Req) (code : BitVec 8) (logged : Bool) : State :=
  let s0 := closeTrans s r
  match r.kind with
  | .prefetch | .heal => s0.dropReq r.id
  | _ =>
    if r.pieces = [] then s0.updReq r.id (fun _ => { r with stage := .faulted code logged })
    else r.pieces.foldl (fun s p => s.addReq
      { r with tag := p.tag, bid := p.bid, wi := p.wi, lane := p.lane, va := p.va, size := p.bytes.length,
               data := BitVec.ofNat 128 (natOfBytes p.bytes), pieces := [], stage := .faulted code logged })
      (dropDrained (s0.dropReq r.id) r.core r.id)

/-- The answer sets out for the core. -/
def answerReq (s : State) (r : Req) (v : BitVec 128) (line : List Byte) : State :=
  let s0 := closeTrans s r
  let q : Req := { r with stage := .answered, value := v, line := line, seq := s0.nextId }
  { s0 with nextId := s0.nextId + 1 }.updReq r.id (fun _ => q)

/-- The acknowledgement sets out for the core; a drained entry leaves the write buffer. -/
def ackReq (s : State) (r : Req) : State :=
  let s0 := closeTrans s r
  let s1 := if r.pieces = [] then s0 else dropDrained s0 r.core r.id
  s1.updReq r.id (fun _ => { r with stage := .acked })

/-- A value or an acknowledgement, as the instruction asks. -/
def doneReq (s : State) (r : Req) (v : BitVec 128) : State := if wantsValue s r then answerReq s r v [] else ackReq s r

/-- What a load takes from a line image at the moment it is read, F(R): an ordinary one sees the core's buffered stores, its own
later ones apart (R140, R168). -/
def loadSees (s : State) (r : Req) (img : List Byte) : BitVec 128 :=
  let keep (p : Piece) : Bool := !(p.bid == r.bid && p.wi == r.wi && p.lane == r.lane && decide (r.tag < p.tag))
  let seen := if r.strong then img else (s.core r.core).overlay (vlineOf r.va) keep img
  BitVec.ofNat 128 (natOfBytes (lineSlice seen (r.pa % 128) r.size))

/-- The image with which a load fills the L1 line: it holds every store the core has issued to it (R140). -/
def lineFill (s : State) (r : Req) (img : List Byte) : List Byte := (s.core r.core).overlay (vlineOf r.va) (fun _ => true) img

/-- A load answered from a line image. -/
def loadAnswer (s : State) (r : Req) (img : List Byte) (fill : Bool) : State :=
  answerReq s r (loadSees s r img) (if fill then lineFill s r img else [])

/-! ### Routing (R144, R146) -/

/-- A drained line's stores laid over a line image. -/
def drainInto (bs : List Byte) (ps : List Piece) : List Byte := ps.foldl (fun b p => lineWrite b p.off p.bytes) bs
/-- The sectors a drained line makes dirty. -/
def drainDirty (ps : List Piece) : BitVec 4 := ps.foldl (fun d p => d ||| sectorsOf p.off p.bytes.length) 0

/-- A drained line written into a visitor copy, which becomes M (R144, R151). -/
def drainVisitor (s : State) (dk : Nat) (v : VLine) (r : Req) : State :=
  ackReq (s.putVis dk { v with state := .m, bytes := drainInto v.bytes r.pieces, dirty := v.dirty ||| drainDirty r.pieces }) r

/-- A translated request sets out: to the visitor partition's copy, or for the home (R144, R146, R151, R158); lines of a forwarding
span are served at their home alone (R187). -/
def routeReq (s : State) (r : Req) : State :=
  let own := dkOfCk r.core
  let put (s : State) (st : Stage) : State := s.updReq r.id (fun _ => { r with stage := st })
  if ownerOf r.target = 61 then put s .remote
  else
    let ordinary : Bool := !r.strong && (r.kind == .load || r.kind == .prefetch || (r.kind == .store && r.pieces != []))
    if homeOf r.pa = own ∨ ordinary = false ∨ (s.domain own).visitor = 0 ∨ (forwarding s r.pa).isSome = true then put s .toHome
    else
      let cp := s.vis? own (r.pa / 128)
      if r.kind = .store then
        match cp with
        | some v =>
          if v.state = .e ∨ v.state = .m ∨ (v.cls = 3 ∧ v.state ≠ .r) then drainVisitor s own v r
          else if v.state = .r then put (s.dropVis own v.pline) .ownership
          else put s .ownership
        | none => if r.hint = 1 ∨ r.hint = 2 then put s .toHome else put s .ownership
      else match cp with
        | some v => loadAnswer s r v.bytes true
        | none => put s .visitorRead

/-! ### Translation at the owner (R115-R119, R128, R152) -/

/-- A request waits for a walk of its page: one in progress, or one that begins (R118). Of a page whose entry is not held the size
is taken from the table as it stands (log 67). -/
def startWalk (s : State) (r : Req) (dk off : Nat) : State :=
  let key := (pageAt s dk off).1 / 2 ^ 16
  (s.updReq r.id (fun _ => { r with stage := .walking key })).updDomain dk (fun d =>
    if d.walks.any (fun x => x.1 == key) then d else { d with walks := d.walks ++ [(key, d.rootOf false)] })

/-- A request meets its leaf: permission, world and class, the accessed and dirty bits (R118, R119, R124, R125). The bits are set
before the class is looked at (DESIGN CHOICE, log 25). An entry that memory no longer holds starts the walk again (R118). -/
def acceptReq (s : State) (r : Req) (dk off : Nat) (l : Leaf) : State :=
  match applyLeaf s dk off false l r.access r.priv r.secure with
  | (.fault e, s1) => faultReq s1 { r with attr := { r.attr with size := l.size } } e (e == codePerm)
  | (.stale, s1) => startWalk (s1.updDomain dk (fun d => { d with tlb := d.tlb.filter (fun x => x.lpa != l.addr || x.moving) })) r dk off
  | (.ok x, s1) =>
    match classFault r.kind x.attr.cls with
    | some e => faultReq s1 r e false
    | none =>
      let q : Req := { r with pa := x.addr, attr := x.attr }
      routeReq s1 { q with attr := { x.attr with pline := q.fieldPa / 128 } }

/-- Whether two addresses of the requests of one core lie in one page (R116). -/
def samePage (s : State) (w : Nat) (a b : DWord) : Bool :=
  let x := translator w a
  let y := translator w b
  x.1 == y.1 && (pageAt s x.1 x.2).1 == (pageAt s x.1 y.2).1

/-- Whether a request may be translated now: what must come first has, a data slot is free (R228), and no request of the core to
the page is at the TLB (R116). -/
def translateDue (s : State) (r : Req) : Bool :=
  r.stage == .toOwner && mayProceed s r && decide (slotsHeld s r.core < 32) &&
  !s.reqs.any (fun q => q.core == r.core && q.id != r.id && (match q.stage with | .walking _ | .heldOwner => true | _ => false) &&
    samePage s (waferOf (dkOfCk r.core)) q.target r.target)

/-- A request held at its owner, in the order of arrival (R128, R152). -/
def holdOwner (s : State) (r : Req) : State :=
  { s with nextId := s.nextId + 1 }.updReq r.id (fun _ => { r with stage := .heldOwner, seq := s.nextId })

/-- A request reaches its owner's TLB. Owner 56 is D0's bridge; an unreachable wafer is LINK_DOWN (R112, R113). -/
def translateReq (s : State) (r : Req) : State :=
  let w := waferOf (dkOfCk r.core)
  let va := r.target
  if ownerOf va = 56 then
    (if 2 ^ 50 ≤ offsetOf va ∧ apertureOff va = none then faultReq s r codeNoPage true
     else s.updReq r.id (fun r => { r with stage := .bridge }))
  else if ownerOf va = 61 ∧ podReach s w (podWafer va) = false then faultReq s r codeLinkDown false
  else
    let (dk, off) := translator w va
    if heldAtOwner s dk off then holdOwner s r
    else match tlbFind (s.domain dk) off with
      | some e => acceptReq s r dk off { entry := e.leaf.toNat, addr := e.lpa, size := e.size }
      | none => startWalk s r dk off

/-- The requests that wait for a walk. -/
def walkWaiters (s : State) (dk key : Nat) : List Req :=
  s.reqs.filter (fun r => r.stage == .walking key && (translator (waferOf (dkOfCk r.core)) r.target).1 == dk)

/-- A walk ends, from the root it started from: the entry is installed, or not present is reported, to every request that waits; of
the walks waiting the first 16 run (R118, R252). -/
def walkDone (s : State) (dk key : Nat) : State :=
  match ((s.domain dk).walks.take 16).find? (fun x => x.1 == key) with
  | none => s
  | some wk =>
    let s0 := s.updDomain dk (fun d => { d with walks := d.walks.filter (fun x => x.1 != key) })
    let s1 := match walkRoot s0 dk (key * 2 ^ 16) false wk.2 with
      | (some l, s1) => tlbPut s1 dk (key * 2 ^ 16) l
      | (none, s1) => s1
    (walkWaiters s dk key).foldl (fun s r =>
      let o := (translator (waferOf (dkOfCk r.core)) r.target).2
      if heldAtOwner s dk o then holdOwner s r
      else match tlbFind (s.domain dk) o with
        | some e => acceptReq s r dk o { entry := e.leaf.toNat, addr := e.lpa, size := e.size }
        | none => match walkRoot s dk o false wk.2 with
          | (some l, s1) => acceptReq (tlbPut s1 dk o l) r dk o l
          | (none, s1) => faultReq s1 r codeNoPage true) s1

/-! ### Transactions and probes (R147-R149, R156) -/

/-- The bytes a request touches, as address and length. -/
def Req.extent (r : Req) : Nat × Nat :=
  if r.pieces != [] || r.kind == .prefetch then (r.pa / 128 * 128, 128) else (r.fieldPa, r.size)

/-- The lines a request touches at its home: those of its bytes, and of an object's header. -/
def Req.lines (r : Req) : List Nat := [r.extent.1 / 128, if r.kind.byHeader then r.pa / 128 else r.extent.1 / 128]

/-- Whether a request stands at its home. -/
def Stage.atHome : Stage → Bool
  | .toHome | .visitorRead | .ownership | .remote => true
  | _ => false

/-- The host reads of a line's halves that wait (R148). -/
def hostWaits (s : State) (pl : Nat) : List Nat :=
  let w := pl * 128 / 2 ^ 52 % 16
  ((s.wafer w).hostReads.filter (fun h => devAddr w (64 * h.1) / 128 == pl)).map (fun h => h.2.2)

/-- Whether another request or host read of one of a request's lines came before it: the requests that wait at a home are served in
the order in which they came (R51, R148, R188). -/
def behindOthers (s : State) (r : Req) : Bool :=
  let n := r.arrived.getD s.nextId
  s.reqs.any (fun q => q.id != r.id && q.stage.atHome && (match q.arrived with | some a => decide (a < n) | none => false) &&
    q.lines.any (fun pl => r.lines.contains pl)) ||
  r.lines.any (fun pl => (hostWaits s pl).any (fun a => decide (a < n)))

/-- A request takes its place in the arrival order of its home. -/
def takePlace (s : State) (r : Req) : State :=
  match r.arrived with
  | some _ => s
  | none => { s with nextId := s.nextId + 1 }.updReq r.id (fun q => { q with arrived := some s.nextId })

/-- A request waits at its home. -/
def waitHome (s : State) (r : Req) : Option State := if r.arrived.isSome then none else some (takePlace s r)

/-- Whether a transaction still holds its line: probes unanswered, or its request not yet performed. -/
def transOpen (s : State) (t : Trans) : Bool :=
  t.waitFor != [] || (match t.req with | some id => (s.req? id).any (fun r => r.stage.isOpen) | none => false)

/-- Whether a line's requests queue behind another transaction, or behind a writeback from the requester's own domain. -/
def lineHeld (s : State) (pl id dk : Nat) : Bool :=
  (s.domain (homeOfLine pl)).trans.any (fun t => t.pline == pl && transOpen s t && !(t.req == some id && t.waitFor == [])) ||
  s.msgs.any (fun m => match m.body with | .writeback p d _ _ => p == pl && d == dk | _ => false)

/-- A transaction opened: a probe to each target, SEQ advanced by one for each (R149). -/
def openTrans (s : State) (e : DirEnt) (targets : List Nat) (inval : Bool) (id : Option Nat) : State :=
  let wf := (List.range targets.length).map (fun i => (targets.getD i 0, e.seq + BitVec.ofNat 8 (i + 1)))
  let s1 := s.putDir { e with seq := e.seq + BitVec.ofNat 8 targets.length }
  let s2 := wf.foldl (fun s x => s.send (.probe e.pline x.1 inval x.2)) s1
  s2.updDomain (homeOfLine e.pline) (fun d =>
    { d with trans := d.trans.filter (fun t => !(t.pline == e.pline && t.req == id)) ++
        [{ pline := e.pline, req := id, waitFor := wf, inval := inval }] })

/-- What a request needs before it is performed: a wait, an action towards it, or nothing. -/
inductive Prep where
  | wait
  | act (s : State)
  | ready
  deriving DecidableEq, Repr

def Prep.then (p : Prep) (q : Unit → Prep) : Prep := match p with | .ready => q () | p => p

/-- The recall of a line's copies: of an owned one for a read, of all for a write; `keep` is a copy left alone (R144). -/
def prepLine (s : State) (r : Req) (pl : Nat) (write : Bool) (keep : Option Nat) : Prep :=
  if lineHeld s pl r.id (dkOfCk r.core) then .wait
  else match s.dir? pl with
    | none => .ready
    | some e =>
      let hs := (if write || e.owned then e.holders else []).filter (fun d => some d != keep)
      if hs = [] then .ready else if seqRoom s pl hs.length then .act (openTrans s e hs write (some r.id)) else .wait

/-- Room in the directory for a grant of a line: with none free in its set the least recently used entry is recalled first, by
probes; a grant whose SEQ would run 128 past an open probe waits (R147, R149). -/
def prepRoom (s : State) (pl : Nat) : Prep :=
  if !seqRoom s pl 1 then .wait
  else match (if (s.dir? pl).isSome then none else dirVictim s pl) with
    | none => .ready
    | some e =>
      if s.lineBusy e.pline then .wait
      else if e.holders = [] then .act (s.putDir { e with sharers := 0 })
      else if seqRoom s e.pline e.holders.length then .act (openTrans s e e.holders true none) else .wait

/-- The halves of window lines that the host holds against a request (R156): a load names its whole line, a write what it
writes. -/
def windowNeeds (s : State) (r : Req) : List Nat :=
  if r.attr.cls ≠ 2 then []
  else if r.kind.writes = false then winNeeds s (r.extent.1 / 128 * 128) 128 false
  else if r.pieces = [] then winNeeds s r.extent.1 r.extent.2 true
  else (r.pieces.flatMap (fun p => winNeeds s (r.pa / 128 * 128 + p.off) p.bytes.length true)).eraseDups

/-- The snoops a window line needs (R156). -/
def prepSnoops (s : State) (r : Req) (hs : List Nat) (write : Bool) : Prep :=
  if hs = [] then .ready
  else
    let w := r.pa / 2 ^ 52 % 16
    if hs.all (fun h => (s.wafer w).snoops.any (fun e => e.1 == h && (e.2.1 || !write))) then .wait
    else .act (addSnoops s w hs write)

/-! ### The home slice (R115, R129, R142, R180, R391, R397-R404) -/

/-- Whether the header of an object is touched as well as the field, and whether it is written. -/
def prepHome (s : State) (r : Req) : Prep :=
  let x := r.extent
  let wr := r.kind.writes
  let hdr : Prep := if r.kind.byHeader && r.pa / 128 != x.1 / 128 then prepLine s r (r.pa / 128) false none else .ready
  hdr.then (fun _ => (prepLine s r (x.1 / 128) wr none).then (fun _ => prepSnoops s r (windowNeeds s r) wr))

/-- The page lock of a migration at the home of an address (R128, R129). -/
def pageLocked (s : State) (a : Nat) : Bool :=
  (s.domain (homeOf a)).pageLocks.any (fun (l : Nat × Nat × Nat) => decide (l.1 ≤ a) && decide (a < l.1 + l.2.1))

/-- A request that the page lock holds: a write, or a read behind a held write of its line (R129). -/
def lockHolds (s : State) (r : Req) : Bool :=
  pageLocked s r.pa && (r.kind.writes || r.stage == .ownership ||
    s.reqs.any (fun q => q.stage == .heldHome && q.extent.1 / 128 == r.extent.1 / 128))

/-- A request held at its home, in the order of holding (R129). -/
def holdHome (s : State) (r : Req) : State :=
  let s1 := (closeTrans s r).updReq r.id (fun r => { r with stage := .heldHome, seq := s.nextId, arrived := none })
  { s1 with nextId := s1.nextId + 1 }

/-- A request sent on from an old home waits for those of its line sent on before it (R128 step 5). -/
def behindForward (s : State) (r : Req) : Bool :=
  s.domains.any (fun e => e.2.migs.any (fun m => m.phase == 3 && m.fwd.contains r.id &&
    (m.fwd.takeWhile (· != r.id)).any (fun i => match s.req? i with
      | some q => q.stage.isOpen && q.extent.1 / 128 == r.extent.1 / 128
      | none => false)))


/-- The checks of a field access against the header (R180). -/
def fieldBad (hdr : Nat) (r : Req) : Bool :=
  let off := vaddr r.va - vaddr r.obj
  let size := 8 * (hdr % 2 ^ 13 + 1)
  (match r.kind with
    | .pin _ | .size | .resolve => false
    | _ => decide (vaddr r.va < vaddr r.obj + 8) || decide (size < off + r.size) ||
           decide (2 ^ 16 < vaddr r.obj % 2 ^ 16 + size))

/-- What the home refuses: the frame's world, and a poisoned sector that is read (R70, R125). An object's header is read first, and a
field that it does not hold is REF_BAD with no byte of the field read (R180). -/
def homeFault (s : State) (r : Req) : Option (BitVec 8) :=
  let x := r.extent
  if frameSecure s r.pa ≠ r.secure then some codeWorld
  else if r.kind = .prefetch then none
  else if r.kind.byHeader = true ∧ s.poisoned r.pa 8 = true then some codeEcc
  else if r.kind.byHeader = true ∧ fieldBad (natOfBytes (memRead s.mem r.pa 8)) r = true then some codeRefBad
  else if r.kind.reads = true ∧ s.poisoned x.1 x.2 = true then some codeEcc else none

/-- Whether two references name the same object (R182, R400). -/
def sameObject (s : State) (w : Nat) (a b : DWord) : Bool :=
  (refNull a && refNull b) ||
  (!refNull a && !refNull b && identityVa s w a == identityVa s w b)

/-- A pin count changed, or REF_BAD when it cannot be (R191, R403). -/
def pinHome (s : State) (r : Req) (up : Bool) (hdr : Nat) : State :=
  let n := bitsOf hdr 31 24
  if (up && n == 255) || (!up && n == 0) then faultReq s r codeRefBad false
  else answerReq (s.storeBytes (r.pa + 3) (bytesOfNat 1 (if up then n + 1 else n - 1))) r 0 []

/-- Whether a strong 128-bit access has still to be performed in two halves, between which there is no order (R159). -/
def Req.splits (r : Req) : Bool := r.size == 16 && r.strong && r.pieces == [] && (r.kind == .load || r.kind == .store) && r.half.isNone

/-- The first half of a 128-bit access performed, either one; the other comes at a turn of its own. -/
def firstHalf (s : State) (r : Req) : State :=
  let (k, s1) := s.choose 2
  let up := k == 1
  let a := r.pa + (if up then 8 else 0)
  let got : BitVec 128 := BitVec.ofNat 128 (natOfBytes (memRead s1.mem a 8)) <<< (if up then 64 else 0)
  let s2 := if r.kind = .store then s1.storeBytes a (bytesOfNat 8 ((r.data >>> (if up then 64 else 0)).toNat)) else s1
  (closeTrans s2 r).updReq r.id (fun _ => { r with half := some up, value := got, arrived := none })

/-- The other half performed, and the access ended. -/
def lastHalf (s : State) (r : Req) (up : Bool) : State :=
  let a := r.pa + (if up then 0 else 8)
  if r.kind = .store then ackReq (s.storeBytes a (bytesOfNat 8 ((r.data >>> (if up then 0 else 64)).toNat))) r
  else answerReq s r (r.value ||| (BitVec.ofNat 128 (natOfBytes (memRead s.mem a 8)) <<< (if up then 0 else 64))) []

/-- An access performed at its home, once its copies have been recalled. -/
def performHome (s : State) (r : Req) : State :=
  let a := r.fieldPa
  match homeFault s r with
  | some e => faultReq s r e false
  | none =>
    let old : Nat := natOfBytes (memRead s.mem a r.size)
    let hdr : Nat := natOfBytes (memRead s.mem r.pa 8)
    let put (s : State) (x : BitVec 128) : State := s.storeBytes a (bytesOfNat r.size x.toNat)
    if r.splits then firstHalf s r
    else match r.half with
    | some up => lastHalf s r up
    | none => match r.kind with
      | .store =>
        if r.pieces = [] then ackReq (put s r.data) r
        else ackReq (s.storeRuns (r.pa / 128 * 128) (r.pieces.map (fun p => (p.off, p.bytes)))) r
      | .rmw op | .red op =>
        let x := rmwNew (rmwOf op) r.size false (BitVec.ofNat 64 old) r.cmp (r.data.setWidth 64)
        doneReq (put s (x.1.setWidth 128)) r (BitVec.ofNat 128 old)
      | .refStore | .fieldStore => ackReq (put s r.data) r
      | .refLoad | .fieldLoad => answerReq s r (BitVec.ofNat 128 old) []
      | .refCas =>
        let v : DWord := BitVec.ofNat 64 old
        let s1 := if sameObject s (waferOf (dkOfCk r.core)) v r.cmp then put s r.data else s
        answerReq s1 r (v.setWidth 128) []
      | .heal =>
        let s1 := if BitVec.ofNat 64 old = r.cmp then put s r.data else s
        (closeTrans s1 r).dropReq r.id
      | .pin up => pinHome s r up hdr
      | .size => answerReq s r (BitVec.ofNat 128 hdr) []
      | .resolve => answerReq s r (r.obj.setWidth 128) []
      | _ =>
        let pl := r.pa / 128
        loadAnswer s r (s.lineBytes pl) (!s.poisoned (pl * 128) 128)

/-- A request at its home slice: held by the page lock, on the way to being performed, or performed. No answer: it waits. -/
def homeTurn (s : State) (r : Req) : Option State :=
  if lockHolds s r then some (holdHome s r)
  else if behindForward s r then none
  else if behindOthers s r then waitHome s r
  else match prepHome s r with
    | .wait => waitHome s r
    | .act s1 => some (takePlace s1 r)
    | .ready => some (performHome (if r.half.isSome then s else countHot s r.pa r.core) r)

/-! ### Objects in forwarding spans (R188) -/

/-- Which event performs a request at its home. -/
inductive HomeKind where
  | slice | rmw | resolve | heal
  deriving DecidableEq, Repr

def homeKind (s : State) (r : Req) : HomeKind :=
  match r.kind with
  | .heal => .heal
  | .resolve => .resolve
  | .rmw _ | .red _ => .rmw
  | k => if k.byHeader && (forwarding s r.pa).isSome then .resolve
         else (match k with | .refCas | .pin _ => .rmw | _ => .slice)

/-- The request goes on to the object's new address; a resolve request is answered with it (R188), and goes on only where another
set forwards that address in its turn (R182). -/
def forwardReq (s : State) (r : Req) (new : Nat) : State :=
  let o : DWord := (BitVec.ofNat 57 new).signExtend 64
  let q : Req := { r with obj := o, va := o + (r.va - r.obj), stage := .toOwner, arrived := none }
  if r.kind = .resolve ∧ (forwardingOf s (waferOf (homeOf r.pa)) new).isNone = true then answerReq s r (o.setWidth 128) []
  else (closeTrans s r).updReq r.id (fun _ => q)

/-- A request whose object lies in a forwarding span is served by the state of its entry; any other is served at its
address (R188). An `hpin` or `hunpin` of an object that has not been copied leaves it where it is (R403). -/
def resolveTurn (s : State) (r : Req) : Option State :=
  if behindOthers s r then waitHome s r
  else match forwarding s r.pa with
  | none => homeTurn s r
  | some (rs, sp) =>
    match rs.entryOf sp (vaddr r.obj) with
    | none => homeTurn s r
    | some i => match rs.entries[i]? with
      | none => homeTurn s r
      | some e => match e.state with
        | .skipped => homeTurn s r
        | .copying => waitHome s r
        | .copied => some (forwardReq s r e.new)
        | .uncopied => some (takePlace (match r.kind with
            | .pin _ => setFwd s (homeOf r.pa) i .skipped
            | _ => copyObject s (homeOf r.pa) i) r)

/-- A request at its home, by the event that performs it. -/
def slotTurn (k : HomeKind) (s : State) (r : Req) : Option State :=
  if (r.stage == .toHome) && homeKind s r == k then (if k = .resolve ∨ k = .heal then resolveTurn s r else homeTurn s r) else none

/-- A pod-remote request at the remote home, uncached at both ends; with no usable link it raises LINK_DOWN (R112, R158,
R233). -/
def remoteTurn (s : State) (r : Req) : Option State :=
  if r.stage = .remote then
    (if podReach s (waferOf (dkOfCk r.core)) (waferOf (homeOf r.pa)) = false then some (faultReq s r codeLinkDown false)
     else if homeKind s r = .resolve ∨ homeKind s r = .heal then resolveTurn s r else homeTurn s r)
  else none

/-! ### Grants (R144, R145, R147, R151) -/

/-- Whether a line may not be granted to a visitor partition: its page moves, its frame's span forwards, a sector of it is
poisoned, or a hint says so (R70, R129, R146, R187). -/
def noGrant (s : State) (r : Req) : Bool :=
  pageLocked s r.pa || (forwarding s r.pa).isSome || s.poisoned (r.pa / 128 * 128) 128 || r.hint == 1 || r.hint == 2

/-- A visitor copy of a line as the home sends it. -/
def newCopy (s : State) (r : Req) (st : VState) : VLine :=
  let pl := r.pa / 128
  let gid := match s.block? r.bid with | some b => b.gid | none => 0
  { pline := pl, state := st, seq := 0, bytes := s.lineBytes pl, dirty := 0, gid := gid, cls := r.attr.cls, vline := vlineOf r.va, way := 0 }

/-- A grant sent: E or S, with the line as the home holds it. -/
def sendGrant (s : State) (r : Req) (excl : Bool) : State :=
  let pl := r.pa / 128
  let dk := dkOfCk r.core
  let s0 := closeTrans s r
  let (q, s1) := dirGrant s0 pl dk excl
  let img := s0.lineBytes pl
  (s1.updReq r.id (fun _ => { r with stage := .granted, value := loadSees s0 r img, line := lineFill s0 r img, arrived := none })).send
    (.grant pl dk excl q r.id img none)

/-- A read miss of a visitor partition at the home: an R copy for `.repl` on class 0, an untracked S copy of class 3, else E
when no other domain holds a copy and the host holds no half, and S otherwise (R144, R145, R151, R155). -/
def visitorTurn (s : State) (r : Req) : Option State :=
  if r.stage ≠ .visitorRead then none
  else if lockHolds s r then some (holdHome s r)
  else if behindOthers s r then waitHome s r
  else
    let pl := r.pa / 128
    let dk := dkOfCk r.core
    let line := pl * 128
    let apart := noGrant s r || (r.hint == 3 && r.attr.cls == 0)
    let prep := (prepLine s r pl false (if apart then none else some dk)).then (fun _ => (prepSnoops s r (windowNeeds s r) false).then
      (fun _ => if apart || r.attr.cls == 3 then .ready else prepRoom s pl))
    match prep with
    | .wait => waitHome s r
    | .act s1 => some (takePlace s1 r)
    | .ready =>
      let s1 := countHot s r.pa r.core
      match homeFault s1 r with
      | some e => some (faultReq s1 r e false)
      | none =>
        if noGrant s1 r then some (loadAnswer s1 r (s1.lineBytes pl) (!s1.poisoned line 128))
        else if r.attr.cls = 3 then some (loadAnswer (s1.putVis dk (newCopy s1 r .s)) r (s1.lineBytes pl) true)
        else if r.hint = 3 ∧ r.attr.cls = 0 then some (loadAnswer (s1.putVis dk (newCopy s1 r .r)) r (s1.lineBytes pl) true)
        else
          let others := match s1.dir? pl with | some e => e.holders.any (· != dk) | none => false
          let host := r.attr.cls == 2 && !(winNeeds s1 line 128 true).isEmpty
          some (sendGrant s1 r (!others && !host))

/-- A drain's ownership request at the home: every other copy is invalidated and E is granted (R144); class 3 allocates
untracked (R151). -/
def ownershipTurn (s : State) (r : Req) : Option State :=
  if r.stage ≠ .ownership then none
  else if lockHolds s r then some (holdHome s r)
  else if behindOthers s r then waitHome s r
  else
    let pl := r.pa / 128
    let dk := dkOfCk r.core
    let line := pl * 128
    if r.attr.cls = 3 then
      (match homeFault s r with
        | some e => some (faultReq s r e false)
        | none => some (drainVisitor (countHot s r.pa r.core) dk ((s.vis? dk pl).getD (newCopy s r .s)) r))
    else
      let whole := pageLocked s r.pa || (forwarding s r.pa).isSome || s.poisoned line 128
      let halves := if r.attr.cls = 2 then winNeeds s line 128 true else []
      let prep := (prepLine s r pl true (if whole then none else some dk)).then
        (fun _ => (prepSnoops s r halves true).then (fun _ => if whole then .ready else prepRoom s pl))
      match prep with
      | .wait => waitHome s r
      | .act s1 => some (takePlace s1 r)
      | .ready =>
        let s1 := countHot s r.pa r.core
        match homeFault s1 r with
        | some e => some (faultReq s1 r e false)
        | none => if whole then some (performHome s1 r) else some (sendGrant s1 r true)

/-! ### Messages of the protocol (R149, R150) -/

/-- Whether `a` is ahead of `b` by 1 to 127 in sequence. -/
def seqAhead (a b : BitVec 8) : Bool := decide (1 ≤ (a - b).toNat) && decide ((a - b).toNat ≤ 127)

/-- The class, source and destination of a message of the protocol (R227): 0 request, 1 probe, 2 response. -/
def MsgBody.route : MsgBody → Option (Nat × Nat × Nat)
  | .grant pl dk _ _ _ _ _ => some (2, homeOfLine pl, dk)
  | .probe pl dk _ _ => some (1, homeOfLine pl, dk)
  | .answer pl dk _ _ _ _ => some (2, dk, homeOfLine pl)
  | .writeback pl dk _ _ => some (0, dk, homeOfLine pl)
  | _ => none

/-- A message of the protocol may be delivered when no earlier one of its class from its source to its destination is on its way
(R229); sinking it waits for nothing else (R227). -/
def msgDue (s : State) (m : Msg) : Bool :=
  !s.msgs.any (fun x => decide (x.id < m.id) && x.body.route.isSome && x.body.route == m.body.route)

/-- The grant for a line on its way to a domain. -/
def awaited (s : State) (pl dk : Nat) : Option (BitVec 8 × Nat) :=
  s.msgs.findSome? (fun m => match m.body with | .grant p d _ q r _ _ => if p = pl ∧ d = dk then some (q, r) else none | _ => none)

/-- A grant arrives: its SEQ is recorded, the line installed in S, E or M, and the waiting request served; after a newer
probe the line is installed as that probe asked (R149), and a drain is then served at the home (log 31). -/
def grantArrive (s : State) (m : Msg) : State :=
  match m.body with
  | .grant pl dk excl q rid bs drop =>
    let s0 := s.dropMsg m.id
    match s0.req? rid with
    | none => s0
    | some r =>
      let held := s0.vis? dk pl
      let owned : Bool := match held with | some v => v.state == .m || v.state == .e | none => false
      let img : List Byte := match held with | some v => if owned then v.bytes else bs | none => bs
      let dirty : BitVec 4 := match held with | some v => if owned then v.dirty else 0 | none => 0
      let base : VLine := { newCopy s0 r (if excl then .e else .s) with seq := q, bytes := img, dirty := dirty }
      let kept : VLine := if owned then { base with state := (match held with | some v => v.state | none => .e) } else base
      let s1 := match drop with
        | some true => s0
        | some false => s0.putVis dk { kept with state := .s, dirty := 0 }
        | none => s0.putVis dk kept
      if r.kind = .store then
        (if drop.isNone then drainVisitor s0 dk kept r else s1.updReq rid (fun r => { r with stage := .toHome }))
      else if owned then loadAnswer s1 r img true
      else answerReq s1 r r.value r.line
  | _ => s

/-- A probe arrives: STALE when older than the grant held or awaited, NOT_HELD when newer than an awaited grant or when no
copy is held, else applied with its dirty data (R149). -/
def probeArrive (s : State) (m : Msg) : State :=
  match m.body with
  | .probe pl dk inval q =>
    let s0 := s.dropMsg m.id
    let none_ (s : State) (st : Bool) : State := (s.send (.answer pl dk q 0 [] st)).tidyDir pl
    match awaited s0 pl dk with
    | some (g, rid) =>
      if seqAhead q g then
        none_ { s0 with msgs := s0.msgs.map (fun x => match x.body with
          | .grant p d e g' r' bs dr =>
            if p = pl ∧ d = dk ∧ r' = rid then { x with body := .grant p d e g' r' bs (some (inval || dr == some true)) } else x
          | _ => x) } false
      else none_ s0 true
    | none =>
      match s0.vis? dk pl with
      | none => none_ s0 false
      | some v =>
        if v.tracked = false then none_ s0 false
        else if seqAhead v.seq q then none_ s0 true
        else
          let s1 := if inval then s0.dropVis dk pl else s0.putVis dk { v with state := .s, dirty := 0, seq := q }
          if v.state = .m then (s1.send (.answer pl dk q v.dirty v.bytes false)).tidyDir pl else none_ s1 false
  | _ => s

/-- The directory after one target has given up, or downgraded, its copy. -/
def dirLeave (s : State) (pl dk : Nat) (inval : Bool) : State :=
  match s.dir? pl with
  | none => s
  | some e =>
    let mine := e.owned && e.owner == domOf dk
    s.putDir { e with sharers := if inval then e.sharers &&& ~~~(1#56 <<< domOf dk) else e.sharers,
                      owned := e.owned && !mine, owner := if mine then 0 else e.owner }

/-- An open probe of a line answered, by its target or by a writeback: the transaction without it. -/
def probeAnswered (s : State) (pl dk : Nat) (q : Option (BitVec 8)) (dirty : BitVec 4) (bs : List Byte) : State :=
  let hit (x : Nat × BitVec 8) : Bool := x.1 == dk && (q == none || q == some x.2)
  match (s.domain (homeOfLine pl)).trans.find? (fun t => t.pline == pl && t.waitFor.any hit) with
  | none => if q = none then dirLeave (mergeSectors s pl dirty bs) pl dk true else s
  | some t =>
    let s1 := dirLeave (mergeSectors s pl dirty bs) pl dk (t.inval || q == none)
    let t' : Trans := { t with waitFor := t.waitFor.filter (fun x => !hit x) }
    (s1.updDomain (homeOfLine pl) (fun d =>
      { d with trans := (d.trans.map (fun x => if x = t then t' else x)).filter (fun x => x.waitFor != [] || x.req.isSome) })).tidyDir pl

/-- The writeback of a line from a domain on its way. -/
def writebackOf (s : State) (dk pl : Nat) : Option Msg :=
  s.msgs.find? (fun m => match m.body with | .writeback p d _ _ => p == pl && d == dk | _ => false)

/-- A probe answer reaches the home; one that matches no open probe is ignored (R148, R149). An answer without data leaves the probe
open while the sender's writeback of the line is on its way: that answers it (R150). -/
def answerArrive (s : State) (m : Msg) : State :=
  match m.body with
  | .answer pl dk q dirty bs _ =>
    let s1 := s.dropMsg m.id
    if dirty = 0 ∧ (writebackOf s1 dk pl).isSome = true then s1 else probeAnswered s1 pl dk (some q) dirty bs
  | _ => s

/-- An M copy is evicted and its dirty sectors set out; or they reach the home, where they answer an open probe or are
merged (R144, R150). -/
def writebackStep (s : State) (dk pl : Nat) : State :=
  match writebackOf s dk pl with
  | some m => (match m.body with
      | .writeback _ _ dirty bs => if msgDue s m then probeAnswered (s.dropMsg m.id) pl dk none dirty bs else s
      | _ => s)
  | none => match s.vis? dk pl with
    | some v => if v.state = .m then (s.dropVis dk pl).send (.writeback pl dk v.dirty v.bytes) else s
    | none => s

end Sys2Proof.Machine
end

