-- ==== Sys2Proof/Machine/Replay.lean ====
section
/-!
DEFINITION. What an operand-log entry stands for (R62-R65): the access its instruction makes, read back from the logged
encoding, the data it holds for a lane, and the requests a replay sends.
-/

namespace Sys2Proof.Machine

/-- The access an instruction makes for each lane, and where its value goes. -/
structure Tmpl where
  kind : ReqKind
  size : Nat
  pend : PendKind
  dst : Dst := .none
  dst2 : Dst := .none
  hint : Nat := 0
  deriving DecidableEq, Repr

def Tmpl.load (d : Opd) (n : Nat) (sx : Bool) (hint : Nat) : Tmpl :=
  { kind := .load, size := n, pend := .load n sx, dst := dstOf d (bytesWords n), hint := hint }
def Tmpl.store (n hint : Nat) : Tmpl := { kind := .store, size := n, pend := .store, hint := hint }
def Tmpl.rmw (op : RmwOp) (red : Bool) (d : Opd) (n : Nat) : Tmpl :=
  if red then { kind := .red op.num, size := n, pend := .store }
  else if d = .zero then { kind := .rmw op.num, size := n, pend := .store }
  else { kind := .rmw op.num, size := n, pend := .load n false, dst := dstOf d (bytesWords n) }

/-- The operation of an atomic or reduction. -/
def rmwInstr : Instr → Option RmwOp
  | .atomAddN32L32 | .redAddN32L32 | .atomAdd | .redAdd => some .add
  | .atomMinI32L32 | .redMinI32L32 | .atomMinI | .redMinI => some .minI
  | .atomMaxI32L32 | .redMaxI32L32 | .atomMaxI | .redMaxI => some .maxI
  | .atomMinN32L32 | .redMinN32L32 | .atomMinN | .redMinN => some .minN
  | .atomMaxN32L32 | .redMaxN32L32 | .atomMaxN | .redMaxN => some .maxN
  | .atomAndB32L32 | .redAndB32L32 | .atomAnd | .redAnd => some .and
  | .atomOrB32L32 | .redOrB32L32 | .atomOr | .redOr => some .or
  | .atomXorB32L32 | .redXorB32L32 | .atomXor | .redXor => some .xor
  | .atomXchgB32L32 | .atomXchg => some .xchg
  | .atomFadd | .redFadd => some .fadd
  | .atomCas => some .cas
  | .atomIncwrap | .redIncwrap => some .incwrap
  | _ => none

/-- Whether an instruction is a reduction: it returns nothing. -/
def isRed : Instr → Bool
  | .redAddN32L32 | .redMinI32L32 | .redMaxI32L32 | .redMinN32L32 | .redMaxN32L32 | .redAndB32L32 | .redOrB32L32
  | .redXorB32L32 | .redAdd | .redFadd | .redMinI | .redMinN | .redMaxI | .redMaxN | .redAnd | .redOr | .redXor
  | .redIncwrap => true
  | _ => false

/-- The access of an instruction (R381-R404). -/
def tmplOf (x : Ins) : Option Tmpl :=
  match x.ops with
  | .l32 f =>
    let d := opd7 f.d
    match x.instr with
    | .ldI8L32 => some (.load d 1 true 0)
    | .ldN8L32 => some (.load d 1 false 0)
    | .ldI16L32 => some (.load d 2 true 0)
    | .ldN16L32 => some (.load d 2 false 0)
    | .ldB32L32 | .ldkB32L32 => some (.load d 4 false 0)
    | .ldB64L32 => some (.load d 8 false 0)
    | .stB8L32 => some (.store 1 0)
    | .stB16L32 => some (.store 2 0)
    | .stB32L32 => some (.store 4 0)
    | .stB64L32 => some (.store 8 0)
    | .waitvEqL32 => some { Tmpl.load d 4 false 0 with pend := .waitv 0 4 }
    | .waitvNeL32 => some { Tmpl.load d 4 false 0 with pend := .waitv 1 4 }
    | i => (rmwInstr i).map (fun op => .rmw op (isRed i) d 4)
  | .c f =>
    let n := widthBytes f.width
    let d := opd9 f.d
    match x.instr with
    | .ld => some (.load d n false f.hint.toNat)
    | .ldSx => some (.load d n true f.hint.toNat)
    | .ldk => some (.load d n false f.hint.toNat)
    | .st => some (.store n f.hint.toNat)
    | .waitv => some { Tmpl.load d n false 0 with pend := .waitv f.hint.toNat n }
    | .hld => some { kind := .refLoad, size := 8, pend := .refLoad, dst := dstOf d 2 }
    | .hst => some { kind := .refStore, size := 8, pend := .store }
    | .hldf => some { kind := .fieldLoad, size := n, pend := .load n false, dst := dstOf d (bytesWords n) }
    | .hstf => some { kind := .fieldStore, size := n, pend := .store }
    | .hcas => some { kind := .refCas, size := 8, pend := .refLoad, dst := dstOf d 2 }
    | i => (rmwInstr i).map (fun op => .rmw op (isRed i) d n)
  | .a f =>
    let d := opd9 f.d
    match x.instr with
    | .hcmp => some { kind := .resolve, size := 8, pend := .hcmp, dst := dstOf d 1 }
    | .hpin => some { kind := .pin true, size := 8, pend := .pin true, dst := dstOf d 2, dst2 := dstOf (opd9 f.b) 2 }
    | .hunpin => some { kind := .pin false, size := 8, pend := .pin false, dst := dstOf d 2 }
    | .hcopy => some { kind := .refCas, size := 8, pend := .refLoad, dst := dstOf d 2 }
    | .hsize => some { kind := .size, size := 8, pend := .hsize, dst := dstOf d 1 }
    | _ => none
  | _ => none

/-- The access kind of a fault-queue record (R60). -/
def ReqKind.recordKind : ReqKind → Nat
  | .store => 1
  | .rmw _ | .red _ => 2
  | .fetch => 3
  | .load | .prefetch => 0
  | .matrix => 4
  | _ => 6

/-- Whether an entry for this access has a memory effect (R64, R65). -/
def ReqKind.memfx : ReqKind → Bool
  | .store | .rmw _ | .red _ | .refStore | .refCas | .fieldStore | .pin _ => true
  | _ => false

/-- The ORDER word of an entry: the order in [2:0], the scope in [4:3]. -/
def Order.code : Order → Nat | .plain => 0 | .rlx => 1 | .acq => 2 | .rel => 3 | .ar => 4
def Scope.code : Scope → Nat | .block => 0 | .domain => 1 | .wafer => 2 | .system => 3
def orderWord (o : Order) (sc : Scope) : Word := BitVec.ofNat 32 (o.code + 8 * sc.code)
def wordOrder (x : Word) : Order := orderOf (x.extractLsb' 0 3)
def wordScope (x : Word) : Scope := scopeOf (x.extractLsb' 3 2)

/-- DATA of a lane: a store's data; an operand and, above it, a new value; for reference accesses the data with the
comparand or the object's address above it (log 17). -/
def Req.logData (r : Req) : BitVec 128 :=
  let lo : DWord := r.data.setWidth 64
  match r.kind with
  | .store => r.data
  | .rmw _ | .red _ => lo ++ r.cmp
  | .refCas => r.cmp ++ lo
  | .refLoad | .refStore | .fieldLoad | .fieldStore | .pin _ | .size | .resolve => r.obj ++ lo
  | _ => 0

/-- The request that a replay of an entry sends for a lane (R64). -/
def replayReq (b : Block) (wi : Nat) (w : Warp) (e : LogEnt) (i : Nat) (t : Tmpl) (l : Nat) : Req :=
  let va := e.addr.get 0 l
  let x := e.data.get 0 l
  let lo : DWord := x.setWidth 64
  let hi : DWord := (x >>> 64).setWidth 64
  let named := wordOrder e.order
  let o : MemOrd := { order := named, scope := wordScope e.order, strong := named != .plain || (match t.kind with | .load | .store => false | _ => true) }
  let m := o.at va
  let data : BitVec 128 := match t.kind with
    | .store => x
    | .rmw _ | .red _ => hi.setWidth 128
    | _ => lo.setWidth 128
  let cmp : DWord := match t.kind with
    | .rmw _ | .red _ => lo
    | .refCas => hi
    | .resolve => x.setWidth 64
    | _ => 0
  let obj : DWord := match t.kind with
    | .refCas => va - (match decodeWord e.enc with | .ok { ops := .c f, .. } => offC f | _ => 0)
    | .refLoad | .refStore | .fieldLoad | .fieldStore | .pin _ | .size | .resolve => hi
    | _ => 0
  { id := 0, core := b.core, bid := b.bid, wi := wi, tag := e.tag, lane := l, kind := t.kind, va := va, size := t.size,
    data := data, cmp := cmp, strong := m.strong, order := m.order, scope := m.scope, hint := t.hint,
    secure := w.secure, priv := w.priv, stage := .toOwner, pa := 0, attr := .zero,
    value := 0, pieces := [], line := [], fill := false, seq := 0, obj := obj, replay := some i, arrived := none, half := none }

end Sys2Proof.Machine
end

