-- ==== Sys2Proof/Machine/Paths.lean ====
section
/-!
DEFINITION. The paths of a warp: the spill stack and its memory image (R213, R198), vector branches (R214), joins (R215),
the end of paths, empty slots, parking (R216) and rotation (R41, R217).
-/

namespace Sys2Proof.Machine

/-! ### The stack's memory image (R213) -/

/-- The bytes of an entry. -/
def SpillEnt.bytes (e : SpillEnt) : List Byte :=
  let word (kind waitj : Nat) (pc : DWord) (norpc : Bool) : Nat :=
    kind + bitsOf pc.toNat 56 1 * 2 + waitj * 2 ^ 61 + (if norpc then 2 ^ 62 else 0)
  let delta (pc : DWord) (rpc : Option DWord) : Nat :=
    match rpc with | some r => bitsOf (r - pc).toNat 32 1 | none => 0
  match e with
  | .path p waitJ => bytesOfNat 8 (word 0 (if waitJ then 1 else 0) p.pc p.rpc.isNone) ++ bytesOfNat 4 p.mask.toNat ++
      bytesOfNat 4 (delta p.pc p.rpc)
  | .join pc mask rpc => bytesOfNat 8 (word 1 0 pc rpc.isNone) ++ bytesOfNat 4 mask.toNat ++ bytesOfNat 4 (delta pc rpc)

/-- The address of entry `i`. -/
def spillAddr (w : Warp) (i : Nat) : DWord := w.spillBase + BitVec.ofNat 64 (16 * i)

/-- The fault that an access to entry `i` meets, as an ordinary access of the warp's own (R198, R213): an entry on the stack is
read and written, one about to be pushed is written. -/
def spillFault (s : State) (b : Block) (w : Warp) (i : Nat) : Option (BitVec 8) × State :=
  let va := spillAddr w i
  let old := decide (i < w.spill.length)
  match apertureCodes va 16 w.priv with
  | e :: t => (some (t.foldl (fun a b => if b < a then b else a) e), s)
  | [] =>
    if ownerBad va then (some codeOwnerBad, s)
    else if ownerOf va = 62 then (if (sliceOff b (offsetOf va)).isSome then none else some codeScratch, s)
    else match translate s (waferOf (dkOfCk b.core)) va (if old then .rmw else .write) w.priv w.secure with
      | (.ok x, s1) =>
        (if x.attr.cls = 1 then some codeHeapClass
         else if !x.host && frameSecure s1 x.addr != w.secure then some codeWorld
         else if old && s1.poisoned x.addr 16 then some codeEcc
         else none, s1)
      | (.error e, s1) => (some e, s1)

/-- The first fault among the entries `lo` to below `n`, with its address. -/
def spillFaults (s : State) (b : Block) (w : Warp) (lo n : Nat) : Option (BitVec 8 × DWord) × State :=
  (List.range n).foldl (fun acc i =>
    match acc.1 with
    | some _ => acc
    | none =>
      if i < lo then acc
      else match spillFault acc.2 b w i with
        | (some e, s1) => (some (e, spillAddr w i), s1)
        | (none, s1) => (none, s1)) (none, s)

/-- Bytes written at a spill address, where it translates. -/
def spillWrite (s : State) (b : Block) (w : Warp) (i : Nat) (bs : List Byte) : State :=
  let va := spillAddr w i
  if ownerOf va = 62 then
    match sliceOff b (offsetOf va) with
    | some o => s.updBlock b.bid (fun b => { b with slice := memWrite b.slice o bs })
    | none => s
  else match translate s (waferOf (dkOfCk b.core)) va .write w.priv w.secure with
    | (.ok x, s1) => s1.unitWrite x.addr bs
    | (.error _, s1) => s1

/-- The bytes that lie at an entry's address, where it translates. -/
def spillRead (s : State) (b : Block) (w : Warp) (i : Nat) : Option (List Byte) × State :=
  let va := spillAddr w i
  if ownerOf va = 62 then ((sliceOff b (offsetOf va)).map (fun o => memRead b.slice o 16), s)
  else match translate s (waferOf (dkOfCk b.core)) va .read w.priv w.secure with
    | (.ok x, s1) => let (bs, s2) := s1.unitRead x.addr 16; (some bs, s2)
    | (.error _, s1) => (none, s1)

/-- A reconvergence PC that is undefined: none, or any address. -/
def freeRpc (s : State) : Option DWord × State :=
  let (k, s1) := s.choose 2
  let (x, s2) := s1.free
  (if k = 0 then none else some (x &&& ~~~1#64), s2)

/-- A path whose stack entry software has overwritten: its pc and its reconvergence PC are undefined, and its lanes are some of
the warp's own (R213). -/
def spoiled (s : State) (w : Warp) (p : PathState) : PathState × State :=
  let (x, s1) := s.free
  let (y, s2) := s1.free
  let (r, s3) := freeRpc s2
  let m := y.setWidth 32 &&& ~~~w.exited
  ({ pc := x &&& ~~~1#64, rpc := r, mask := if m = 0 then p.mask else m }, s3)

/-- A reconvergence PC as an entry with the given PC gives it back: more than 2^31 parcels away it is rebuilt modulo 2^32
parcels, and the path reconverges there or never (R213). -/
def rebuiltRpc (s : State) (pc : DWord) (rpc : Option DWord) : Option DWord × State :=
  match rpc with
  | none => (none, s)
  | some r =>
    let r' := pc + ((BitVec.ofNat 32 (bitsOf (r - pc).toNat 32 1)).signExtend 64 <<< 1)
    if r' = r then (rpc, s)
    else
      let (k, s1) := s.choose 2
      (if k = 0 then some r' else none, s1)

/-- What the device loads from entry `i` of the stack (R213): the entry, its reconvergence PC rebuilt; of an entry that software
has overwritten, undefined path state. -/
def loadEntry (s : State) (b : Block) (w : Warp) (i : Nat) (e : SpillEnt) : SpillEnt × State :=
  let (bs, s1) := spillRead s b w i
  let same := bs == none || bs == some e.bytes
  match e with
  | .path p j =>
    if same then
      let (r, s2) := rebuiltRpc s1 p.pc p.rpc
      (.path { p with rpc := r } j, s2)
    else
      let (q, s2) := spoiled s1 w p
      (.path q j, s2)
  | .join pc m rpc =>
    if same then
      let (r, s2) := rebuiltRpc s1 pc rpc
      (.join pc m r, s2)
    else
      let (r, s2) := freeRpc s1
      (.join pc m r, s2)

/-- A path taken from entry `i` of the stack. -/
def takenPath (s : State) (bid wi i : Nat) (p : PathState) (waitJ : Bool) : PathState × State :=
  match s.block? bid, s.warp? bid wi with
  | some b, some w => match loadEntry s b w i (.path p waitJ) with
    | (.path q _, s1) => (q, s1)
    | (_, s1) => (p, s1)
  | _, _ => (p, s)

/-- The stack's memory image brought up to date with the stack: an entry that has moved down takes its bytes along, and one that
is new or changed is written. -/
def respill (s : State) (bid wi : Nat) (old : List SpillEnt) : State :=
  match s.block? bid, s.warp? bid wi with
  | some b, some w =>
    (List.range w.spill.length).foldl (fun s i =>
      match w.spill[i]? with
      | some e =>
        if old[i]? = some e then s
        else match old.findIdx? (· == e) with
          | none => spillWrite s b w i e.bytes
          | some j => match spillRead s b w j with
            | (some bs, s1) => spillWrite s1 b w i bs
            | (none, s1) => spillWrite s1 b w i e.bytes
      | none => s) s
  | _, _ => s

/-! ### Sets of paths -/

/-- A slot whose path waits at its join, which is `y`. -/
def Slot.waitsAt (sl : Slot) (y : DWord) : Bool := sl.live && sl.wait == .join && sl.path.rpc == some y
/-- A slot whose path has reconvergence PC `y` and does not wait there. -/
def Slot.runsTo (sl : Slot) (y : DWord) : Bool := sl.live && sl.wait != .join && sl.path.rpc == some y

/-- Paths, other than that of slot `k`, that have reconvergence PC `y` and do not wait there. -/
def Warp.running (w : Warp) (k : Option Nat) (y : DWord) : Nat :=
  ((List.range w.slots.length).filter (fun i => some i != k && (match w.slots[i]? with | some sl => sl.runsTo y | none => false))).length +
  (w.spill.filter (fun e => match e with | .path p false => p.rpc == some y | _ => false)).length

/-- Whether a join entry has reconvergence PC `y`, and whether one has PC `y`. -/
def Warp.joinTo (w : Warp) (y : DWord) : Bool := w.spill.any (fun e => match e with | .join _ _ r => r == some y | _ => false)
def Warp.joinAt (w : Warp) (y : DWord) : Bool := w.spill.any (fun e => match e with | .join pc _ _ => pc == y | _ => false)

/-- Paths that wait at `y`. -/
def Warp.waiting (w : Warp) (y : DWord) : Nat :=
  (w.slots.filter (·.waitsAt y)).length +
  (w.spill.filter (fun e => match e with | .path p true => p.rpc == some y | _ => false)).length

/-- The index of the uppermost, or lowest, entry that satisfies a test. -/
def topIdx (l : List SpillEnt) (p : SpillEnt → Bool) : Option Nat :=
  ((List.range l.length).filter (fun i => match l[i]? with | some e => p e | none => false)).getLast?
def lowIdx (l : List SpillEnt) (p : SpillEnt → Bool) : Option Nat :=
  ((List.range l.length).filter (fun i => match l[i]? with | some e => p e | none => false)).head?

/-- A path entry that does not wait at its join, or that does. -/
def SpillEnt.free : SpillEnt → Bool | .path _ false => true | _ => false
def SpillEnt.waits (y : DWord) : SpillEnt → Bool | .path p true => p.rpc == some y | _ => false
def SpillEnt.joinPc (y : DWord) : SpillEnt → Bool | .join pc _ _ => pc == y | _ => false

/-- The reconvergence PC that the uppermost join entry with PC `y` gives, and the stack without it (R215). -/
def popJoin (l : List SpillEnt) (y : DWord) : Option DWord × List SpillEnt :=
  match topIdx l (SpillEnt.joinPc y) with
  | some i => ((match l[i]? with | some (.join _ _ r) => r | _ => none), l.eraseIdx i)
  | none => (none, l)

/-- The masks of every path that waits at `y`. -/
def Warp.waitMask (w : Warp) (y : DWord) : Word :=
  (w.slots.filter (·.waitsAt y)).foldl (fun m sl => m ||| sl.path.mask) 0 |||
  w.spill.foldl (fun m e => match e with | .path p true => if p.rpc = some y then m ||| p.mask else m | _ => m) 0

/-- A path placed in slot `k`, ready or waiting at its join. -/
def Warp.putPath (w : Warp) (k : Nat) (p : PathState) (waitJ : Bool) : Warp :=
  { w with slots := w.slots.modify k (fun _ =>
      { Slot.empty with live := true, path := p, wait := if waitJ then .join else .ready }) }

/-- The merge of R215 in slot `k`: the paths that wait at `y` join it, the reconvergence PC comes from the stack, and
the rotation count starts again. The path's pc stays at `y`. -/
def Warp.merge (w : Warp) (k : Nat) (y : DWord) : Warp :=
  let m := w.waitMask y
  let (r, st) := popJoin (w.spill.filter (fun e => !SpillEnt.waits y e)) y
  let slots := (List.range w.slots.length).map (fun i =>
    match w.slots[i]? with
    | some sl => if i = k then { sl with path := { sl.path with mask := sl.path.mask ||| m, rpc := r }, wait := .ready }
                 else if sl.waitsAt y then Slot.empty else sl
    | none => Slot.empty)
  { w with slots := slots, spill := st, rotation := 0 }

/-- The merge of R216 on the stack: the uppermost waiting entry takes the merged path, at the instruction after the
`join`. -/
def Warp.mergeOnStack (w : Warp) (y : DWord) : Warp :=
  match topIdx w.spill (SpillEnt.waits y) with
  | none => w
  | some i =>
    let m := w.waitMask y
    let r := (popJoin w.spill y).1
    let st := (List.range w.spill.length).filterMap (fun j =>
      match w.spill[j]? with
      | some e => if j = i then some (.path { pc := y + 4, rpc := r, mask := m } false)
                  else if SpillEnt.waits y e then none else some e
      | none => none)
    { w with spill := (popJoin st y).2, rotation := 0 }

/-- The reconvergence PCs of a warp's paths. -/
def Warp.rpcs (w : Warp) : List DWord :=
  ((w.slots.filter (·.live)).filterMap (·.path.rpc) ++
   w.spill.filterMap (fun e => match e with | .path p _ => p.rpc | _ => none)).eraseDups

/-- One completion at `y` after paths have ended (R216): a waiting path whose last sibling has ended completes its join, or
a lone path's reconvergence PC becomes none. -/
def Warp.completeAt (w : Warp) (y : DWord) : Option Warp :=
  let run := w.running none y
  let wait := w.waiting y
  if run = 0 ∧ 0 < wait ∧ w.joinTo y = false then
    match (List.range w.slots.length).find? (fun i => match w.slots[i]? with | some sl => sl.waitsAt y | none => false) with
    | some k => some ((w.merge k y).goOn k 4)
    | none => some (w.mergeOnStack y)
  else if run = 1 ∧ wait = 0 ∧ w.joinTo y = false ∧ w.joinAt y = false then
    let clr (p : PathState) : PathState := if p.rpc = some y then { p with rpc := none } else p
    some { w with slots := w.slots.map (fun sl => { sl with path := clr sl.path }),
                  spill := w.spill.map (fun e => match e with | .path p j => .path (clr p) j | e => e) }
  else none

/-- The entries that a merge at `y` uses as they are loaded (R213): the lanes of the paths that wait there, and the
reconvergence PC of the uppermost join entry. -/
def loadMerge (s : State) (bid wi : Nat) (y : DWord) : State :=
  match s.block? bid, s.warp? bid wi with
  | some b, some w =>
    let top := topIdx w.spill (SpillEnt.joinPc y)
    (List.range w.spill.length).foldl (fun s i =>
      match w.spill[i]? with
      | some e =>
        if SpillEnt.waits y e ∨ some i = top then
          let (e', s1) := loadEntry s b w i e
          let e2 : SpillEnt := match e, e' with | .path p j, .path q _ => .path { q with pc := p.pc, rpc := p.rpc } j | _, x => x
          s1.updWarp bid wi (fun w => { w with spill := w.spill.set i e2 })
        else s
      | none => s) s
  | _, _ => s

/-- All completions (R216). -/
def completeAll : Nat → Nat → Nat → State → State
  | 0, _, _, s => s
  | n + 1, bid, wi, s =>
    match s.warp? bid wi with
    | none => s
    | some w => match w.rpcs.find? (fun y => (w.completeAt y).isSome) with
      | none => s
      | some y =>
        let s1 := if 0 < w.waiting y then loadMerge s bid wi y else s
        completeAll n bid wi (s1.updWarp bid wi (fun w => (w.completeAt y).getD w))

/-- A free slot takes the uppermost path entry that does not wait (R216). -/
def fillSlot (s : State) (bid wi k : Nat) : State :=
  match s.warp? bid wi with
  | none => s
  | some w =>
    match w.slots[k]? with
    | none => s
    | some sl =>
      if sl.live then s
      else match topIdx w.spill SpillEnt.free with
        | none => s
        | some i =>
          match w.spill[i]? with
          | some (.path p j) =>
            let (p', s1) := takenPath s bid wi i p j
            respill (s1.updWarp bid wi (fun w => ({ w with spill := w.spill.eraseIdx i } : Warp).putPath k p' false)) bid wi w.spill
          | _ => s

/-- The warp after paths have ended or merged: the memory image, completions, empty slots, and l undefined (R75). -/
def settle (s : State) (bid wi : Nat) (old : List SpillEnt) : State :=
  let s1 := respill s bid wi old
  match s1.warp? bid wi with
  | none => s1
  | some w =>
    let s2 := respill (completeAll (w.spill.length + 4) bid wi s1) bid wi w.spill
    (fillSlot (fillSlot s2 bid wi 0) bid wi 1).undefL bid wi

/-- Whether a warp has a path left. -/
def Warp.hasPath (w : Warp) : Bool :=
  w.slots.any (·.live) || w.spill.any (fun e => match e with | .path _ _ => true | _ => false)

/-- Lanes leave every path of a warp; paths without lanes end, a handler's path among them leaving the handler (R216,
R346); with no path left the warp is Exited (R46). -/
def endLanes (s : State) (bid wi : Nat) (m : Word) : State :=
  match s.warp? bid wi with
  | none => s
  | some w =>
    let cut (p : PathState) : PathState := { p with mask := p.mask &&& ~~~m }
    let dead (sl : Slot) : Bool := sl.live && (cut sl.path).mask == 0
    let slots := w.slots.map (fun sl => if dead sl then Slot.empty else { sl with path := cut sl.path })
    let spill := w.spill.filterMap (fun e => match e with
      | .path p j => if (cut p).mask = 0 then none else some (.path (cut p) j)
      | e => some e)
    let left := w.inTrap && (match w.slots[w.trapSlot]? with | some sl => dead sl | none => false)
    let w' := { w with slots := slots, spill := spill, exited := w.exited ||| m,
                       csr := if left then { w.csr with status := setBit w.csr.status 0 false } else w.csr }
    let s1 := s.updWarp bid wi (fun _ => w')
    if w'.hasPath then settle s1 bid wi w.spill else noteBlockEnd (exitWarp s1 bid wi) bid

/-! ### The faults of the spill area (R198) -/

/-- Whether a reply about the spill area of a warp is awaited. -/
def spillAsked (s : State) (bid wi : Nat) : Bool :=
  s.domains.any (fun d => d.2.waiters.any (fun x => match x.2 with | .spill b v _ _ _ => b == bid && v == wi | _ => false))

/-- The entries from `lo` to below `n` used by path `r`, and then `k`. A fault in translation is sent to the pager and the path
waits for the reply; any other fault is raised. -/
def withSpill (c : Ctx) (lo n : Nat) (s : State) (k : State → Res) : Res :=
  match spillFaults s c.blk c.warp lo n with
  | (none, s1) => k s1
  | (some (code, va), s1) =>
    if code = codeNoPage ∨ code = codePerm then
      let send (s : State) : Nat × State := sendRecord s (faultDk (waferOf (dkOfCk c.blk.core)) va)
        (warpRecord c.blk c.warp va code 1 0xFF c.em) (.spill c.ref.bid c.ref.wi c.ref.slot code va)
      .ask (fun s => (send s).2) (.spill (send s1).1)
    else .fault { code := code, kind := 1, lanes := c.em, addr := va, pc := c.fpc }

/-! ### Branch, join, exit (R214-R216, R346) -/

/-- A transfer in slot `k`: the levels whose body it leaves end (R353). -/
def Warp.jumpTo (w : Warp) (k : Nat) (t : DWord) : Warp :=
  let w1 := leaveLoops w t
  { w1 with slots := w1.slots.modify k (fun sl => { sl with path := { sl.path with pc := t } }) }

/-- Whether a branch to a join target nests, and the entries it pushes (R214). -/
def branchNest (c : Ctx) (y : DWord) : Bool := c.slot.path.rpc.isSome && c.slot.path.rpc != some y
def freeSlot (w : Warp) (k : Nat) : Bool := match w.slots[1 - k]? with | some sl => !sl.live | none => false
def branchNeed (c : Ctx) (y : DWord) : Nat :=
  (if branchNest c y then 1 else 0) + (if freeSlot c.warp c.ref.slot then 0 else 1)

/-- The stack after the join entry of a nested branch. -/
def branchStack (c : Ctx) (w : Warp) (y : DWord) : List SpillEnt :=
  w.spill ++ (if branchNest c y then [.join y c.em c.slot.path.rpc] else [])

/-- The split: the fall-through part stays in its slot, the taken part goes into the free slot or onto the stack. -/
def split (c : Ctx) (t : Word) (b y : DWord) (w : Warp) : Warp :=
  let k := c.ref.slot
  let w1 := { w with spill := branchStack c w y }
  let w2 := leaveLoops w1 b
  let w3 := { w2 with slots := w2.slots.modify k (fun sl =>
      { sl with path := { sl.path with mask := c.em &&& ~~~t, rpc := some y } }) }
  let p : PathState := { pc := b, rpc := some y, mask := t }
  if freeSlot w k then w3.putPath (1 - k) p false else { w3 with spill := w3.spill ++ [.path p false] }

/-- `bra` (R214, R342): `t` is the mask of the lanes whose condition holds. -/
def branchEff (t : Word) (b y : DWord) (c : Ctx) (s : State) : Res :=
  let t := t &&& c.em
  let f := c.em &&& ~~~t
  if t = 0 then .done s
  else if f = 0 then .jump s b
  else if c.warp.spillDepth < c.warp.spill.length + branchNeed c y then .fault (plainFault c codeStackSpill)
  else if branchNeed c y = 0 then .done (s.updWarp c.ref.bid c.ref.wi (split c t b y))
  else withSpill c c.warp.spill.length (c.warp.spill.length + branchNeed c y) s (fun s1 =>
    .done (perfAdd (respill (s1.updWarp c.ref.bid c.ref.wi (split c t b y)) c.ref.bid c.ref.wi c.warp.spill) c.blk.core 12
      (branchNeed c y) c.warp.priv c.warp.secure))

/-- `join` (R215). -/
def joinEff (c : Ctx) (s : State) : Res :=
  let y := c.pc
  if c.slot.path.rpc ≠ some y then .done s
  else if 0 < c.warp.running (some c.ref.slot) y ∨ c.warp.joinTo y = true then .hold s .join
  else withSpill c 0 c.warp.spill.length s (fun s1 =>
    let s2 := loadMerge s1 c.ref.bid c.ref.wi y
    let s3 := advance c (s2.updWarp c.ref.bid c.ref.wi (fun w => w.merge c.ref.slot y))
    .own (settle s3 c.ref.bid c.ref.wi c.warp.spill))

/-- The paths of a warp other than that of slot `k`. -/
def otherPath (w : Warp) (k : Nat) : Bool :=
  (List.range w.slots.length).any (fun i => i != k && (match w.slots[i]? with | some sl => sl.live | none => false)) ||
  w.spill.any (fun e => match e with | .path _ _ => true | _ => false)

/-- `exit` (R216, R346): the last live lane waits for held memory effects (R65). -/
def exitEff (c : Ctx) (s : State) : Res :=
  if otherPath c.warp c.ref.slot then
    withSpill c 0 c.warp.spill.length s (fun s1 => .own (endLanes s1 c.ref.bid c.ref.wi c.em))
  else if c.warp.heldFx then .wait (.retry false)
  else .own (endLanes s c.ref.bid c.ref.wi c.em)

/-! ### Parking and rotation (R216, R217, R41) -/

/-- The stack may be used by the device on the warp's behalf: it translates. Otherwise the fault is sent to the pager
once, and the step is tried again after the reply. -/
def spillUsable (s : State) (b : Block) (wi : Nat) (w : Warp) (slot : Nat) : Bool × State :=
  match spillFaults s b w 0 w.spill.length with
  | (none, s1) => (true, s1)
  | (some (code, va), s1) =>
    if spillAsked s1 b.bid wi then (false, s1)
    else if code = codeNoPage ∨ code = codePerm then
      (false, (sendRecord s1 (faultDk (waferOf (dkOfCk b.core)) va) (warpRecord b w va code 1 0xFF 0)
        (.spill b.bid wi slot code va)).2)
    else
      let lanes := match w.slots[slot]? with | some sl => sl.path.mask | none => 0
      let pc := match w.slots[slot]? with | some sl => sl.path.pc | none => 0
      (false, raiseDeferred s1 b.bid wi { code := code, kind := 1, pc := pc, lanes := lanes, addr := va, tag := 0, lane := lowLane lanes })

/-- The path of slot `k` changes places with the lowest path entry that does not wait (R41, R216, R217). -/
def swapPath (s : State) (bid wi k : Nat) : State :=
  match s.block? bid, s.warp? bid wi with
  | some b, some w =>
    match w.slots[k]?, lowIdx w.spill SpillEnt.free with
    | some sl, some i =>
      match w.spill[i]? with
      | some (.path p j) =>
        let (ok, s1) := spillUsable s b wi w k
        if ok then
          let (p', s2) := takenPath s1 bid wi i p j
          let s3 := s2.updWarp bid wi (fun w =>
            let w1 : Warp := { w with spill := w.spill.eraseIdx i ++ [.path sl.path (sl.wait == .join)], rotation := 0 }
            w1.putPath k p' false)
          (respill s3 bid wi w.spill).undefL bid wi
        else s1
      | _ => s
    | _, _ => s
  | _, _ => s

/-- The slot whose path is parked: every live slot waits at its join (R216). -/
def parkSlot (w : Warp) : Option Nat :=
  let live := (List.range w.slots.length).filter (fun i => match w.slots[i]? with | some sl => sl.live | none => false)
  if live ≠ [] ∧ live.all (fun i => match w.slots[i]? with | some sl => sl.wait == .join | none => false) = true ∧
      (lowIdx w.spill SpillEnt.free).isSome then live.getLast? else none

/-- PARK: a waiting path is parked; the rotation count goes on. -/
def parkPath (s : State) (bid wi : Nat) : State :=
  match s.warp? bid wi with
  | some w =>
    (match parkSlot w with
    | some k => (swapPath s bid wi k).updWarp bid wi (fun w' => { w' with rotation := w.rotation })
    | none => s)
  | none => s

/-- Whether a slot's path may be pushed by a rotation: not Waiting but at its join, and outside a reach (R217, R304,
R305). -/
def Slot.mayRotate (sl : Slot) : Bool :=
  sl.live && sl.atBoundary && (sl.wait == .join || sl.wait == .ready || sl.wait == .stall)

/-- The slot that a rotation pushes: the one live longer, else the other (R217). -/
def rotateSlot (w : Warp) : Option Nat :=
  if w.inTrap || decide (w.rotation < 2048) || (lowIdx w.spill SpillEnt.free).isNone then none
  else
    let age (i : Nat) : Nat := match w.slots[i]? with | some sl => sl.age.toNat | none => 0
    let order := if age 0 < age 1 then [1, 0] else [0, 1]
    order.find? (fun i => match w.slots[i]? with | some sl => sl.mayRotate | none => false)

/-- ROTATION (R41, R217). -/
def rotatePath (s : State) (bid wi : Nat) : State :=
  match s.warp? bid wi with
  | some w =>
    (match rotateSlot w, s.block? bid with
    | some k, some b =>
      let s1 := swapPath s bid wi k
      if (s1.warp? bid wi).any (fun x => x.rotation == 0) then perfAdd s1 b.core 13 1 w.priv w.secure else s1
    | _, _ => s)
  | none => s

end Sys2Proof.Machine
end

