-- ==== Sys2Proof/Machine/ControlOps.lean ====
section
/-!
DEFINITION. Effects of the predicate and control instructions and of the prefixes (R302-R305, R338-R355), and of the
cross-lane instructions (R370-R374).
-/

namespace Sys2Proof.Machine

/-! ### Predicates (R338) -/

def predFld (x : Opd) (dst : Bool) : Field := { opd := x, role := .pred, dst := dst }

/-- The shape of `pred`. -/
def predShape (two : Bool) (f : FmtA) : Shape :=
  { opcodeBad := badA f true true two false false false false || f.ty != 0,
            fields := [predFld (opd9 f.d) true, predFld (opd9 f.a) false] ++
                      (if two then [predFld (opd9 f.b) false] else []), gov := false }

/-- A predicate instruction of one or two predicate sources. -/
def predIssue (i : Instr) (two : Bool) (g : Bool → Bool → Bool) (f : FmtA) (s : State) :
    Host.Outcome State Fault Refusal :=
  issue i (predShape two f)
    noPre (fun c s => .done (writePred c (opd9 f.d) (fun l =>
      g ((readPred c.warp (opd9 f.a)).getLsbD l) (two && (readPred c.warp (opd9 f.b)).getLsbD l)) s)) s

/-- The shape of `pset`. -/
def psetShape (f : FmtA) : Shape :=
  { opcodeBad := badA f true true false false false false false || f.ty != 0,
            fields := [predFld (opd9 f.d) true, { opd := opd9 f.a, role := .usrc, strict := f.strict.getLsbD 0 }],
            gov := false }

/-- `pset`: bit l of a uniform source. -/
def psetIssue (i : Instr) (f : FmtA) (s : State) :
    Host.Outcome State Fault Refusal :=
  issue i (psetShape f)
    noPre (fun c s => .done (writePred c (opd9 f.d) (fun l => (read32 c.blk c.warp c.ref.wi (opd9 f.a) 0).getLsbD l) s)) s

/-- The shape of `pget`. -/
def pgetShape (f : FmtA) : Shape :=
  { opcodeBad := badA f true true false false false false false || f.ty != 0,
            fields := [{ opd := opd9 f.d, role := .udst, dst := true }, predFld (opd9 f.a) false], gov := false }

/-- `pget`: all 32 bits of a predicate. -/
def pgetIssue (i : Instr) (f : FmtA) (s : State) :
    Host.Outcome State Fault Refusal :=
  issue i (pgetShape f)
    noPre (fun c s => .done (writeK c (opd9 f.d) 1 ((readPred c.warp (opd9 f.a)).setWidth 128) s)) s

/-! ### Shapes of the control instructions (R340) -/

/-- An L32 control word without fields in use but IMM7 where `imm` says so. -/
def ctlL (f : F32) (imm : Bool) : Shape :=
  { opcodeBad := f.d != 0 || f.a != 0 || (!imm && f.b != 0) || (imm && f.b.getLsbD 6), fields := [], gov := false }

/-- A sub-format B control word: NEG stands in D[11]. -/
def ctlB (f : FmtB) (neg useA : Bool) (bad : Bool) (fields : List Field) : Shape :=
  { opcodeBad := (if neg then f.d >>> 1 != 0 else f.d != 0) || (!useA && f.a != 0) || f.ty != 0 || bad,
    fields := fields, gov := false }

def usrcFld (x : Opd) (strict : Bool) : Field := { opd := x, role := .usrc, strict := strict }
def udstFld (x : Opd) (n : Nat) : Field := { opd := x, role := .udst, words := n, dst := true }

/-- The value of a uniform source. -/
def uval (c : Ctx) (x : Opd) : Word := read32 c.blk c.warp c.ref.wi x 0

/-- An address `n` parcels from the instruction (R340). -/
def parcels (c : Ctx) (n : DWord) : DWord := c.pc + (n <<< 1)
/-- T and J of `bra`, signed; E of `loop`, unsigned; the 32-bit T of the others. -/
def lowT (f : FmtB) : DWord := (f.imm.extractLsb' 0 16).signExtend 64
def highJ (f : FmtB) : DWord := (f.imm.extractLsb' 16 16).signExtend 64
def wideT (f : FmtB) : DWord := f.imm.signExtend 64

/-! ### Branches (R342-R344) -/

/-- The shape of `bra`. -/
def braShape (f : FmtB) : Shape :=
  let a := opd9 f.a
  ctlB f true true (if a = .zero then highJ f ≠ 0 else (match a with | .p _ => highJ f = 0 | _ => false))
      [{ opd := a, role := .predOrZero }]

/-- `bra`. -/
def braIssue (i : Instr) (f : FmtB) (s : State) :
    Host.Outcome State Fault Refusal :=
  let a := opd9 f.a
  let neg := f.d.getLsbD 0
  issue i (braShape f) noPre
    (fun c s =>
      let p := if a = .zero then BitVec.allOnes 32 else readPred c.warp a
      branchEff (if neg then ~~~p else p) (parcels c (lowT f)) (parcels c (highJ f)) c s) s

/-- The shape of `braUniform`. -/
def braUniformShape (role : Role) (f : FmtB) : Shape :=
  ctlB f true true false [{ opd := opd9 f.a, role := role }]

/-- A uniform branch: the whole path goes to the target when the test holds. -/
def braUniform (i : Instr) (role : Role) (test : Ctx → Bool) (f : FmtB) (s : State) :
    Host.Outcome State Fault Refusal :=
  issue i (braUniformShape role f) noPre
    (fun c s => if test c != f.d.getLsbD 0 then .jump s (parcels c (wideT f)) else .done s) s

/-- The test of `bra.u`: A = zero always holds. -/
def testU (f : FmtB) (c : Ctx) : Bool := opd9 f.a == .zero || uval c (opd9 f.a) != 0
def testAny (f : FmtB) (c : Ctx) : Bool := readPred c.warp (opd9 f.a) &&& c.em != 0
def testAll (f : FmtB) (c : Ctx) : Bool := readPred c.warp (opd9 f.a) &&& c.em == c.em

/-- The shape of `braIdx`. -/
def braIdxShape (f : FmtA) : Shape :=
  { opcodeBad := badA f false true true false false false false || f.ty != 0,
            fields := [usrcFld (opd9 f.a) (f.strict.getLsbD 0), usrcFld (opd9 f.b) (f.strict.getLsbD 1)], gov := false }

/-- `bra.idx` (R344). -/
def braIdxIssue (i : Instr) (f : FmtA) (s : State) :
    Host.Outcome State Fault Refusal :=
  issue i (braIdxShape f)
    noPre (fun c s =>
      let n := min (uval c (opd9 f.a)).toNat (uval c (opd9 f.b)).toNat
      .jump s (c.pc + BitVec.ofNat 64 (8 + 8 * n))) s

/-! ### Calls (R345) -/

/-- The return address o6:o7. -/
def fldO6 (dst : Bool) : Field := { opd := .o 6, role := if dst then .vdst else .vsrc, words := 2, dst := dst }

/-- The return address written in the path's lanes, and the transfer. -/
def callTo (c : Ctx) (t : DWord) (s : State) : Res :=
  .jump (writeLanes c (.o 6) 2 (fun _ => (c.pc + 8).setWidth 128) s) (t &&& ~~~1#64)

/-- The shape of `call`. -/
def callShape (f : FmtB) : Shape :=
  ctlB f false false false [fldO6 true]

def callIssue (i : Instr) (f : FmtB) (s : State) :
    Host.Outcome State Fault Refusal :=
  issue i (callShape f) noPre (fun c s => callTo c (parcels c (wideT f)) s) s

/-- The shape of `callIdx`. -/
def callIdxShape (f : FmtA) : Shape :=
  { opcodeBad := badA f false true false false false false false || f.ty != 0,
            fields := [{ opd := opd9 f.a, role := .pair, words := 2, strict := f.strict.getLsbD 0 }, fldO6 true],
            gov := false }

/-- `call.idx`: the target is the value of the lowest lane of the path (R341); bit 0 is cleared (R288). -/
def callIdxIssue (i : Instr) (f : FmtA) (s : State) :
    Host.Outcome State Fault Refusal :=
  issue i (callIdxShape f)
    noPre (fun c s => callTo c (read64 c.blk c.warp c.ref.wi (opd9 f.a) (lowLane c.em)) s) s

/-- The shape of `ret`. -/
def retShape (f : F32) : Shape :=
  { ctlL f false with fields := [fldO6 false] }

/-- `ret`: o6:o7 of the lowest lane, bit 0 cleared. -/
def retIssue (i : Instr) (f : F32) (s : State) :
    Host.Outcome State Fault Refusal :=
  issue i (retShape f) noPre
    (fun c s => .jump s (read64 c.blk c.warp c.ref.wi (.o 6) (lowLane c.em) &&& ~~~1#64)) s

/-! ### Hardware loops (R351, R355) -/

/-- lc0 or lc1. -/
def Warp.setLc (w : Warp) (n : Bool) (x : Word) : Warp := if n then { w with lc1 := x } else { w with lc0 := x }
def Warp.getLc (w : Warp) (n : Bool) : Word := if n then w.lc1 else w.lc0

/-- Whether a `loop` cannot open its level (R351). -/
def loopBad (c : Ctx) (n : Bool) (stop : DWord) : Bool :=
  otherPath c.warp c.ref.slot ||
  (match c.warp.levels with
    | [] => false
    | [o] => o.lc == n || !(decide (o.start < stop) && decide (stop ≤ o.stop))
    | _ => true)

def loopEff (f : FmtB) (c : Ctx) (s : State) : Res :=
  let n := f.d.getLsbD 0
  let count := if opd9 f.a = .zero then (f.imm.extractLsb' 16 16).setWidth 32 else uval c (opd9 f.a)
  let stop := parcels c ((f.imm.extractLsb' 0 16).setWidth 64)
  let start := c.pc + 8
  let put (w : Warp) (pc : DWord) : Warp :=
    { w with slots := w.slots.modify c.ref.slot (fun sl => { sl with path := { sl.path with pc := pc } }) }
  if loopBad c n stop then .fault (plainFault c codeLoopNest)
  else .own (s.updWarp c.ref.bid c.ref.wi (fun w =>
    let w1 := w.setLc n count
    if count = 0 then (let (pc, w2) := loopEnd 3 w1 stop; put w2 pc)
    else put { w1 with levels := { start := start, stop := stop, lc := n } :: w1.levels } start))

/-- The shape of `loop`. -/
def loopShape (f : FmtB) : Shape :=
  let e := (f.imm.extractLsb' 0 16).toNat
  ctlB f true true (decide (e < 5) || decide (32771 < e)) [usrcFld (opd9 f.a) false]

def loopIssue (i : Instr) (f : FmtB) (s : State) :
    Host.Outcome State Fault Refusal :=
  issue i (loopShape f) noPre (loopEff f) s

/-- The shape of `lcmov`. -/
def lcmovShape (f : FmtA) : Shape :=
  let k := f.c.toNat
  let set := decide (k < 2)
  { opcodeBad := badA f true true false false true false false || f.ty != 0 || decide (3 < k) ||
              (!set && f.strict != 0),
            fields := if set then [{ opd := opd9 f.d, role := .zeroOnly, dst := true },
                                   usrcFld (opd9 f.a) (f.strict.getLsbD 0)]
                      else [udstFld (opd9 f.d) 1, { opd := opd9 f.a, role := .zeroOnly }], gov := false }

/-- `lcmov` (R355). -/
def lcmovIssue (i : Instr) (f : FmtA) (s : State) :
    Host.Outcome State Fault Refusal :=
  let k := f.c.toNat
  let set := decide (k < 2)
  issue i (lcmovShape f)
    noPre (fun c s =>
      if set then .done (s.updWarp c.ref.bid c.ref.wi (fun w => w.setLc (k == 1) (uval c (opd9 f.a))))
      else .done (writeK c (opd9 f.d) 1 ((c.warp.getLc (k == 3)).setWidth 128) s)) s

/-! ### Yield, sleep, trap, nop (R347-R350) -/

/-- A greedy run that a `yield` has ended (R347). -/
def yielded : Nat := 1000

/-- `yield`: in greedy mode the run of the warp ends; in exchange mode its place is up for trade, which the step settles at
once (`settleIssue`). -/
def yieldEff (c : Ctx) (s : State) : Res :=
  let put (q : IssueSlot) : IssueSlot := if (s.core c.blk.core).schedmode then { q with run := yielded } else { q with trade := true }
  .done (s.updCore c.blk.core (fun k => { k with issue := k.issue.modify c.warp.issueSlot put }))

def sleepEff (f : FmtB) (c : Ctx) (s : State) : Res :=
  let w := min ((uval c (opd9 f.a)).toNat + f.imm.toNat) (2 ^ 32 - 1)
  if w = 0 ∨ c.blk.cancel = true then .done s
  else .own ((advance c s).updSlot c.ref (fun sl => { sl with wait := .sleep (s.clock + w) }))

/-- The trap of a code (R349): FAULTPC is the next instruction, FAULTADDR the code. -/
def trapFault (c : Ctx) (code : DWord) : Flt :=
  { code := codeTrap, lanes := c.em, addr := code, pc := c.pc + BitVec.ofNat 64 c.len }

/-! ### The prefixes (R302-R305) -/

/-- `pblk`: the reach of the next instructions. -/
def pblkBad (f : FPblk) : Bool := f.z != 0 || decide (2 ^ (f.c.toNat + 1) ≤ f.t.toNat)
def pblkReach (f : FPblk) : BitVec 16 := 0#1 ++ BitVec.ofNat 4 (f.c.toNat + 1) ++ f.t ++ f.p

/-- The shape of `pblk`. -/
def pblkShape (f : FPblk) : Shape :=
  { opcodeBad := pblkBad f, fields := [], gov := false }

def pblkIssue (i : Instr) (f : FPblk) (s : State) :
    Host.Outcome State Fault Refusal :=
  issue i (pblkShape f) noPre
    (fun c s => .done (s.updSlot c.ref (fun sl => { sl with reach := pblkReach f }))) s

/-- `ordp`: the order and scope of the next instruction. -/
def ordpOrder (f : FOrdp) : Order := match f.o.toNat with | 0 => .rlx | 1 => .acq | 2 => .rel | _ => .ar
def ordpScope (f : FOrdp) : Scope := match f.s.toNat with | 0 => .block | 1 => .domain | 2 => .wafer | _ => .system

/-- The shape of `ordp`. -/
def ordpShape (f : FOrdp) : Shape :=
  { opcodeBad := f.z != 0, fields := [], gov := false }

def ordpIssue (i : Instr) (f : FOrdp) (s : State) :
    Host.Outcome State Fault Refusal :=
  issue i (ordpShape f) noPre
    (fun c s => .done (s.updSlot c.ref (fun sl =>
      { sl with ordPfx := some { order := ordpOrder f, scope := ordpScope f, addr := c.pc } }))) s

/-! ### Lane reads (R371) -/

/-- The lane that a lane read names, below 0 or above 31 when it lies outside the warp. -/
def lrdLane (kind : Nat) (i : Nat) (n : Int) : Int :=
  match kind with
  | 0 => n
  | 1 => if 0 ≤ n ∧ n ≤ 31 then ((i ^^^ n.toNat : Nat) : Int) else -1
  | 2 => i + n
  | _ => (i + n) % 32

/-- The value that a lane read gives lane `i`. -/
def lrdValue (kind w : Nat) (clamp : Bool) (f : FmtA) (c : Ctx) (i : Nat) : DWord :=
  let b := modLane c (opndsA f) 1 i
  let j := lrdLane kind i ((b.setWidth 32).toInt)
  if j < 0 then (if clamp then srcLane c (opd9 f.a) w 0 else 0)
  else if 31 < j then (if clamp then srcLane c (opd9 f.a) w 31 else 0)
  else srcLane c (opd9 f.a) w j.toNat

/-- The shape of `lrd`. -/
def lrdShape (kind : Nat) (f : FmtA) : Shape :=
  let w := if f.ty = 1 then 2 else 1
  let op : LaneOp := { dW := w, aW := w, bW := 1, f := fun _ a _ _ => (a, 0) }
  { opcodeBad := badA f true true true false true false true || decide (2 ≤ f.ty.toNat) ||
              decide (2 ≤ f.c.toNat) || (kind == 3 && f.c != 0),
            fields := op.fields false (opndsA f) f.strict }

def lrdIssue (i : Instr) (kind : Nat) (f : FmtA) (s : State) :
    Host.Outcome State Fault Refusal :=
  let w := if f.ty = 1 then 2 else 1
  issue i (lrdShape kind f) noPre
    (fun c s => .done (writeLanes c (opd9 f.d) w (fun l => (lrdValue kind w (f.c == 1) f c l).setWidth 128) s)) s

/-! ### Lane sets (R372, R373) -/

/-- The shape of a lane set: the destination's role and width, the sources, and the type codes it takes. -/
def setShape (role : Role) (srcs : FmtA → List Field) (useA : Bool) (tys : List Nat) (f : FmtA) : Shape :=
  { opcodeBad := badA f true useA false false false false false || !tys.contains f.ty.toNat || (!useA && f.strict != 0),
    fields := { opd := opd9 f.d, role := role, dst := true } :: srcs f }

/-- The issue of a lane set. -/
def setIssue (i : Instr) (sh : Shape) (eff : Ctx → State → State) (s : State) : Host.Outcome State Fault Refusal :=
  issue i sh noPre (fun c s => .done (eff c s)) s

/-- The lanes of a mask whose value of A equals that of lane `i`. -/
def alikeLanes (c : Ctx) (x : Opd) (w i : Nat) : Word :=
  maskOf ((lanesOf c.m).filter (fun j => srcLane c x w j == srcLane c x w i))

/-- The sources and shapes of the lane sets (R370, R372). -/
def predSrc (f : FmtA) : List Field := [predFld (opd9 f.a) false]
def alikeW (f : FmtA) : Nat := if f.ty = 1 then 2 else 1
def alikeShape (f : FmtA) : Shape :=
  setShape .vdstOrPred (fun f => [{ opd := opd9 f.a, role := .vsrc, words := alikeW f, strict := f.strict.getLsbD 0 }]) true [0, 1] f
def truthShape (f : FmtA) : Shape := setShape .udstOrPred predSrc true [0] f
def countShape (f : FmtA) : Shape := setShape .udst predSrc true [0] f
def lfirstShape (f : FmtA) : Shape := setShape .udstOrPred (fun _ => []) false [0] f

/-- `alike`: the mask is 32 bits wide; after a `.b64` form l is undefined (R373). -/
def alikeIssue (i : Instr) (f : FmtA) (s : State) : Host.Outcome State Fault Refusal :=
  let w := alikeW f
  let x := opd9 f.a
  let isP := match opd9 f.d with | .p _ => true | _ => false
  setIssue i (alikeShape f) (fun c s =>
      if isP then writePred c (opd9 f.d) (fun l => alikeLanes c x w l == c.m) s
      else
        let s1 := writeLanes c (opd9 f.d) 1 (fun l => (alikeLanes c x w l).setWidth 128) s
        if w = 2 ∧ c.m ≠ 0 then s1.undefL c.ref.bid c.ref.wi else s1) s

/-- A truth of the warp, into a predicate's active lanes or a k register. -/
def setTruth (f : FmtA) (v : Ctx → Bool) (c : Ctx) (s : State) : State :=
  match opd9 f.d with
  | .p n => writePred c (.p n) (fun _ => v c) s
  | d => writeK c d 1 (if v c then 1 else 0) s

def lanyIssue (i : Instr) (all : Bool) (f : FmtA) (s : State) : Host.Outcome State Fault Refusal :=
  setIssue i (truthShape f)
    (setTruth f (fun c => let p := readPred c.warp (opd9 f.a) &&& c.m; if all then p == c.m else p != 0)) s

def lmaskIssue (i : Instr) (f : FmtA) (s : State) : Host.Outcome State Fault Refusal :=
  setIssue i (countShape f)
    (fun c s => writeK c (opd9 f.d) 1 ((readPred c.warp (opd9 f.a) &&& c.m).setWidth 128) s) s

def lcountIssue (i : Instr) (f : FmtA) (s : State) : Host.Outcome State Fault Refusal :=
  setIssue i (countShape f)
    (fun c s => writeK c (opd9 f.d) 1
      (BitVec.ofNat 128 (lanesOf (readPred c.warp (opd9 f.a) &&& c.m)).length) s) s

def lfirstIssue (i : Instr) (f : FmtA) (s : State) : Host.Outcome State Fault Refusal :=
  setIssue i (lfirstShape f)
    (fun c s => match opd9 f.d with
      | .p n => writePred c (.p n) (fun l => l == lowLane c.m) s
      | d => writeK c d 1 (BitVec.ofNat 128 (if c.m = 0 then 32 else lowLane c.m)) s) s

/-! ### Reductions and scans (R374) -/

/-- A combination of two values with its flags, its width and its identity. -/
structure Comb where
  w : Nat
  f : Word → DWord → DWord → DWord × Word
  e : DWord

/-- The integer type of a TYPE code of R374, the bits width, or FP32. -/
def redTy (ty : Nat) : Option VTy :=
  match ty with
  | 0 => some tyI32 | 1 => some tyN32
  | 4 => some { bits := 64, signed := true } | 5 => some { bits := 64, signed := false }
  | _ => none
def redBits (ty : Nat) : Option VTy :=
  match ty with | 3 => some tyN32 | 6 => some { bits := 64, signed := false } | _ => none

def Comb.of (op : LaneOp) (e : DWord) : Comb := { w := op.dW, f := fun fp u v => op.f fp u v 0, e := e }

/-- The operation of an op code and a TYPE code. -/
def combOf (op ty : Nat) : Option Comb :=
  match op with
  | 0 => if ty = 2 then some (.of (lopF32 (fun a b => fAdd .rne a b)) 0) else (redTy ty).map (fun t => .of (lopInt t (· + ·)) 0)
  | 1 => if ty = 2 then some (.of (lopF32 (fun a b => fMinMax false a b)) 0x7F800000)
         else (redTy ty).map (fun t => .of (lopInt t min) (t.wrap t.hi))
  | 2 => if ty = 2 then some (.of (lopF32 (fun a b => fMinMax true a b)) 0xFF800000)
         else (redTy ty).map (fun t => .of (lopInt t max) (t.wrap t.lo))
  | 3 => (redBits ty).map (fun t => .of { dW := t.words, f := fun _ a b _ => (a &&& b, 0) } (if t.bits = 64 then BitVec.allOnes 64 else 0xFFFFFFFF))
  | 4 => (redBits ty).map (fun t => .of { dW := t.words, f := fun _ a b _ => (a ||| b, 0) } 0)
  | _ => none
where
  lopInt (t : VTy) (g : Int → Int → Int) : LaneOp :=
    { dW := t.words, f := fun _ a b _ => (t.wrap (g (t.val a) (t.val b)), 0) }
  lopF32 (g : FVal → FVal → FVal × Word) : LaneOp :=
    { f := fun fp a b _ =>
        let z := fp.getLsbD 8
        let r := g (Fmt.f32.src z (a.toNat % 2 ^ 32)) (Fmt.f32.src z (b.toNat % 2 ^ 32))
        let q := roundTo .f32 .rne z r.1
        (BitVec.ofNat 64 q.1, r.2 ||| q.2) }

/-- Values of the lanes, absent where the lane is not in M. -/
abbrev Vals := List (Option DWord)

/-- u op v, with an absent value giving the other. -/
def comb (k : Comb) (fp : Word) (u v : Option DWord) : Option DWord × Word :=
  match u, v with
  | some a, some b => let r := k.f fp a b; (some r.1, r.2)
  | some a, none => (some a, 0)
  | none, b => (b, 0)

/-- The values of A in the lanes of M. -/
def laneVals (k : Comb) (c : Ctx) (x : Opd) : Vals :=
  lanes32.map (fun i => if c.m.getLsbD i then some (srcLane c x k.w i) else none)

/-- One level of the tree of `lred`: neighbours combined in pairs. -/
def redLevel (k : Comb) (fp : Word) : Vals → Vals × Word
  | u :: v :: t =>
    let r := comb k fp u v
    let q := redLevel k fp t
    (r.1 :: q.1, r.2 ||| q.2)
  | t => (t, 0)

/-- The tree of `lred`. -/
def redTree (k : Comb) (fp : Word) (x : Vals) : Option DWord × Word :=
  let r := (List.range 5).foldl (fun (a : Vals × Word) _ => let q := redLevel k fp a.1; (q.1, a.2 ||| q.2)) (x, 0)
  ((r.1.head?).join, r.2)

/-- The steps of `lscan`, every lane at once. -/
def scanSteps (k : Comb) (fp : Word) (x : Vals) : Vals × Word :=
  [1, 2, 4, 8, 16].foldl (fun (a : Vals × Word) s =>
    let r := lanes32.map (fun i => if s ≤ i then comb k fp (a.1.getD (i - s) none) (a.1.getD i none) else (a.1.getD i none, 0))
    (r.map (·.1), r.foldl (fun f e => f ||| e.2) a.2)) (x, 0)

/-- The shape of `lred` and `lscan`. -/
def redShape (scan : Bool) (k : Comb) (f : FmtA) : Shape :=
  { opcodeBad := badA f true true false false true false false,
    fields := [{ opd := opd9 f.d, role := if scan then .vdst else .udst, words := k.w, dst := true },
               { opd := opd9 f.a, role := .vsrc, words := k.w, strict := f.strict.getLsbD 0 }] }

/-- The combination that `lred` or `lscan` names, and whether the scan is exclusive. -/
def redExcl (scan : Bool) (f : FmtA) : Bool := scan && decide (8 ≤ f.c.toNat)
def redComb (scan : Bool) (f : FmtA) : Option Comb :=
  combOf (if redExcl scan f then f.c.toNat - 8 else f.c.toNat) f.ty.toNat

/-- The value that a scan gives lane `l`. -/
def scanValue (k : Comb) (excl : Bool) (r : Vals) (l : Nat) : DWord :=
  if excl then (if l = 0 then k.e else (r.getD (l - 1) none).getD k.e) else (r.getD l none).getD k.e

/-- `lred` and `lscan`: `excl` adds 8 to the op code. -/
def redIssue (i : Instr) (scan : Bool) (f : FmtA) (s : State) : Host.Outcome State Fault Refusal :=
  match redComb scan f with
  | none => issue i (badShape true) noPre noEff s
  | some k =>
    issue i (redShape scan k f) noPre (fun c s =>
      let fp := c.warp.csr.fpmode
      let x := laneVals k c (opd9 f.a)
      if scan then
        let r := scanSteps k fp x
        .done (writeLanes c (opd9 f.d) k.w (fun l => (scanValue k (redExcl scan f) r.1 l).setWidth 128) (raiseFlags c r.2 s))
      else
        let r := redTree k fp x
        .done (writeK c (opd9 f.d) k.w ((r.1.getD k.e).setWidth 128) (raiseFlags c r.2 s))) s

end Sys2Proof.Machine
end

