-- ==== Sys2Proof/Machine/MatFormats.lean ====
section
/-!
DEFINITION. Data of the matrix array and the engines: formats and their layout in rows (R272, R408, R410), the dot-product
arithmetic of the array (R282-R285), and the conversions of the engines (R419).
-/

namespace Sys2Proof.Machine

/-! ### Formats and rows (R272, R408, R410) -/

/-- A format of R408. -/
inductive MFmt where
  | flt (f : Fmt)
  | int (bits : Nat)
  | raw
  deriving DecidableEq, Repr

/-- The format codes of R408; 14 and 15 are reserved. -/
def mfmt (c : Nat) : Option MFmt :=
  match c with
  | 0 => some (.flt .bf16) | 1 => some (.flt .f16) | 2 => some (.flt .e4m3) | 3 => some (.flt .e5m2)
  | 4 => some (.flt .t8) | 5 => some (.int 8) | 6 => some (.flt .e2m3) | 7 => some (.flt .e3m2)
  | 8 => some (.flt .e2m1) | 9 => some (.flt .t6) | 10 => some (.int 4) | 11 => some (.flt .f32)
  | 12 => some (.int 32) | 13 => some .raw
  | _ => none

def MFmt.bits : MFmt → Nat
  | .flt f => f.bits
  | .int n => n
  | .raw => 8

/-- Width in bits of a format code. -/
def mbits (c : Nat) : Nat := match mfmt c with | some f => f.bits | none => 8

/-- The OCP element types, stored in scaled blocks. -/
def mscaled (c : Nat) : Bool := [2, 3, 6, 7, 8].contains c

/-- Bytes of a scaled block: 32 elements and the scale byte. -/
def blockBytes (c : Nat) : Nat := 4 * mbits c + 1
/-- The unit in which a stride counts. -/
def munit (c : Nat) : Nat := if mscaled c then blockBytes c else 1
/-- The bytes of `n` elements of a row. -/
def rowSpan (c n : Nat) : Nat := if mscaled c then n / 32 * blockBytes c else n * mbits c / 8
/-- The byte at which element `k` of a row begins, `k` the first of a group of whole bytes. -/
def elemByte (c k : Nat) : Nat := rowSpan c k

/-- The bits of element `k` of a row, given as one little-endian number. -/
def elemRaw (c : Nat) (row : Nat) (k : Nat) : Nat :=
  if mscaled c then row / 2 ^ (8 * blockBytes c * (k / 32) + mbits c * (k % 32)) % 2 ^ mbits c
  else row / 2 ^ (mbits c * k) % 2 ^ mbits c

/-- The scale byte of element `k`'s block. -/
def elemScale (c : Nat) (row : Nat) (k : Nat) : Nat := row / 2 ^ (8 * (blockBytes c * (k / 32) + blockBytes c - 1)) % 256

/-- A two's complement integer of `n` bits. -/
def signedOf (n x : Nat) : Int := if x < 2 ^ (n - 1) then x else (x : Int) - 2 ^ n

/-- The value of element `k` of a row; a NaN scale makes it NaN (R272). -/
def elemVal (c : Nat) (row : Nat) (k : Nat) : FVal :=
  match mfmt c with
  | some (.flt f) =>
    let v := f.val (elemRaw c row k)
    if mscaled c then
      (match e8m0Val (elemScale c row k) with
        | .nan _ => .nan false
        | s => (fMul v s).1)
    else v
  | some (.int n) => ofIntVal (signedOf n (elemRaw c row k))
  | _ => .fin false 0 0

/-! ### Combinations (R282) -/

/-- The chunk size of an operand format: 0 for a format that is no operand. -/
def chunkOf (c : Nat) : Nat := if c ≤ 1 then 16 else if c ≤ 5 then 32 else if c ≤ 10 then 64 else 0

/-- Whether a format is an integer operand. -/
def mint (c : Nat) : Bool := c == 5 || c == 10

/-- The combinations of the array: the accumulator codes are 0 FP32, 1 BF16, 2 FP16, 3 INT32. -/
def comboOk (fa fb acc : Nat) : Bool :=
  chunkOf fa != 0 && chunkOf fa == chunkOf fb && mint fa == mint fb && (mint fa == (acc == 3)) && decide (acc ≤ 3) &&
  (!mint fa || fa == fb)

/-- The format of a float accumulator. -/
def accFmt (acc : Nat) : Fmt := match acc with | 0 => .f32 | 1 => .bf16 | _ => .f16

/-! ### One chunk (R283-R285) -/

/-- Whether a product is ∞ × 0. -/
def infZero (x y : FVal) : Bool :=
  match x, y with
  | .inf _, .fin _ 0 _ | .fin _ 0 _, .inf _ => true
  | _, _ => false

/-- The exact sum of finite terms; an exact zero is −0 only when every term is −0. -/
def exactSum (ts : List FVal) : FVal :=
  let z := ts.all (fun t => t.isZero && t.neg)
  ts.foldl (fun a t => match a, t with
    | .fin n m e, .fin n' m' e' => sumFin z n m e n' m' e'
    | a, _ => a) (.fin z 0 0)

/-- The sum of the old accumulator and the products of one chunk, with NV (R284). -/
def chunkSum (acc : FVal) (ps : List (FVal × FVal)) : FVal × Word :=
  let ts := acc :: ps.map (fun p => (fMul p.1 p.2).1)
  let nan := acc.isNan || ps.any (fun p => p.1.isNan || p.2.isNan)
  let iz := ps.any (fun p => infZero p.1 p.2)
  let pos := ts.any (fun t => t == .inf false)
  let neg := ts.any (fun t => t == .inf true)
  let fl := flIf (iz || (pos && neg)) flNV
  if nan || iz || (pos && neg) then (.nan false, fl)
  else if pos then (.inf false, 0)
  else if neg then (.inf true, 0)
  else (exactSum ts, 0)

/-- The chunk's sum rounded into the accumulator (R284, R285). -/
def accRound (f : Fmt) (v : FVal) : Nat × Word :=
  let big (n : Bool) : Nat × Word :=
    match f with
    | .f32 => ((roundTo f .rne false (.inf n)).1, flAOV)
    | _ => (f.signed n f.largest, flASAT)
  match v with
  | .nan _ => (f.nan.getD 0, 0)
  | .inf n => if f = .f32 then ((roundTo f .rne false (.inf n)).1, 0) else (f.signed n f.largest, flASAT)
  | .fin n m e =>
    let r := roundTo f .rne false (.fin n m e)
    if r.2 &&& flOF = 0 then (r.1, 0) else big n

/-- One output element of a float accumulator over all chunks. -/
def dotFloat (f : Fmt) (chunk : Nat) : Nat → Nat → List (FVal × FVal) → Nat × Word
  | 0, acc, _ => (acc, 0)
  | n + 1, acc, ps =>
    if ps = [] then (acc, 0)
    else
      let s := chunkSum (f.val acc) (ps.take chunk)
      let r := accRound f s.1
      let t := dotFloat f chunk n r.1 (ps.drop chunk)
      (t.1, s.2 ||| r.2 ||| t.2)

/-- One output element of the INT32 accumulator over all chunks. -/
def dotInt (chunk : Nat) : Nat → Int → List (Int × Int) → Int × Word
  | 0, acc, _ => (acc, 0)
  | n + 1, acc, ps =>
    if ps = [] then (acc, 0)
    else
      let s := (ps.take chunk).foldl (fun a p => a + p.1 * p.2) acc
      let r := tyI32.clamp s
      let t := dotInt chunk n r (ps.drop chunk)
      (t.1, (if r = s then 0 else flISAT) ||| t.2)

/-- The new value of a tile element from row `a` of A and column `b` of B, K elements each (R283). -/
def dotElem (acc fa fb k : Nat) (old : Word) (a b : Nat) : Word × Word :=
  let n := chunkOf fa
  if acc = 3 then
    let ps := (List.range k).map (fun i => (signedOf (mbits fa) (elemRaw fa a i), signedOf (mbits fb) (elemRaw fb b i)))
    let r := dotInt n (k / n + 1) old.toInt ps
    (BitVec.ofInt 32 r.1, r.2)
  else
    let f := accFmt acc
    let ps := (List.range k).map (fun i => (elemVal fa a i, elemVal fb b i))
    let r := dotFloat f n (k / n + 1) (old.toNat % 2 ^ f.bits) ps
    (BitVec.ofNat 32 r.1, r.2)

/-! ### Engine conversions (R419) -/

/-- The combinations of a command: `enl` reads the tensor side, `fix` and `mdrain` write it. -/
def convOk (enl : Bool) (lfmt tfmt : Nat) : Bool :=
  lfmt == tfmt ||
  (if enl then
    ([0, 1, 2, 3, 4, 6, 7, 8, 9, 11].contains tfmt && [0, 1, 11].contains lfmt) ||
    ([5, 10, 12].contains tfmt && lfmt == 11)
   else [0, 1, 11].contains lfmt && [0, 1, 4, 9, 11].contains tfmt)

/-- The bits that an element takes in the target format: converted with the mode, without flags or flushing. -/
def convRaw (md : RMode) (src dst : Nat) (row : Nat) (k : Nat) : Nat :=
  match mfmt dst with
  | some (.flt f) => (roundTo f md false (elemVal src row k)).1
  | _ => elemRaw src row k

/-- A row of `n` dense elements as one number. -/
def packRow (c n : Nat) (g : Nat → Nat) : Nat := (List.range n).foldl (fun x k => x + g k % 2 ^ mbits c * 2 ^ (mbits c * k)) 0

/-- The bytes of a row of `n` elements converted from a source row; equal formats are copied bit by bit, blocks and
scales included. -/
def convRow (md : RMode) (src dst n : Nat) (bs : List Byte) : List Byte :=
  if src = dst then bs.take (rowSpan src n)
  else
    let row := natOfBytes bs
    bytesOfNat (rowSpan dst n) (packRow dst n (convRaw md src dst row))

/-- `n` elements of a row that are out of range: zeros, and for scaled formats blocks of zeros with scale 0x7F
(R422). -/
def blankRow (c n : Nat) : List Byte :=
  if mscaled c then (List.range (n / 32)).flatMap (fun _ => List.replicate (blockBytes c - 1) 0 ++ [0x7F])
  else List.replicate (rowSpan c n) 0

end Sys2Proof.Machine
end

