-- ==== Sys2Proof/Machine/TensorOps.lean ====
section
/-!
DEFINITION. What the matrix and engine instructions do at issue (R407-R425): encodings, the precise checks of R411, R415, R416
and R420, range-lock entries (R172, R259), the matrix queue (R220), batches (R221) and the engines' queues (R222).
-/

namespace Sys2Proof.Machine

/-! ### Range-lock entries (R172, R259) -/

/-- The free entries of a core's table, lowest first. -/
def Core.freeLocks (c : Core) : List Nat := (List.range 16).filter (fun i => (c.locks.get? i).isNone)
/-- Entries claimed in the lowest free places, after those owed before; what finds no place is owed. -/
def Core.claim (c : Core) (ls : List RLock) : Core :=
  { c with locks := (c.freeLocks.zip (c.owed ++ ls)).foldl (fun t e => t.set e.1 e.2) c.locks,
           owed := (c.owed ++ ls).drop c.freeLocks.length }
/-- Entries freed; the places go to entries owed (R413). -/
def Core.freeWhere (c : Core) (p : RLock → Bool) : Core :=
  Core.claim { c with locks := c.locks.filter (fun e => !p e.2), owed := c.owed.filter (fun e => !p e) } []
/-- Entries of an operation freed. -/
def Core.unlock (c : Core) (op : Nat) (p : RLock → Bool) : Core := c.freeWhere (fun e => e.op == op && p e)

/-- A span as the table holds it, and what is wrong with it. -/
structure SpanChk where
  lo : Nat
  hi : Nat
  codes : List (BitVec 8 × DWord)
  deriving DecidableEq, Repr

/-- The span of `ext` bytes from `va` (R411, R420): its owner must hold memory and all of it; a scratchpad span must lie in
the slice, and is known by the slice's addresses (R385). A span of no byte covers none. -/
def spanOf (b : Block) (va : DWord) (ext : Nat) : SpanChk :=
  let o := ownerOf va
  let v := vaddr va
  let own : List (BitVec 8 × DWord) :=
    (if o = 56 ∨ o = 61 then [(codeMmaShape, 0)] else []) ++ (if ownerBad va ∧ o ≠ 61 then [(codeOwnerBad, va)] else [])
  if ext = 0 then { lo := 2 ^ 58, hi := 0, codes := own }
  else
    let cross := if (v + ext - 1) / 2 ^ 51 = o then [] else [(codeMmaShape, (0 : DWord))]
    if o = 62 then
      match sliceOff b (offsetOf va), sliceOff b (offsetOf va + ext - 1) with
      | some x, some y =>
        { lo := sliceVa x, hi := sliceVa y, codes := if y = x + ext - 1 then cross else (codeScratch, va) :: cross }
      | _, _ => { lo := v, hi := v + ext - 1, codes := (codeScratch, va) :: cross }
    else { lo := v, hi := v + ext - 1, codes := own ++ cross }

/-- The lowest code of a warp-wide instruction's checks, with the first address that goes with it (R57). -/
def warpFault (c : Ctx) (xs : List (BitVec 8 × DWord)) : Option Flt :=
  match xs with
  | [] => none
  | x :: t =>
    let code := t.foldl (fun m y => if y.1 < m then y.1 else m) x.1
    some { code := code, lanes := c.m, addr := ((xs.find? (fun y => y.1 == code)).map (·.2)).getD 0, pc := c.fpc }

/-! ### Encodings (R407-R409) -/

/-- Tiles the issuing block declares. -/
def declTiles (s : State) : Nat :=
  match s.cur with
  | some r => match s.block? r.bid with | some b => b.lrec.tiles | none => 0
  | none => 0

/-- A tile at or above the declared count is a reserved operand (R72, R407). -/
def tileFld (s : State) (t : Nat) : Field := { opd := if t < declTiles s then .zero else .rsv, role := .zeroOnly }
/-- The tile that D names: bits [13:11] of the instruction. -/
def tileOfD (f : FmtA) : Nat := (f.d.extractLsb' 0 3).toNat
def tileDBad (f : FmtA) : Bool := f.d.extractLsb' 3 6 != 0

/-- Must-be-zero fields and strict bits of the group in sub-format A (R407, R409). -/
def matBad (f : FmtA) (useA useB : Bool) (tyTop : Nat) : Bool :=
  f.rnd != 0 || f.lkind != 0 || f.lamt != 0 || f.strict.getLsbD 2 || decide (tyTop < f.ty.toNat) ||
  (!useA && (f.a != 0 || f.strict.getLsbD 0)) || (!useB && (f.b != 0 || f.strict.getLsbD 1))

/-- A quad or octet of k registers. -/
def groupFld (x : Opd) (n : Nat) (zeroOk strict : Bool) : Field :=
  { opd := x, role := .kgroup zeroOk, words := n, strict := strict }

/-- The words of a quad or octet as read at issue. -/
def kWords (c : Ctx) (x : Opd) (n : Nat) : List Word :=
  match x with
  | .k i => (List.range n).map (fun j => c.warp.kReg (i + j))
  | _ => []

def wordAt (ws : List Word) (i : Nat) : Nat := (ws.getD i 0).toNat
def addrAt (ws : List Word) (i : Nat) : DWord := ws.getD (i + 1) 0 ++ ws.getD i 0

/-! ### Operands of the array (R410, R415) -/

/-- The bytes from the first byte of row 0 to the last byte of row 63. -/
def matExt (stride u span : Nat) : Nat := 63 * stride * u + span

/-- An operand's checks of R411. -/
def matSpan (b : Block) (fmt k : Nat) (va : DWord) (stride : Nat) : SpanChk :=
  let sp := spanOf b va (matExt stride (munit fmt) (rowSpan fmt k))
  { sp with codes := sp.codes ++ (if fmt ≤ 1 ∧ (va.toNat % 2 ≠ 0 ∨ stride % 2 ≠ 0) then [(codeMisalign, va)] else []) }

/-- The formats of A and B, as C names them. -/
def fmtA (f : FmtA) : Nat := (f.c.extractLsb' 0 4).toNat
def fmtB (f : FmtA) : Nat := (f.c.extractLsb' 4 4).toNat

/-- The spans of A and B. -/
def mmaSpans (f : FmtA) (b : Block) (ka kb : List Word) : SpanChk × SpanChk :=
  (matSpan b (fmtA f) (wordAt ka 3) (addrAt ka 0) (wordAt ka 2), matSpan b (fmtB f) (wordAt ka 3) (addrAt kb 0) (wordAt kb 2))

/-- The precise checks of `mma` (R411). -/
def mmaChecks (pair : Bool) (f : FmtA) (b : Block) (ka kb : List Word) : List (BitVec 8 × DWord) :=
  let k := wordAt ka 3
  let chunk := chunkOf (fmtA f)
  let sp := mmaSpans f b ka kb
  (if comboOk (fmtA f) (fmtB f) f.ty.toNat then [] else [(codeMmaShape, 0)]) ++
  (if k = 0 ∨ 65536 < k ∨ (chunk ≠ 0 ∧ k % chunk ≠ 0) then [(codeMmaShape, 0)] else []) ++
  (if wordAt kb 3 ≠ 0 then [(codeMmaShape, 0)] else []) ++
  (if pair ∧ b.lrec.pair = false then [(codeMmaShape, 0)] else []) ++ sp.1.codes ++ sp.2.codes

/-- The element size of `mload` (R415), and its span and checks. -/
def mloadSize (f : FmtA) : Nat := if f.ty.toNat = 0 ∨ f.ty.toNat = 3 then 4 else 2
def mloadSpan (f : FmtA) (b : Block) (ka : List Word) : SpanChk :=
  let e := mloadSize f
  let va := addrAt ka 0
  let sp := spanOf b va (matExt (wordAt ka 2) 1 (64 * e))
  { sp with codes := sp.codes ++ (if va.toNat % e ≠ 0 ∨ wordAt ka 2 % e ≠ 0 then [(codeMisalign, va)] else []) ++
      (if wordAt ka 3 ≠ 0 then [(codeMmaShape, 0)] else []) }

/-! ### The matrix queue (R220) -/

/-- An entry of the range-lock table for this issue. -/
def lockFor (c : Ctx) (op : Nat) (write : Bool) (source : Nat) (sp : SpanChk) : RLock :=
  { write := write, bid := c.ref.bid, source := source, warp := c.warp.number, lo := sp.lo, hi := sp.hi, op := op }

/-- Operations of a block that have not begun. -/
def Core.waitingOps (c : Core) (bid : Nat) : Nat := (c.matq.filter (fun m => m.bid == bid && m.state == 0)).length

/-- Entering the matrix queue: a neighbour's reservation makes the path wait (R23); 16 operations not begun, or too few
free range-lock entries, stall it (R220, R411). -/
def enqueue (c : Ctx) (kops : List Word) (pair : List DWord) (tag : Nat) (locks : Nat → List RLock) (room : Bool)
    (after : Nat → State → State) (s : State) : Res :=
  let k := s.core c.blk.core
  let op := s.nextId
  if k.reservedBy.isSome && k.reservedBy != some c.ref.bid then .wait (.retry true)
  else if 16 ≤ k.waitingOps c.ref.bid then .stall
  else if k.freeLocks.length < (locks op).length ∨ room = false then .stall
  else
    let m : MatOp :=
      { op := op, tag := tag, bid := c.ref.bid, wi := c.ref.wi, pc := c.fpc, enc := c.enc, kops := kops, pair := pair,
        row := 0, startRow := 0, state := 0, bdata := [], need := 0, work := 0, flags := 0, secure := c.warp.secure,
        priv := c.warp.priv, lane := lowLane c.em }
    let s1 := { s with nextId := op + 1 }.updCore c.blk.core (fun k =>
      { k.claim (locks op) with matq := k.matq ++ [m] })
    .done (after op (s1.updWarp c.ref.bid c.ref.wi (fun w => { w with openOps := w.openOps ++ [op] })))

/-- The shape of `mma`. -/
def mmaShape (f : FmtA) (s : State) : Shape :=
  { opcodeBad := matBad f true true 3 || tileDBad f || f.c.getLsbD 8 || (mfmt (fmtA f)).isNone || (mfmt (fmtB f)).isNone,
            fields := [tileFld s (tileOfD f), groupFld (opd9 f.a) 4 false (f.strict.getLsbD 0),
                       groupFld (opd9 f.b) 4 false (f.strict.getLsbD 1)], gov := false }

/-- `mma` and `mma.pair` (R410, R411). -/
def mmaIssue (i : Instr) (pair : Bool) (f : FmtA) (s : State) :
    Host.Outcome State Fault Refusal :=
  let ka (c : Ctx) := kWords c (opd9 f.a) 4
  let kb (c : Ctx) := kWords c (opd9 f.b) 4
  issue i (mmaShape f s)
    (fun c _ => warpFault c (mmaChecks pair f c.blk (ka c) (kb c)))
    (fun c s =>
      let sp := mmaSpans f c.blk (ka c) (kb c)
      let src := if pair then 1 else 0
      enqueue c (ka c ++ kb c) [] 0 (fun op => [lockFor c op false src sp.1, lockFor c op false src sp.2]) true
        (fun _ s => s) s) s

/-- The shape of `mzero`. -/
def mzeroShape (f : FmtA) (s : State) : Shape :=
  { opcodeBad := matBad f false false 0 || tileDBad f || f.c != 0, fields := [tileFld s (tileOfD f)], gov := false }

/-- `mzero` (R414). -/
def mzeroIssue (i : Instr) (f : FmtA) (s : State) :
    Host.Outcome State Fault Refusal :=
  issue i (mzeroShape f s)
    noPre (enqueue · [] [] 0 (fun _ => []) true (fun _ s => s)) s

/-- The shape of `mload`. -/
def mloadShape (f : FmtA) (s : State) : Shape :=
  { opcodeBad := matBad f true false 3 || tileDBad f || f.c != 0,
            fields := [tileFld s (tileOfD f), groupFld (opd9 f.a) 4 false (f.strict.getLsbD 0)], gov := false }

/-- `mload` (R415). -/
def mloadIssue (i : Instr) (f : FmtA) (s : State) :
    Host.Outcome State Fault Refusal :=
  let ka (c : Ctx) := kWords c (opd9 f.a) 4
  issue i (mloadShape f s)
    (fun c _ => warpFault c (mloadSpan f c.blk (ka c)).codes)
    (fun c => enqueue c (ka c) [] 0 (fun op => [lockFor c op false 2 (mloadSpan f c.blk (ka c))]) true (fun _ s => s)) s

/-- `mrow.get` and `mrow.put` (R416). -/
def mrowPut (f : FmtA) : Bool := f.c.getLsbD 3
/-- The shape of `mrow`. -/
def mrowShape (f : FmtA) (s : State) : Shape :=
  let put := mrowPut f
  let d := opd9 f.d
  { opcodeBad := matBad f true false 0 || f.c.extractLsb' 4 5 != 0,
            fields := [tileFld s (f.c.extractLsb' 0 3).toNat, { opd := d, role := .vpair, words := 2, dst := !put },
                       usrcFld (opd9 f.a) (f.strict.getLsbD 0)], gov := false }

def mrowIssue (i : Instr) (f : FmtA) (s : State) :
    Host.Outcome State Fault Refusal :=
  let put := mrowPut f
  let d := opd9 f.d
  let row (c : Ctx) := uval c (opd9 f.a)
  issue i (mrowShape f s)
    (fun c _ => if 63 < (row c).toNat then some (plainFault c codeMmaShape) else none)
    (fun c s =>
      if put then enqueue c [row c] (lanes32.map (read64 c.blk c.warp c.ref.wi d)) 0 (fun _ => []) true (fun _ s => s) s
      else
        let dst := dstOf d 2
        enqueue c [row c] [] (s.nextId + 1) (fun _ => []) true
          (fun _ s => markArriving c dst (addPend s { basePend c with kind := .matrix, dst := dst,
                                                                      need := BitVec.allOnes 32 }).2) s) s

/-! ### Batches (R417, R221) -/

/-- Batches at the head that have no operation left are complete: BATCHDONE advances. -/
def advBatches : List (Nat × List Nat) → BitVec 16 → List (Nat × List Nat) × BitVec 16
  | (n, []) :: t, _ => advBatches t (BitVec.ofNat 16 n)
  | l, d => (l, d)
def Warp.advance (w : Warp) : Warp :=
  let (l, d) := advBatches w.batches w.csr.batchDone
  { w with batches := l, csr := { w.csr with batchDone := d } }
/-- An operation of the warp is complete. -/
def Warp.opDone (w : Warp) (op : Nat) : Warp :=
  let drop (b : Nat × List Nat) : Nat × List Nat := (b.1, b.2.filter (· != op))
  { w with openOps := w.openOps.filter (· != op), batches := w.batches.map drop }.advance

/-- The shape of `mbatch`. -/
def mbatchShape (f : FmtA) : Shape :=
  { opcodeBad := matBad f false false 0 || f.c != 0, fields := [udstFld (opd9 f.d) 1], gov := false }

def mbatchIssue (i : Instr) (f : FmtA) (s : State) :
    Host.Outcome State Fault Refusal :=
  issue i (mbatchShape f) noPre
    (fun c s =>
      let n := c.warp.csr.batchIssued + 1
      .done (writeK c (opd9 f.d) 1 (n.setWidth 128) (s.updWarp c.ref.bid c.ref.wi (fun w =>
        { w with batches := w.batches ++ [(n.toNat, w.openOps)], openOps := [],
                 csr := { w.csr with batchIssued := n } }.advance)))) s

/-- The batch that `mwait` names. -/
def mwaitBatch (f : FmtB) (c : Ctx) : BitVec 16 :=
  let bi := c.warp.csr.batchIssued
  let t := (uval c (opd9 f.a)).setWidth 16 + f.imm.extractLsb' 0 16
  let n := if f.imm.getLsbD 16 then bi - t else t
  if batchAhead n bi then bi else n

/-- `mwait`: a path that waits keeps the batch it named. -/
def mwaitEff (f : FmtB) (c : Ctx) (s : State) : Res :=
  let n := match c.slot.wait with | .mwait n => BitVec.ofNat 16 n | _ => mwaitBatch f c
  if batchAhead n c.warp.csr.batchDone then .wait (.mwait n.toNat) else .done s

/-- The shape of `mwait`. -/
def mwaitShape (f : FmtB) : Shape :=
  { opcodeBad := f.d != 0 || f.ty != 0 || f.imm.extractLsb' 17 15 != 0, fields := [usrcFld (opd9 f.a) false],
            gov := false }

def mwaitIssue (i : Instr) (f : FmtB) (s : State) :
    Host.Outcome State Fault Refusal :=
  issue i (mwaitShape f) noPre (mwaitEff f) s

/-! ### Shape records (R418-R420) -/

/-- A tensor shape record (R418). -/
structure TShape where
  taddr : DWord
  tstride : Nat
  rows : Nat
  cols : Nat
  vrows : Nat
  vcols : Nat
  tfmt : Nat
  lfmt : Nat
  rmode : Nat
  add : Bool
  soff : Nat
  spitch : Nat
  deriving DecidableEq, Repr

/-- The record in an octet. -/
def shapeOf (ws : List Word) : TShape :=
  let w3 := wordAt ws 3
  let w4 := wordAt ws 4
  let w5 := wordAt ws 5
  { taddr := addrAt ws 0, tstride := wordAt ws 2, rows := w3 % 65536, cols := w3 / 65536, vrows := w4 % 65536,
    vcols := w4 / 65536, tfmt := w5 % 16, lfmt := w5 / 16 % 16, rmode := w5 / 256 % 4, add := w5.testBit 10,
    soff := wordAt ws 6 % 2 ^ 19, spitch := wordAt ws 7 % 2 ^ 20 }

/-- Rows and columns in range. -/
def TShape.r (t : TShape) : Nat := min t.rows t.vrows
def TShape.c (t : TShape) : Nat := min t.cols t.vcols
/-- Where tensor row `i` begins. -/
def TShape.rowAddr (t : TShape) (i : Nat) : DWord := t.taddr + BitVec.ofNat 64 (i * t.tstride * munit t.tfmt)
/-- The tensor span and the local span (R420). -/
def TShape.tensorSpan (t : TShape) (b : Block) : SpanChk :=
  spanOf b t.taddr (if t.r = 0 ∨ t.c = 0 then 0 else (t.r - 1) * t.tstride * munit t.tfmt + rowSpan t.tfmt t.c)
def TShape.localExt (t : TShape) : Nat := (t.rows - 1) * t.spitch + rowSpan t.lfmt t.cols
def TShape.localSpan (t : TShape) : SpanChk :=
  { lo := sliceVa t.soff, hi := sliceVa (t.soff + t.localExt - 1), codes := [] }

/-- The number of elements in which a format's columns come. -/
def colUnit (fmt : Nat) : Nat := if fmt = 10 then 2 else if fmt = 9 then 4 else if mscaled fmt then 32 else 1
/-- The element size that aligns an address: that of 16- and 32-bit formats. -/
def alignOf (fmt : Nat) : Nat := match mbits fmt with | 16 => 2 | 32 => 4 | _ => 1

/-- The precise checks of R420; `kind` is 0 `enl`, 1 `fix`, 2 `mdrain`. -/
def shapeChecks (kind : Nat) (ws : List Word) (comp : List Word) (b : Block) : List (BitVec 8 × DWord) :=
  let t := shapeOf ws
  let shape (bad : Bool) : List (BitVec 8 × DWord) := if bad then [(codeMmaShape, 0)] else []
  let top := if kind = 2 then 64 else 1024
  let u := max (colUnit t.tfmt) (colUnit t.lfmt)
  let loc : DWord := BitVec.ofNat 64 (62 * 2 ^ 51) + BitVec.ofNat 64 t.soff
  (if 14 ≤ t.tfmt ∨ 14 ≤ t.lfmt then [(codeIllegalOpcode, 0)] else []) ++
  shape (wordAt ws 5 / 2 ^ 11 != 0 || wordAt ws 6 / 2 ^ 19 != 0 || wordAt ws 7 / 2 ^ 20 != 0 ||
    (kind == 2 && (wordAt ws 6 != 0 || wordAt ws 7 != 0))) ++
  shape (t.rows == 0 || t.cols == 0 || decide (top < t.rows) || decide (top < t.cols)) ++
  shape (!convOk (kind == 0) t.lfmt t.tfmt || (kind == 2 && !([0, 1, 11, 12].contains t.lfmt)) ||
    (t.add && (kind == 0 || !([11, 12].contains t.tfmt)))) ++
  shape (t.cols % u != 0 || (decide (t.vcols < t.cols) && t.vcols % u != 0)) ++
  (if t.taddr.toNat % alignOf t.tfmt ≠ 0 ∨ t.tstride % alignOf t.tfmt ≠ 0 then [(codeMisalign, t.taddr)] else []) ++
  (if t.soff % alignOf t.lfmt ≠ 0 ∨ t.spitch % alignOf t.lfmt ≠ 0 then [(codeMisalign, loc)] else []) ++
  (t.tensorSpan b).codes ++
  (if kind ≠ 2 ∧ 1024 * b.lrec.scratch < t.soff + t.localExt then [(codeScratch, loc)] else []) ++
  shape (wordAt comp 3 != 0) ++ (if (addrAt comp 0).toNat % 4 ≠ 0 then [(codeMisalign, addrAt comp 0)] else [])

/-! ### Engine commands at issue (R421-R425) -/

/-- A bay's engine queue has a place (R222). The spec does not say whether the 32 places hold the commands in progress: they do (log
69). -/
def Bay.enlRoom (b : Bay) : Bool := decide (b.enl.length < 32)
def Bay.fixRoom (b : Bay) : Bool := decide (b.fix.length < 32)

/-- The command of this issue. -/
def engCmd (c : Ctx) (id kind : Nat) (ws comp : List Word) : EngCmd :=
  { id := id, core := c.blk.core, bid := c.ref.bid, wi := c.ref.wi, pc := c.fpc, gid := c.blk.gid, warpNo := c.warp.number,
    kind := kind, shape := ws, comp := if comp = [] then none else some comp, secure := c.warp.secure, priv := c.warp.priv,
    state := 0, waitTile := kind == 2, tile := [], row := 0, token := none, fva := 0, lane := lowLane c.em }

/-- A command put into its engine's queue and counted for its warp. -/
def submit (c : Ctx) (cmd : EngCmd) (s : State) : State :=
  (s.updBay (bkOfCk c.blk.core) (fun b =>
    if cmd.kind = 0 then { b with enl := b.enl ++ [cmd] } else { b with fix := b.fix ++ [cmd] })).updWarp c.ref.bid c.ref.wi
    (fun w => { w with engCmds := w.engCmds ++ [(cmd.id, cmd.kind != 0)] })

/-- The fields of a command: a shape octet in A, a completion quad or zero in B. -/
def engFields (f : FmtA) : List Field :=
  [groupFld (opd9 f.a) 8 false (f.strict.getLsbD 0), groupFld (opd9 f.b) 4 true (f.strict.getLsbD 1)]

/-- The shape of `mdrain`. -/
def mdrainShape (f : FmtA) (s : State) : Shape :=
  { opcodeBad := matBad f true true 0 || tileDBad f || f.c != 0, fields := tileFld s (tileOfD f) :: engFields f,
            gov := false }

/-- `mdrain` (R424): a place in the matrix queue and in the Fixer's. -/
def mdrainIssue (i : Instr) (f : FmtA) (s : State) :
    Host.Outcome State Fault Refusal :=
  let ws (c : Ctx) := kWords c (opd9 f.a) 8
  let cp (c : Ctx) := kWords c (opd9 f.b) 4
  issue i (mdrainShape f s)
    (fun c _ => warpFault c (shapeChecks 2 (ws c) (cp c) c.blk))
    (fun c s => enqueue c (ws c ++ cp c) [] 0 (fun op => [lockFor c op true 5 ((shapeOf (ws c)).tensorSpan c.blk)])
      (s.bay (bkOfCk c.blk.core)).fixRoom (fun op s => submit c (engCmd c op 2 (ws c) (cp c)) s) s) s

/-- The shape of `eng`. -/
def engShape (f : FmtA) : Shape :=
  { opcodeBad := matBad f true true 0 || f.d != 0 || f.c != 0, fields := engFields f, gov := false }

/-- `enl` and `fix` (R422, R423). -/
def engIssue (i : Instr) (kind : Nat) (f : FmtA) (s : State) :
    Host.Outcome State Fault Refusal :=
  let ws (c : Ctx) := kWords c (opd9 f.a) 8
  let cp (c : Ctx) := kWords c (opd9 f.b) 4
  let locks (c : Ctx) (id : Nat) : List RLock :=
    let t := shapeOf (ws c)
    if kind = 0 then [lockFor c id false 3 (t.tensorSpan c.blk), lockFor c id true 4 t.localSpan]
    else [lockFor c id true 6 (t.tensorSpan c.blk)]
  issue i (engShape f)
    (fun c _ => warpFault c (shapeChecks kind (ws c) (cp c) c.blk))
    (fun c s =>
      let bay := s.bay (bkOfCk c.blk.core)
      if (if kind = 0 then bay.enlRoom else bay.fixRoom) = false ∨
          (s.core c.blk.core).freeLocks.length < (locks c s.nextId).length then .stall
      else
        let id := s.nextId
        .done (submit c (engCmd c id kind (ws c) (cp c))
          ({ s with nextId := id + 1 }.updCore c.blk.core (fun k => k.claim (locks c id))))) s

/-- `ewait` (R425): the commands are those issued before it; once it goes on, the writes of the complete ones are ordered
before the warp's later accesses (R174), and one of them that wrote on the tensor side makes it an acquire (R141). -/
def ewaitEff (f : FmtB) (c : Ctx) (s : State) : Res :=
  let (ids, allow) := match c.slot.wait with
    | .ewait ids allow => (ids, allow)
    | _ => (c.warp.engCmds, min ((uval c (opd9 f.a)).toNat + f.imm.toNat) (2 ^ 32 - 1))
  let left := engLeft s ids
  if allow < left then .wait (.ewait ids allow)
  else
    let s1 := if ids.any (fun x => x.2 && engLeft s [x] == 0) then acquireL1 s c.blk.core else s
    let s2 := s1.updWarp c.ref.bid c.ref.wi (fun w =>
      { w with engCmds := w.engCmds.filter (fun x => engLeft s [x] != 0) })
    .done (writeK c (opd9 f.d) 1 (BitVec.ofNat 128 left) s2)

/-- The shape of `ewait`. -/
def ewaitShape (f : FmtB) : Shape :=
  { opcodeBad := f.ty != 0, fields := [udstFld (opd9 f.d) 1, usrcFld (opd9 f.a) false], gov := false }

def ewaitIssue (i : Instr) (f : FmtB) (s : State) :
    Host.Outcome State Fault Refusal :=
  issue i (ewaitShape f) noPre (ewaitEff f) s

end Sys2Proof.Machine
end

