-- ==== Sys2Proof/Machine/Respond.lean ====
section
/-!
DEFINITION. What comes back to a core: values and acknowledgements (R79, R115, R123), the load barrier (R183), `waitv` (R394),
long results (R328), deferred faults (R56), the operand log and its replay (R62-R65).
-/

namespace Sys2Proof.Machine

/-! ### Delivery (R79) -/

/-- Final values for some lanes of an instruction in flight: written to the register, which is full when every lane has
its own. -/
def deliver (s : State) (tag : Nat) (lanes : Word) (f : Nat → BitVec 128) : State :=
  match s.pend? tag with
  | none => s
  | some p =>
    let need := p.need &&& ~~~lanes
    let s1 := s.updWarp p.bid p.wi (fun w => w.putN p.dst.opd p.dst.words (lanes &&& p.need) f)
    if need = 0 then (s1.updWarp p.bid p.wi (fun w => w.markFull (p.dst.regs' ++ p.dst2.regs'))).dropPend tag
    else s1.updPend tag (fun p => { p with need := need })

/-- Lanes that take undefined values, in each destination of the instruction (R56, R79). -/
def deliverUndef (s : State) (tag : Nat) (m : Word) : State :=
  let b := s.freeCtr
  let x (k i : Nat) : BitVec 128 := Config.freeValue (b + 64 * k + 2 * i + 1) ++ Config.freeValue (b + 64 * k + 2 * i)
  let s1 := match s.pend? tag with
    | some p => s.updWarp p.bid p.wi (fun w => w.putN p.dst2.opd p.dst2.words (m &&& p.need) (x 1))
    | none => s
  deliver { s1 with freeCtr := b + 128 } tag m (x 0)

/-- A loaded value as its register takes it (R379, R382). -/
def loadValue (n : Nat) (sx : Bool) (v : BitVec 128) : BitVec 128 :=
  let x := v.toNat % 2 ^ (8 * n)
  if sx && decide (2 ^ (8 * n - 1) ≤ x) then BitVec.ofNat 128 (x + 2 ^ 32 - 2 ^ (8 * n)) else BitVec.ofNat 128 x

/-! ### `waitv` (R394) -/

/-- The lanes of a `waitv` whose last read meets its condition. -/
def waitvMet (p : Pend) (cond n : Nat) : Bool :=
  (lanesOf p.need).all (fun i => match p.vals.get? i with
    | some v => waitvHolds cond n (v.setWidth 64) (p.aux.get 0 i)
    | none => false)

/-- The path of a `waitv` goes on at the address the instruction in flight keeps. -/
def waitvGoOn (w : Warp) (slot : Nat) (tag : Nat) (next : DWord) : Warp :=
  match w.slots[slot]? with
  | some sl =>
    if sl.wait = .waitv tag then
      let (pc, w1) := loopEnd 3 w next
      { w1 with slots := w1.slots.modify slot (fun x => { x with path := { x.path with pc := pc }, wait := .ready }) }
    else w
  | none => w

/-- The end of a `waitv`: every lane takes its last value, and nothing of it stays logged. Only a satisfying read carries the order. -/
def waitvEnd (s : State) (p : Pend) (met : Bool) : State :=
  let s1 := if met && (p.order == .acq || p.order == .ar) && p.scope != .block then
      (match s.block? p.bid with | some b => acquireL1 s b.core | none => s) else s
  let s2 := s1.updWarp p.bid p.wi (fun w => waitvGoOn w p.slot p.tag (p.aux.get 0 64))
  let s3 := ({ s2 with reqs := s2.reqs.filter (fun r => r.tag != p.tag || r.kind != .load) } : State).updWarp p.bid p.wi
    (fun w => w.freeLog (fun e => e.tag == p.tag))
  let b := s3.freeCtr
  deliver { s3 with freeCtr := b + 64 } p.tag p.need (fun i => match p.vals.get? i with
    | some v => v
    | none => Config.freeValue (b + 2 * i + 1) ++ Config.freeValue (b + 2 * i))

/-- Whether a lane of an instruction stands in the operand log. -/
def laneLogged (s : State) (p : Pend) (i : Nat) : Bool :=
  match s.warp? p.bid p.wi with
  | some w => w.log.any (fun e => e.state != .free && e.tag == p.tag && e.lanes.getLsbD i)
  | none => false

/-- A `waitv` completes when every lane is satisfied, or when the grid is cancelled and no lane awaits its first read. A lane that has
read nothing because it is logged takes an undefined value then (log 79). -/
def waitvTry (s : State) (tag : Nat) : State :=
  match s.pend? tag with
  | some p =>
    match p.kind with
    | .waitv cond n =>
      if waitvMet p cond n then waitvEnd s p true
      else
        let cancelled := match s.block? p.bid with | some b => b.cancel | none => false
        if cancelled && (lanesOf p.need).all (fun i => (p.vals.get? i).isSome || laneLogged s p i) then waitvEnd s p false else s
    | _ => s
  | none => s

/-- Lanes of a `waitv` with neither a satisfying value nor a read or replay on its way, and no buffered store to their line
(R160). -/
def waitvOpen (s : State) (p : Pend) (cond n : Nat) : Word :=
  maskOf ((lanesOf p.need).filter (fun i =>
    !(match p.vals.get? i with | some v => waitvHolds cond n (v.setWidth 64) (p.aux.get 0 i) | none => false) &&
    !s.reqs.any (fun r => r.tag == p.tag && r.lane == i) &&
    !laneLogged s p i &&
    !(match s.block? p.bid with
      | some b => (s.core b.core).wbHas (vlineOf (p.aux.get 0 (32 + i)))
      | none => false)))

/-- Whether a `waitv` may read again now: once each cc at most. -/
def waitvDue (s : State) (tag : Nat) : Bool :=
  match s.pend? tag with
  | some p => (match p.kind with
      | .waitv cond n => waitvOpen s p cond n != 0 && p.vals.get? 65 != some (BitVec.ofNat 128 s.clock)
      | _ => false)
  | none => false

/-- The reads of a `waitv` are made again (R394). -/
def waitvPoll (s : State) (tag : Nat) : State :=
  match s.pend? tag with
  | some p =>
    match p.kind, s.block? p.bid, s.warp? p.bid p.wi with
    | .waitv cond n, some b, some w =>
      let m := waitvOpen s p cond n
      if m = 0 then s
      else
        let s1 := s.updPend tag (fun p => { p with vals := p.vals.set 65 (BitVec.ofNat 128 s.clock) })
        (lanesOf m).foldl (fun s i => sendLoad s
          { id := 0, core := b.core, bid := p.bid, wi := p.wi, tag := tag, lane := i, kind := .load, va := p.aux.get 0 (32 + i),
            size := n, data := 0, cmp := 0, strong := true, order := .rlx, scope := .system, hint := 0, secure := w.secure,
            priv := w.priv, stage := .toOwner, pa := 0, attr := .zero, value := 0,
            pieces := [], line := [], fill := false, seq := 0, obj := 0, replay := none, arrived := none, half := none }) s1
    | _, _, _ => s
  | none => s

/-! ### The load barrier at the core (R183) -/

/-- A value of `hld`, `hcas` or an import arrives: steps 2 and 3. The instruction in flight keeps, for a lane to be healed,
the word's address at 32 and the object's at 64 above the lane. -/
def barrierArrive (s : State) (r : Req) (p : Pend) : State :=
  let v : DWord := r.value.setWidth 64
  let one : Word := 1#32 <<< r.lane
  let (good, s1) := goodColour s r.core r.secure
  if refNull v || refColour v == good then deliver s1 p.tag one (fun _ => r.value)
  else if refOwned v = false then deliver s1 p.tag one (fun _ => (healRef v good (refAddr v)).setWidth 128)
  else
    let s2 := if r.kind = .refLoad then
        s1.updPend p.tag (fun p => { p with aux := (p.aux.set (32 + r.lane) r.va).set (64 + r.lane) r.obj })
      else s1
    let data : BitVec 128 := (good.setWidth 64 ||| 4#64) ++ v
    let same (q : Req) : Bool := q.tag == p.tag && q.kind == .resolve && q.data == data && q.stage.isOpen
    match s2.reqs.find? same with
    | some q => s2.updReq q.id (fun q => { q with cmp := q.cmp ||| (one.setWidth 64) })
    | none => s2.addReq { r with kind := .resolve, va := refAddr v, obj := refAddr v, size := 8, data := data,
                                 cmp := one.setWidth 64, value := 0, stage := .toOwner, seq := 0, replay := none, attr := .zero,
                                 arrived := none }

/-- A resolve answer arrives: the healed reference is delivered to the lanes that asked (step 5), and one healing
compare-and-swap is sent for each distinct word (step 4). -/
def resolveArrive (s : State) (r : Req) (p : Pend) : State :=
  let v : DWord := r.data.setWidth 64
  let good : BitVec 2 := r.data.extractLsb' 64 2
  let m : Word := r.cmp.setWidth 32
  let h := healRef v good (r.value.setWidth 64)
  let words := ((lanesOf m).filter (fun i => (p.aux.get? (64 + i)).isSome)).map (fun i => (p.aux.get 0 (32 + i), p.aux.get 0 (64 + i)))
  let s1 := words.eraseDups.foldl (fun s w => s.addReq
    { r with kind := .heal, va := w.1, obj := w.2, data := h.setWidth 128, cmp := v, value := 0, stage := .toOwner, seq := 0,
             strong := true, order := .rlx, scope := .system, replay := none, attr := .zero, arrived := none }) s
  deliver s1 p.tag m (fun _ => h.setWidth 128)

/-- A resolved side of a lane's `hcmp` (R401): the lane is decided when both sides are. -/
def hcmpArrive (s : State) (r : Req) (p : Pend) : State :=
  let s1 := s.updPend p.tag (fun p => { p with aux := p.aux.set (r.lane + 32 * r.data.toNat) (refAddr (r.value.setWidth 64)) })
  if s1.reqs.any (fun q => q.tag == p.tag && q.lane == r.lane) then s1
  else
    match s1.pend? p.tag with
    | some p' => deliver s1 p.tag (1#32 <<< r.lane)
        (fun _ => if vaddr (p'.aux.get 0 r.lane) = vaddr (p'.aux.get 0 (r.lane + 32)) then 1 else 0)
    | none => s1

/-- The result of `hpin` and `hunpin` (R191, R403): the healed reference, and for `hpin` the raw alias of the present
copy. The request's `obj` is the present copy's address. -/
def pinArrive (s : State) (r : Req) (p : Pend) (bias : Bool) : State :=
  let (good, s1) := goodColour s r.core r.secure
  let h := withPin (healRef (r.data.setWidth 64) good r.obj) bias
  let one : Word := 1#32 <<< r.lane
  let s2 := s1.updWarp p.bid p.wi (fun w => w.putN p.dst2.opd 2 one (fun _ => (rawAlias r.obj).setWidth 128))
  deliver s2 p.tag one (fun _ => h.setWidth 128)

/-- What `hsize` gives (R404). -/
def sizeWord (hdr : DWord) : Word :=
  BitVec.ofNat 32 (8 * ((hdr.extractLsb' 0 13).toNat + 1)) ||| ((hdr.extractLsb' 16 8).setWidth 32 <<< 24)

/-! ### A value arrives (R79, R115) -/

/-- Whether an answer fills the L1: an ordinary load that missed, of a page of class 0, 2 or 3 (R139, R146). -/
def Req.fills (r : Req) : Bool :=
  r.fill && !r.strong && (r.hint == 0 || r.hint == 3) && r.line != [] && r.attr.cls != 1 && decide (ownerOf r.va < 56)

/-- What an answer does to the core's L1: it fills the line, or, where it was read in memory and fills nothing, no older copy of the
line is left to serve a later load (R139, R167). What was read earlier does not come in after it. -/
def answerL1 (s : State) (r : Req) : State :=
  if r.fills then s.updCore r.core (fun c => c.l1Fill { vline := vlineOf r.va, bytes := r.line, attr := r.attr, locks := [] })
  else if r.kind == .prefetch || r.attr.size == 0 then s
  else (s.updCore r.core (fun c => { c with l1 := c.l1.filter (fun l => l.vline != vlineOf r.va && l.attr.pline != r.attr.pline) })).noFill
    r.core (fun q => q.stage.hasRead && (vlineOf q.va == vlineOf r.va || q.attr.pline == r.attr.pline))

/-- The entry of a replay completes when none of its requests is left (R64). -/
def entryDone (s : State) (r : Req) : State :=
  match r.replay with
  | none => s
  | some i =>
    if s.reqs.any (fun q => q.tag == r.tag && q.replay == some i && q.bid == r.bid && q.wi == r.wi) then s
    else s.updWarp r.bid r.wi (fun w => { w with log := w.log.modify i (fun e =>
      if e.state = .replaying && e.tag == r.tag then LogEnt.empty else e) })

/-- The answer of one lane's request reaches the core. -/
def respond (s : State) (r : Req) : State :=
  let s0 := s.dropReq r.id
  let s1 := if r.acqWide && r.kind != .heal then acquireL1 s0 r.core else answerL1 s0 r
  let one : Word := 1#32 <<< r.lane
  let s2 := match s1.pend? r.tag with
    | none => s1
    | some p =>
      match p.kind with
      | .load n sx => deliver s1 p.tag one (fun _ => loadValue n sx r.value)
      | .waitv _ _ => waitvTry (s1.updPend p.tag (fun p => { p with vals := p.vals.set r.lane r.value })) p.tag
      | .refLoad => if r.kind = .resolve then resolveArrive s1 r p else barrierArrive s1 r p
      | .hcmp => if r.kind = .resolve then hcmpArrive s1 r p else deliver s1 p.tag one (fun _ => r.value)
      | .pin bias => pinArrive s1 r p bias
      | .hsize => deliver s1 p.tag one (fun _ => (sizeWord (r.value.setWidth 64)).setWidth 128)
      | _ => deliver s1 p.tag one (fun _ => r.value)
  entryDone s2 r

/-- Whether an answered request may be delivered: answers of one core and line arrive in the order performed, and one that a
migration sent on waits for its release (R129). -/
def mayRespond (s : State) (r : Req) : Bool :=
  r.stage == .answered && !forwardedOn s r.id &&
  !s.reqs.any (fun q => q.core == r.core && q.stage == .answered && vlineOf q.va == vlineOf r.va && decide (q.seq < r.seq))

/-! ### Acknowledgements (R123) -/

/-- An acknowledgement reaches the core: aliases of the physical line leave the L1, the lanes are acknowledged. -/
def ackArrive (s : State) (r : Req) : State :=
  let vl := vlineOf r.va
  let drop (l : CLine) : Bool := l.attr.pline == r.attr.pline && (l.vline != vl || r.strong)
  let s1 := ((s.dropReq r.id).updCore r.core (fun c => { c with l1 := c.l1.filter (fun l => !drop l) })).noFill r.core
    (fun q => q.attr.pline == r.attr.pline && vlineOf q.va != vl && q.stage.hasRead)
  let lanes := if r.pieces = [] then [(r.tag, r.lane)] else r.pieces.map (fun p => (p.tag, p.lane))
  entryDone (lanes.foldl (fun s x => deliver s x.1 (1#32 <<< x.2) (fun _ => 0)) s1) r

/-! ### Deferred faults (R56) -/

/-- The lanes a request stands for. -/
def Req.laneMask (r : Req) : Word :=
  if r.kind = .resolve ∧ (r.data >>> 64) ≠ 0 then r.cmp.setWidth 32 else 1#32 <<< r.lane

/-- One faulting lane joins its instruction's deferred fault: one entry for each instruction and code. -/
def joinDeferred (ds : List Deferred) (d : Deferred) : List Deferred :=
  if ds.any (fun x => x.tag == d.tag && x.code == d.code) then
    ds.map (fun x => if x.tag = d.tag ∧ x.code = d.code then
      { x with lanes := x.lanes ||| d.lanes, addr := if lowLane d.lanes < lowLane x.lanes then d.addr else x.addr } else x)
  else ds ++ [d]

/-- The fault of one lane's request reaches the core: the lane's destination is undefined. A prefetch and a heal raise
nothing. -/
def faultArrive (s : State) (r : Req) (code : BitVec 8) (kind : Nat) : State :=
  let s0 := s.dropReq r.id
  let lanes := if r.pieces = [] then [(r.tag, r.laneMask)] else r.pieces.map (fun p => (p.tag, 1#32 <<< p.lane))
  let s1 := lanes.foldl (fun s x =>
    match s.pend? x.1 with
    | none => s
    | some p =>
      let d : Deferred := { code := code, kind := kind, pc := p.pc, lanes := x.2, addr := r.va, tag := x.1, lane := lowLane x.2 }
      let s1 := deliverUndef s x.1 x.2
      s1.updWarp p.bid p.wi (fun w => { w with deferred := joinDeferred w.deferred d })) s0
  let s2 := match s1.pend? r.tag with | some p => (match p.kind with | .waitv _ _ => waitvTry s1 r.tag | _ => s1) | none => s1
  entryDone s2 r

/-- Deferred-class faults of a warp that are on their way. -/
def faultsFor (s : State) (bid wi : Nat) : List Req :=
  s.reqs.filter (fun r => (match r.stage with | .faulted _ false => true | _ => false) &&
    r.threads.any (fun t => t.1 == bid && t.2.1 == wi))

/-- Whether the path of slot `k` is live and holds a lane; whether a spilled path does. -/
def Warp.slotHolds (w : Warp) (n k : Nat) : Bool := match w.slots[k]? with | some sl => sl.live && sl.path.mask.getLsbD n | none => false
def Warp.spillHolds (w : Warp) (n : Nat) : Bool := w.spill.any (fun e => match e with | .path p _ => p.mask.getLsbD n | .join .. => false)

/-- The slot at which a deferred fault is delivered: the faulting path's, at a boundary (R56, R59, R304). The faulting path is the
one that holds the entry's lane. While it lies on the spill stack the fault waits for it; when its lanes have exited, a live
path takes the fault (log 58). -/
def deliverySlot (w : Warp) (d : Deferred) : Option Nat :=
  let ok (k : Nat) : Bool := match w.slots[k]? with | some sl => sl.live && sl.atBoundary | none => false
  match (List.range w.slots.length).find? (w.slotHolds d.lane) with
  | some k => if ok k then some k else none
  | none => if w.spillHolds d.lane then none else (List.range w.slots.length).find? ok

/-- The deferred fault that is due first: that of the instruction issued earliest, at its lowest code (R57). -/
def firstDeferred : List Deferred → Option Deferred
  | [] => none
  | d :: t => match firstDeferred t with
    | none => some d
    | some e => some (if e.tag < d.tag ∨ (e.tag = d.tag ∧ e.code < d.code) then e else d)

/-- Whether a lane of an instruction is still on its way, so that it may yet raise the same fault: a request, but one whose
fault waits to be logged, or a store in the write buffer. -/
def laneOpen (s : State) (tag : Nat) : Bool :=
  s.reqs.any (fun r => (r.tag == tag || r.pieces.any (fun p => p.tag == tag)) &&
    (match r.stage with | .faulted _ true => false | _ => r.kind != .prefetch && r.kind != .heal)) ||
  s.pends.any (fun p => p.tag == tag && p.feed != []) ||
  s.cores.any (fun c => c.2.wb.any (fun b => b.2.any (fun e => e.pieces.any (fun p => p.tag == tag))))

/-- The deferred faults of a warp that can be taken: those all of whose lanes are known, FAULTLANES being the lanes that
raised the code (R57). -/
def dueFaults (s : State) (w : Warp) : List Deferred := w.deferred.filter (fun d => d.tag == 0 || !laneOpen s d.tag)

/-- A deferred fault taken from its warp. -/
def takeDeferred (s : State) (bid wi : Nat) (d : Deferred) : State :=
  s.updWarp bid wi (fun w => { w with deferred := w.deferred.filter (fun x => !(x.tag == d.tag && x.code == d.code)) })

/-- Whether a deferred fault of a warp can be delivered now: to a path at its boundary or, of a warp that has exited, to the
fault record; the warps of a terminated block take none. -/
def deferredDue (s : State) (bid wi : Nat) : Bool :=
  faultsFor s bid wi != [] ||
  (match s.block? bid, s.warp? bid wi with
    | some b, some w => (match firstDeferred (dueFaults s w) with
        | some d => if w.done then !b.killed else (deliverySlot w d).isSome
        | none => false)
    | _, _ => false)

/-- Whether a deferred fault that has reached the core stops a warp: it can be taken at the boundary where its path stands
(R56). -/
def warpStopped (s : State) (b : Block) (w : Warp) : Bool :=
  !b.killed && (match firstDeferred (dueFaults s w) with | some d => (deliverySlot w d).isSome | none => false)

/-- Deferred faults reach the warp, and the first that is due is delivered (R56); when the warp has exited, to the fault
record (R59). -/
def deliverDeferred (s : State) (bid wi : Nat) : State :=
  let s1 := (faultsFor s bid wi).foldl (fun s r =>
    match r.stage with | .faulted code _ => faultArrive s r code 1 | _ => s) s
  match s1.block? bid, s1.warp? bid wi with
  | some b, some w =>
    match firstDeferred (dueFaults s1 w) with
    | none => s1
    | some d =>
      let f : Flt := { code := d.code, kind := d.kind, lanes := d.lanes, addr := d.addr, pc := d.pc }
      if w.done then (if b.killed then s1 else recordFault (takeDeferred s1 bid wi d) bid wi f)
      else match deliverySlot w d with
        | none => s1
        | some k => takeFault (takeDeferred s1 bid wi d) { bid := bid, wi := wi, slot := k } f
  | _, _ => s1

/-! ### The operand log (R62) -/

/-- Translation faults of an instruction that have reached the core. -/
def loggedFaults (s : State) (tag : Nat) : List Req :=
  s.reqs.filter (fun r => r.tag == tag && (match r.stage with | .faulted _ true => true | _ => false))

/-- Whether a lane of an instruction has still to be translated. -/
def untranslated (s : State) (tag : Nat) : Bool :=
  s.reqs.any (fun r => (r.tag == tag || r.pieces.any (fun p => p.tag == tag)) &&
    (match r.stage with | .toOwner | .walking _ | .heldOwner => true | _ => false)) ||
  s.pends.any (fun p => p.tag == tag && p.feed != []) ||
  s.cores.any (fun c => c.2.wb.any (fun b => b.2.any (fun e => e.pieces.any (fun p => p.tag == tag))))

/-- The entry an instruction is logged in: the one whose replay faulted, else the lowest free one. -/
def logPlace (w : Warp) (tag : Nat) : Option Nat :=
  match (List.range 4).find? (fun i => match w.log[i]? with | some e => e.state == .replaying && e.tag == tag | none => false) with
  | some i => some i
  | none => (List.range 4).find? (fun i => match w.log[i]? with | some e => e.state == .free | none => false)

/-- Whether the faults of an instruction can be logged now: all of them are known, and either there is room or the warp
is not yet stalled for it (R62). -/
def logDue (s : State) (tag : Nat) : Bool :=
  loggedFaults s tag != [] && !untranslated s tag &&
  (match s.pend? tag with
    | some p => (match s.warp? p.bid p.wi with
        | some w => (logPlace w tag).isSome || !w.logWait.contains tag
        | none => true)
    | none => true)

/-- The lanes of a faulted request with the address and data the log holds for each: a faulted resolve logs the access
of step 1, or, for `hcas` and an import, the value already read. -/
def logLanes (p : Pend) (r : Req) : List (Nat × DWord × BitVec 128) :=
  if r.kind = .resolve ∧ p.kind = .refLoad then
    (lanesOf r.laneMask).map (fun i => match p.aux.get? (64 + i) with
      | some o => (i, p.aux.get 0 (32 + i), o.setWidth 128 <<< 64)
      | none => (i, r.va, (r.data.setWidth 64 : DWord).setWidth 128))
  else [(r.lane, r.va, r.logData)]

/-- One fault-queue record of an instruction's faults (R60): the page, the lanes whose fault lies on it, the address of the lowest and
the code. -/
structure PageRec where
  page : Nat × Nat
  lanes : Word
  addr : DWord
  code : BitVec 8
  deriving DecidableEq, Repr

/-- The page that a request's translation fault lies on: as large as the leaf found says, and without a leaf 64 KiB (R60, R117,
log 15). -/
def Req.faultPage (r : Req) : Nat × Nat :=
  let n := if r.attr.size = 0 then 2 ^ 16 else r.attr.size
  (vaddr r.va / n * n, n)

/-- The records of an instruction's faults: one for each distinct page and code. -/
def pageRecords (fs : List Req) : List PageRec :=
  fs.foldl (fun acc r =>
    let code := match r.stage with | .faulted c _ => c | _ => 0
    let same (e : PageRec) : Bool := e.page == r.faultPage && e.code == code
    if acc.any same then
      acc.map (fun e => if same e then
        { e with lanes := e.lanes ||| r.laneMask, addr := if lowLane r.laneMask < lowLane e.lanes then r.va else e.addr } else e)
    else acc ++ [{ page := r.faultPage, lanes := r.laneMask, addr := r.va, code := code }]) []

/-- An instruction's translation faults are logged: the entry, and one record for each page; with the log full the warp
stalls until an entry frees (R62). -/
def logFaults (s : State) (tag : Nat) : State :=
  match s.pend? tag with
  | none => { s with reqs := s.reqs.filter (fun r => !(r.tag == tag && (match r.stage with | .faulted _ true => true | _ => false))) }
  | some p =>
    match s.block? p.bid, s.warp? p.bid p.wi with
    | some b, some w =>
      let fs := loggedFaults s tag
      let drop (s : State) : State := { s with reqs := s.reqs.filter (fun r => !fs.any (fun x => x.id == r.id)) }
      if w.done && !(fs.any (fun r => r.kind.memfx)) then
        fs.foldl (fun s r => deliver s tag r.laneMask (fun _ => 0)) (drop s)
      else match logPlace w tag with
        | none => if w.logWait.contains tag then s else s.updWarp p.bid p.wi (fun w => { w with logWait := w.logWait ++ [tag] })
        | some i =>
          let lanes := fs.flatMap (logLanes p)
          let code : BitVec 8 := match fs with | r :: _ => (match r.stage with | .faulted c _ => c | _ => 0) | [] => 0
          let kind := match fs with | r :: _ => r.kind.recordKind | [] => 0
          let fx := match fs with | r :: _ => r.kind.memfx | [] => false
          let read := fs.any (fun r => r.kind == .resolve && p.kind == .refLoad && !(lanesOf r.laneMask).all (fun l => (p.aux.get? (64 + l)).isSome))
          let (toks, s1) := (pageRecords fs).foldl (fun (acc : List (Nat × BitVec 8) × State) e =>
            let (t, s) := sendRecord acc.2 (faultDk (waferOf (dkOfCk b.core)) e.addr)
              (warpRecord b w e.addr e.code kind i e.lanes) (.logEnt tag)
            (acc.1 ++ [(t, e.code)], s)) ([], drop s)
          let old := match w.log[i]? with | some e => e | none => LogEnt.empty
          let ent : LogEnt :=
            { state := .pending, pc := p.pc, enc := p.enc, lanes := maskOf (lanes.map (·.1)),
              order := orderWord p.order p.scope ||| (if read then 0x100 else 0),
              addr := lanes.map (fun l => (l.1, l.2.1)), data := lanes.map (fun l => (l.1, l.2.2)), tag := tag, kind := kind,
              code := code, tokens := toks, pages := (pageRecords fs).map (·.page), row := 0, memfx := fx && !read,
              seq := if old.state = .free then w.logSeq else old.seq,
              lane := lowLane (maskOf (lanes.map (·.1))) }
          let s2 := s1.updWarp p.bid p.wi (fun w =>
            { w with log := w.log.set i ent, logSeq := if old.state = .free then w.logSeq + 1 else w.logSeq, logWait := w.logWait.filter (· != tag) })
          if old.state = .free then perfAdd s2 b.core 0x0B 1 w.priv w.secure else s2
    | _, _ => s

/-! ### Replay (R64) -/

/-- Whether an entry may replay: resolved; one with a memory effect in the order of logging; one marked fatal is raised. -/
def replayDue (w : Warp) (i : Nat) : Bool :=
  match w.log[i]? with
  | some e =>
    e.state == .fatal ||
    (e.state == .resolved && (!e.memfx || !w.log.any (fun x => x.state != .free && x.memfx && decide (x.seq < e.seq))))
  | none => false

/-- A logged matrix operation as the queue takes it again (R413): the entry's DATA holds, in lane 0, the row [6:0] and the
flags [23:16], and in lanes 1 and 2 the operand quads. -/
def replayOp (b : Block) (w : Warp) (wi : Nat) (e : LogEnt) : MatOp :=
  let q (i : Nat) : List Word := (List.range 4).map (fun j => (e.data.get 0 i).extractLsb' (32 * j) 32)
  { op := e.tag, tag := 0, bid := b.bid, wi := wi, pc := e.pc, enc := e.enc, kops := q 1 ++ q 2, pair := [], row := e.row, startRow := e.row,
    state := 0, bdata := [], need := 0, work := 0, flags := (e.data.get 0 0).extractLsb' 16 8 |>.setWidth 32,
    secure := w.secure, priv := w.priv, lane := e.lane }

/-- An entry is replayed: its access for each logged lane, or the matrix operation at the queue's tail. A fatal entry is
raised as a deferred fault (R60, R68). -/
def replayEntry (s : State) (bid wi i : Nat) : State :=
  match s.block? bid, s.warp? bid wi with
  | some b, some w =>
    match w.log[i]? with
    | none => s
    | some e =>
      if replayDue w i = false then s
      else if e.state = .fatal then
        let addr := e.addr.get 0 (lowLane e.lanes)
        let s1 := deliverUndef s e.tag e.lanes
        let s2 := s1.updWarp bid wi (fun w => w.freeLog (fun x => x == e))
        let s3 := if e.kind = 4 then
            (s2.updCore b.core (fun c => c.unlock e.tag (fun _ => true))).updWarp bid wi (fun w => (w.opDone e.tag).setFlags ((e.data.get 0 0).extractLsb' 16 8 |>.setWidth 32))
          else s2
        let s4 := match s3.pend? e.tag with | some p => (match p.kind with | .waitv _ _ => waitvTry s3 e.tag | _ => s3) | none => s3
        raiseDeferred s4 bid wi { code := e.code, kind := 2, pc := e.pc, lanes := e.lanes, addr := addr, tag := e.tag, lane := e.lane }
      else
        let s1 := s.updWarp bid wi (fun w => { w with log := w.log.set i { e with state := .replaying } })
        if e.kind = 4 then s1.updCore b.core (fun c => { c with matq := c.matq ++ [replayOp b w wi e] })
        else match decodeWord e.enc with
          | .error _ => s1
          | .ok x => match tmplOf x with
            | none => s1
            | some t =>
              (lanesOf e.lanes).foldl (fun s l =>
                let r := replayReq b wi w e i t l
                if x.instr = .hcopy ∨ e.order.getLsbD 8 then answerNow s { r with kind := .refCas, replay := some i } ((e.data.get 0 l).setWidth 64 |>.setWidth 128)
                else s.addReq r) s1
  | _, _ => s

end Sys2Proof.Machine
end

