-- ==== Sys2Proof/Machine/Array.lean ====
section
/-!
DEFINITION. The matrix array at work (R220, R412-R416, R424): reads by the units in a block's world, operations at their turn, faults
of operand reads (R413), and the Safelight (R224-R226).
-/

namespace Sys2Proof.Machine

/-! ### Reads and writes by the units of a core (R409, R421) -/

/-- What a unit's access meets: its bytes, a translation fault, another fault, or a wait. -/
inductive UAns where
  | ok (bs : List Byte)
  | log (code : BitVec 8) (va : DWord)
  | fault (code : BitVec 8) (va : DWord)
  | wait
  deriving DecidableEq, Repr

/-- Whose access it is: the core, the block and the modes it runs in. -/
structure UWho where
  ck : Nat
  bid : Nat
  secure : Bool
  priv : Bool
  deriving DecidableEq, Repr

/-- The pieces of a byte run in one 64 KiB page each, as offset and length. -/
def runPieces : Nat → Nat → Nat → Nat → List (Nat × Nat)
  | 0, _, _, _ => []
  | fuel + 1, a, done, n =>
    if n = 0 then []
    else
      let k := min n (2 ^ 16 - a % 2 ^ 16)
      (done, k) :: runPieces fuel (a + k) (done + k) (n - k)

/-- Whether a migration's page lock holds a unit's access: a write, or a read behind a held write of its lines (R129, R131). -/
def lockHoldsRun (s : State) (a n : Nat) (write : Bool) : Bool :=
  pageLocked s a && (write || s.reqs.any (fun q => q.stage == .heldHome && (linesOf a n).contains (q.extent.1 / 128)))

/-- A page piece translated and checked for an access by a unit: the model address, and what it waits for. An addition in place asks
only W of the page and reads what it adds to (R246, R419). -/
def unitPlace (s : State) (u : UWho) (va : DWord) (n : Nat) (acc : Access) (adds fadd : Bool) : Except UAns Nat × State :=
  let w := waferOf (dkOfCk u.ck)
  let (dk, off) := translator w va
  if ownerOf va ≤ 61 ∧ heldAtOwner s dk off then (.error .wait, s)
  else match translate s w va acc u.priv u.secure with
    | (.error c, s1) => (.error (if c = codeNoPage ∨ c = codePerm then .log c va else .fault c va), s1)
    | (.ok x, s1) =>
      let wr := acc.writes
      if x.host then (.ok x.addr, s1)
      else if x.attr.cls = 1 then (.error (.fault codeHeapClass va), s1)
      else if fadd && x.attr.cls == 2 then (.error (.fault codeAtomicClass va), s1)
      else if frameSecure s1 x.addr ≠ u.secure then (.error (.fault codeWorld va), s1)
      else if x.attr.cls = 2 ∧ winNeeds s1 x.addr n wr ≠ [] then
        (.error .wait, addSnoops s1 (x.addr / 2 ^ 52 % 16) (winNeeds s1 x.addr n wr) wr)
      else if lockHoldsRun s1 x.addr n wr then (.error .wait, s1)
      else if (adds || acc != .write) && s1.poisoned x.addr n then (.error (.fault codeEcc va), s1)
      else (.ok x.addr, s1)

/-- Every piece of a run placed before any is used. -/
def unitPlaces (s : State) (u : UWho) (va : DWord) (n : Nat) (acc : Access) (adds fadd : Bool) :
    Except UAns (List (Nat × Nat × Nat)) × State :=
  (runPieces (n / 2 ^ 16 + 2) (vaddr va) 0 n).foldl (fun (a : Except UAns (List (Nat × Nat × Nat)) × State) p =>
    match a with
    | (.error e, s) => (.error e, s)
    | (.ok l, s) => match unitPlace s u (va + BitVec.ofNat 64 p.1) p.2 acc adds fadd with
      | (.ok x, s1) => (.ok (l ++ [(p.1, p.2, x)]), s1)
      | (.error e, s1) => (.error e, s1)) (.ok [], s)

/-- A unit's access of a byte run, counted at its home once a line (R132). -/
def countLines (s : State) (ck a n : Nat) : State :=
  if 2 ^ 60 ≤ a then s else (linesOf a n).foldl (fun s pl => countHot s (pl * 128) ck) s

/-- Bytes of memory for the array: a copy in the issuing domain's visitor partition may serve them, and of class 3 it is the
domain's own (R151, R409); what the home serves it counts (R132). -/
def unitBytes (s : State) (ck a n : Nat) : List Byte × State :=
  (linesOf a n).foldl (fun (acc : List Byte × State) pl =>
    let lo := max a (pl * 128)
    let k := min (a + n) (pl * 128 + 128) - lo
    match acc.2.vis? (dkOfCk ck) pl with
    | some v => (acc.1 ++ lineSlice v.bytes (lo - pl * 128) k, acc.2)
    | none => let (bs, s1) := (countHot acc.2 (pl * 128) ck).unitRead lo k; (acc.1 ++ bs, s1)) ([], s)

/-- A read of `n` bytes by the array: from the block's slice for owner 62, else by translation. -/
def unitFetch (s : State) (u : UWho) (va : DWord) (n : Nat) : UAns × State :=
  if ownerOf va = 62 then
    match s.block? u.bid with
    | none => (.wait, s)
    | some b => match sliceOff b (offsetOf va) with
      | some o => (.ok (memRead b.slice o n), s)
      | none => (.fault codeScratch va, s)
  else match unitPlaces s u va n .read false false with
    | (.error e, s1) => (e, s1)
    | (.ok ps, s1) =>
      let r := ps.foldl (fun (acc : List Byte × State) p =>
        let (bs, s2) := if 2 ^ 60 ≤ p.2.2 then (memRead acc.2.mem p.2.2 p.2.1, acc.2) else unitBytes acc.2 u.ck p.2.2 p.2.1
        (acc.1 ++ bs, s2)) ([], s1)
      (.ok r.1, r.2)

/-- Bytes written at one model address: at the home with every copy invalidated, or behind a host port. -/
def unitPut (s : State) (a : Nat) (bs : List Byte) : State :=
  if 2 ^ 60 ≤ a then { s with mem := memWrite s.mem a bs } else s.unitWrite a bs

/-- A write of a byte run by an engine. -/
def unitDeposit (s : State) (u : UWho) (va : DWord) (bs : List Byte) : UAns × State :=
  if ownerOf va = 62 then
    match s.block? u.bid with
    | none => (.wait, s)
    | some b => match sliceOff b (offsetOf va) with
      | some o => (.ok [], s.updBlock u.bid (fun b => { b with slice := memWrite b.slice o bs }))
      | none => (.fault codeScratch va, s)
  else match unitPlaces s u va bs.length .write false false with
    | (.error e, s1) => (e, s1)
    | (.ok ps, s1) => (.ok [], ps.foldl (fun s p => unitPut (countLines s u.ck p.2.2 p.2.1) p.2.2 ((bs.drop p.1).take p.2.1)) s1)

/-- Accesses of a warp that it issued before number `id` and that are not performed, stores not acknowledged, and what its operand
log still holds (R174). -/
def earlierOpen (s : State) (bid wi id : Nat) : Bool :=
  s.reqs.any (fun q => q.stage.isOpen && q.kind != .prefetch && q.kind != .heal &&
    q.threads.any (fun t => t.1 == bid && t.2.1 == wi && decide (t.2.2.2 < id))) ||
  s.pends.any (fun p => p.bid == bid && p.wi == wi && p.kind == .store && decide (p.tag < id)) ||
  (match s.warp? bid wi with
    | some w => w.log.any (fun e => e.state != .free && e.kind != 4 && decide (e.tag < id))
    | none => false)

/-! ### Tiles (R78) -/

def tileKey (t i j : Nat) : Nat := t * 4096 + i * 64 + j
def Block.elem (b : Block) (t i j : Nat) : Word := b.tiles.get 0 (tileKey t i j)
def Block.setElem (b : Block) (t i j : Nat) (x : Word) : Block := { b with tiles := b.tiles.set (tileKey t i j) x }
/-- A row of a tile replaced. -/
def Block.setRow (b : Block) (t i : Nat) (xs : List Word) : Block :=
  (List.range 64).foldl (fun b j => b.setElem t i j (xs.getD j 0)) b

/-! ### Operations at their turn (R220, R412, R415, R416, R424) -/

/-- The instruction of an operation with its fields. -/
def MatOp.fields (m : MatOp) : Option (Instr × FmtA) :=
  match decodeWord m.enc with
  | .ok { instr := i, ops := .a f, .. } => some (i, f)
  | _ => none
def MatOp.isMma (m : MatOp) : Bool := match m.fields with | some (.mma, _) | some (.mmaPair, _) => true | _ => false
def MatOp.isPair (m : MatOp) : Bool := match m.fields with | some (.mmaPair, _) => true | _ => false

/-- Need in array-cycles of a whole operation: K, K/2 or K/4 (R412). -/
def mmaNeed (f : FmtA) (k : Nat) : Nat := match chunkOf (fmtA f) with | 16 => k | 32 => k / 2 | _ => k / 4

/-- The work in half array-cycles that an operation owes for its rows `s` up to `r`. -/
def owedFor (need s r : Nat) : Nat := 2 * ((need * (r - s) + 63) / 64)
/-- What the operation owes in all: of a stopped one the rows it completed (R412). -/
def MatOp.owed (m : MatOp) : Nat := if m.state = 3 then owedFor m.need m.startRow m.row else owedFor m.need m.startRow 64
/-- Whether it demands work: operands are present for rows whose work is not done. -/
def MatOp.demands (m : MatOp) : Bool := m.isMma && decide (m.state ≠ 0) && decide (m.work < owedFor m.need m.startRow m.row)

/-- The operation of a core that takes its turn: the oldest, none held by a reservation (R23); an `mma` may begin while earlier
ones only owe work; operations of a halting block do not begin (R66). -/
def matNext (s : State) (ck : Nat) : Option MatOp :=
  let k := s.core ck
  let blocked (m : MatOp) : Bool := k.reservedBy.isSome && k.reservedBy != some m.bid
  let idle (m : MatOp) : Bool := m.state == 0 && (match s.block? m.bid with
    | some b => (match b.phase with | .halting _ => true | _ => false) | none => true)
  let rec go : List MatOp → Bool → Option MatOp
    | [], _ => none
    | m :: t, clear =>
      if m.state = 2 ∨ m.state = 3 then go t false
      else if idle m then go t clear
      else if blocked m then none
      else if m.isMma || clear then
        (if m.state = 0 && earlierOpen s m.bid m.wi m.op then none
         else if (match s.warp? m.bid m.wi with | some w => w.logWait.contains m.op && (logPlace w m.op).isNone | none => true) then none
         else some m)
      else none
  go k.matq true

def State.updMat (s : State) (ck : Nat) (m m' : MatOp) : State :=
  s.updCore ck (fun c => { c with matq := c.matq.map (fun x => if x = m then m' else x) })
def State.dropMat (s : State) (ck : Nat) (m : MatOp) : State :=
  s.updCore ck (fun c => { c with matq := c.matq.filter (fun x => x != m) })

/-- The log entry of a replayed operation frees, and ROWPROG.VALID with it (R64, R90). -/
def Warp.freeEntry (w : Warp) (op : Nat) : Warp :=
  w.freeLog (fun e => e.kind == 4 && e.tag == op)

/-- An operation is complete: off the queue, its locks and log entry freed, its flags set, counted for its batch
(R88, R221). -/
def matDone (s : State) (ck : Nat) (m : MatOp) : State :=
  ((s.dropMat ck m).updCore ck (fun c => c.unlock m.op (fun _ => true))).updWarp m.bid m.wi
    (fun w => ((w.freeEntry m.op).opDone m.op).setFlags m.flags)

/-- A read meets another fault: the operation is abandoned at its row (R413). -/
def matAbandon (s : State) (ck : Nat) (m : MatOp) (code : BitVec 8) (va : DWord) : State :=
  raiseDeferred (matDone s ck m) m.bid m.wi
    { code := code, kind := 1, pc := m.pc, lanes := 1, addr := va, tag := m.op, lane := m.lane }

/-- DATA of a logged operation: the row and the flags in lane 0, the operand quads in lanes 1 and 2 (R63, log 17). -/
def MatOp.logData (m : MatOp) : Tab (BitVec 128) :=
  let q (i : Nat) : BitVec 128 := (List.range 4).foldl (fun x j => x ||| ((m.kops.getD (4 * i + j) 0).setWidth 128 <<< (32 * j))) 0
  [(0, BitVec.ofNat 128 m.row ||| (m.flags.setWidth 128 <<< 16)), (1, q 0), (2, q 1)]

/-- A read meets a translation fault: the operation is logged at its row, with one record (R63, R413); with the log full the
warp stalls (R62). -/
def matLog (s : State) (ck : Nat) (m : MatOp) (code : BitVec 8) (va : DWord) : State :=
  match s.block? m.bid, s.warp? m.bid m.wi with
  | some b, some w =>
    match logPlace w m.op with
    | none => if w.logWait.contains m.op then s else s.updWarp m.bid m.wi (fun w => { w with logWait := w.logWait ++ [m.op] })
    | some i =>
      let (t, s1) := sendRecord s (faultDk (waferOf (dkOfCk ck)) va) (warpRecord b w va code 4 i 1) (.logEnt m.op)
      let old := match w.log[i]? with | some e => e | none => LogEnt.empty
      let fresh := old.state == .free
      let ent : LogEnt :=
        { state := .pending, pc := m.pc, enc := m.enc, lanes := 1, order := 0, addr := [(0, va)], data := m.logData, tag := m.op,
          kind := 4, code := code, tokens := [(t, code)], pages := [], row := m.row, memfx := false, seq := if fresh then w.logSeq else old.seq,
          lane := m.lane }
      let s2 := s1.updWarp m.bid m.wi (fun w =>
        { w with log := w.log.set i ent, logSeq := if fresh then w.logSeq + 1 else w.logSeq, rowSeq := some ent.seq,
                 logWait := w.logWait.filter (· != m.op), csr := { w.csr with rowprog := BitVec.ofNat 32 m.row ||| 0x80 } })
      let s3 := if fresh then perfAdd s2 ck 0x0B 1 w.priv w.secure else s2
      if m.isMma && decide (m.startRow < m.row) then s3.updMat ck m { m with state := 3, bdata := [] } else s3.dropMat ck m
  | _, _ => s.dropMat ck m

/-- The end of an operand read that did not give bytes; `row` is the address of the row it served. -/
def matStop (s : State) (ck : Nat) (m : MatOp) (row : DWord) : UAns → State
  | .log c va => matLog s ck m c va
  | .fault c _ => matAbandon s ck m c row
  | _ => s

/-- The columns of B, read in order. -/
def readCols (s : State) (u : UWho) (va : DWord) (stride n : Nat) : Except (UAns × DWord) (List (List Byte)) × State :=
  (List.range 64).foldl (fun (a : Except (UAns × DWord) (List (List Byte)) × State) j =>
    match a with
    | (.error e, s) => (.error e, s)
    | (.ok l, s) =>
      let v := va + BitVec.ofNat 64 (j * stride)
      match unitFetch s u v n with
      | (.ok bs, s1) => (.ok (bs :: l), s1)
      | (e, s1) => (.error (e, v), s1)) (.ok [], s)

/-- A turn of `mma`: B is read, or the next row is computed; after the last row the locks are freed (R412). -/
def mmaTurn (s : State) (ck : Nat) (m : MatOp) (f : FmtA) : State :=
  let u : UWho := { ck := ck, bid := m.bid, secure := m.secure, priv := m.priv }
  let k := wordAt m.kops 3
  let kb := m.kops.drop 4
  if m.state = 0 then
    match readCols s u (addrAt kb 0) (wordAt kb 2 * munit (fmtB f)) (rowSpan (fmtB f) k) with
    | (.ok l, s1) => s1.updMat ck m { m with state := 1, bdata := l.reverse, need := mmaNeed f k, startRow := m.row, work := 0 }
    | (.error (e, v), s1) => matStop s1 ck m v e
  else
    let v := addrAt m.kops 0 + BitVec.ofNat 64 (m.row * wordAt m.kops 2 * munit (fmtA f))
    match unitFetch s u v (rowSpan (fmtA f) k) with
    | (.ok bs, s1) =>
      let a := natOfBytes bs
      let t := tileOfD f
      let old (j : Nat) : Word := match s1.block? m.bid with | some b => b.elem t m.row j | none => 0
      let rs := (List.range 64).map (fun j => dotElem f.ty.toNat (fmtA f) (fmtB f) k (old j) a (natOfBytes (m.bdata.getD j [])))
      let fl := rs.foldl (fun x r => x ||| r.2) m.flags
      let s2 := s1.updBlock m.bid (fun b => b.setRow t m.row (rs.map (·.1)))
      let m' : MatOp := { m with row := m.row + 1, flags := fl }
      if m.row = 63 then (s2.updMat ck m { m' with state := 2, bdata := [] }).updCore ck (fun c => c.unlock m.op (fun _ => true))
      else s2.updMat ck m m'
    | (e, s1) => matStop s1 ck m v e

/-- A turn of `mload`: the next row is filled (R415). -/
def mloadTurn (s : State) (ck : Nat) (m : MatOp) (f : FmtA) : State :=
  let u : UWho := { ck := ck, bid := m.bid, secure := m.secure, priv := m.priv }
  let e := mloadSize f
  let v := addrAt m.kops 0 + BitVec.ofNat 64 (m.row * wordAt m.kops 2)
  match unitFetch s u v (64 * e) with
  | (.ok bs, s1) =>
    let xs := (List.range 64).map (fun j => BitVec.ofNat 32 (natOfBytes ((bs.drop (j * e)).take e)))
    let s2 := s1.updBlock m.bid (fun b => b.setRow (tileOfD f) m.row xs)
    if m.row = 63 then matDone s2 ck m else s2.updMat ck m { m with row := m.row + 1, state := 1 }
  | (er, s1) => matStop s1 ck m v er

/-- A turn of `mrow` (R416). -/
def mrowTurn (s : State) (ck : Nat) (m : MatOp) (f : FmtA) : State :=
  let t := (f.c.extractLsb' 0 3).toNat
  let row := wordAt m.kops 0
  if mrowPut f then
    let xs := (List.range 64).map (fun j => let p : DWord := m.pair.getD (j / 2) 0
      if j % 2 = 0 then p.setWidth 32 else (p >>> 32).setWidth 32)
    matDone (s.updBlock m.bid (fun b => b.setRow t row xs)) ck m
  else
    let val (b : Block) (l : Nat) : BitVec 128 := ((b.elem t row (2 * l + 1)) ++ (b.elem t row (2 * l))).setWidth 128
    let vals : Tab (BitVec 128) := match s.block? m.bid with | some b => lanes32.map (fun l => (l, val b l)) | none => []
    matDone { s with pends := s.pends.map (fun p => if p.tag = m.tag ∧ p.kind = .matrix then { p with vals := vals } else p) } ck m

/-- A turn of `mdrain`: the tile's elements in range go to the Fixer's command (R424). -/
def mdrainTurn (s : State) (ck : Nat) (m : MatOp) (f : FmtA) : State :=
  let sh := shapeOf m.kops
  let vals : Tab Word := match s.block? m.bid with
    | some b => (List.range sh.r).flatMap (fun i => (List.range sh.c).map (fun j => (i * 64 + j, b.elem (tileOfD f) i j)))
    | none => []
  let give (e : EngCmd) : EngCmd := if e.id = m.op then { e with tile := vals, waitTile := false } else e
  let s1 := s.updBay (bkOfCk ck) (fun b => { b with fix := b.fix.map give })
  (s1.dropMat ck m).updWarp m.bid m.wi (fun w => w.opDone m.op)

/-- MATRIX_OP_TURN: the operation whose turn it is takes a step on the array. -/
def matTurn (s : State) (ck : Nat) : State :=
  match matNext s ck with
  | none => s
  | some m => match m.fields with
    | some (.mma, f) | some (.mmaPair, f) => mmaTurn s ck m f
    | some (.mload, f) => mloadTurn s ck m f
    | some (.mrow, f) => mrowTurn s ck m f
    | some (.mdrain, f) => mdrainTurn s ck m f
    | some (_, f) => matDone (s.updBlock m.bid (fun b =>
        { b with tiles := b.tiles.filter (fun e => e.1 / 4096 != tileOfD f) })) ck m
    | none => s.dropMat ck m

/-! ### The Safelight (R224-R226) -/

/-- Whether a core is the odd core of a pair. -/
def oddOfPair (s : State) (ck : Nat) : Bool := (s.core ck).reservedBy.isSome && slotOfCk ck % 2 == 1

/-- Whether a core demands: for its own queue, or, the odd core of a pair, for the pair's operations on its even neighbour. -/
def coreDemands (s : State) (ck : Nat) : Bool :=
  if oddOfPair s ck then (s.core (ck - 1)).matq.any (fun m => m.isPair && m.demands) else (s.core ck).matq.any (·.demands)

/-- Half array-cycles given to the demanding operations of a queue, oldest first; what is left over is filler. -/
def giveWork (pairOnly : Bool) : Nat → List MatOp → List MatOp
  | _, [] => []
  | n, m :: t =>
    if m.demands && (m.isPair || !pairOnly) then
      let k := min n (m.owed - m.work)
      { m with work := m.work + k } :: giveWork pairOnly (n - k) t
    else m :: giveWork pairOnly n t

/-- Array-cycles of work that a queue's operations gained, and filler, counted in halves (R224, R267). -/
def countWork (s : State) (ck duty : Nat) (old new : List MatOp) : State :=
  let gains := (old.zip new).map (fun x => (x.1, x.2.work - x.1.work))
  let s1 := gains.foldl (fun s x => if x.2 = 0 then s else perfAdd s ck 9 x.2 x.1.priv x.1.secure) s
  let used := gains.foldl (fun n x => n + x.2) 0
  if used < duty then perfAdd s1 ck 10 (duty - used) false false else s1

/-- The work of a core's step, under its duty: the whole of an odd core's goes to the pair (R224). -/
def workCore (s : State) (ck duty : Nat) : State :=
  if duty = 0 then s
  else if oddOfPair s ck then
    let q := (s.core (ck - 1)).matq
    countWork (s.updCore (ck - 1) (fun c => { c with matq := giveWork true duty q })) ck duty q (giveWork true duty q)
  else
    let q := (s.core ck).matq
    countWork (s.updCore ck (fun c => { c with matq := giveWork false duty q })) ck duty q (giveWork false duty q)

/-- Operations whose work has reached what they owe: complete, or, after a logged stop, off the queue. -/
def finishWork (s : State) (ck : Nat) : State :=
  ((s.core ck).matq.filter (fun m => (m.state == 2 || m.state == 3) && decide (m.owed ≤ m.work))).foldl
    (fun s m => if m.state = 2 then matDone s ck m else s.dropMat ck m) s

/-- RT[D] (R99, R260). -/
def Bay.rt (b : Bay) (d : Nat) : Nat := if d < 8 then bitsOf b.ramplo.toNat (4 * d + 3) (4 * d) else b.ramphi

/-- The bay positions from ROTOR on. -/
def rotorOrder (rotor : Nat) : List Nat := (List.range 8).map (fun i => (rotor + i) % 8)

/-- The duties of the next step (R225). -/
def dutyStep (b : Bay) (rotor cap : Nat) (dem : Nat → Bool) : List Nat :=
  let falls := (rotorOrder rotor).foldl (fun (a : List Nat × Nat) c =>
    let d := a.1.getD c 0
    if !dem c && decide (0 < d) then
      let f := min (min 2 d) (b.slewDown - a.2)
      (a.1.set c (d - f), a.2 + f)
    else a) (b.duties, 0)
  ((rotorOrder rotor).foldl (fun (a : List Nat × Nat) c =>
    let d := a.1.getD c 0
    if dem c then
      let i := min (min (b.rt d) (8 - d)) (min (cap - d) a.2)
      (a.1.set c (d + i), a.2 - i)
    else a) (falls.1, b.slewUp + falls.2)).1

/-- The controls written since the last step come into force (R100). -/
def Bay.latch (b : Bay) : Bay :=
  { b with slewUp := b.nextUp.getD b.slewUp, slewDown := b.nextDown.getD b.slewDown, ramplo := b.nextRamplo.getD b.ramplo,
           nextUp := none, nextDown := none, nextRamplo := none }

/-- The bays that hold state or a core with matrix work. -/
def busyBays (s : State) : List Nat :=
  (s.bays.map (·.1) ++ (s.cores.filter (fun c => c.2.matq != [] || c.2.reservedBy.isSome)).map (fun c => bkOfCk c.1)).eraseDups

/-- ROTOR of a bay: the steps since its wafer's reset, modulo 8 (R226). -/
def rotorOf (s : State) (bk : Nat) : Nat := (s.safelightSteps - (s.wafer (waferOf (bk / 8))).rotorBase) % 8

/-- The core key of a bay position. -/
def ckOfBay (bk c : Nat) : Nat := mkCk (bk / 8) (bk % 8 * 8 + c)

/-- A boundary between Safelight steps: the ending step's work is credited, operations complete, then each bay's duties for the
next step are set. -/
def safelightStep (s : State) : State :=
  let bks := busyBays s
  let s1 := bks.foldl (fun s bk => (List.range 8).foldl (fun s c => workCore s (ckOfBay bk c) ((s.bay bk).duties.getD c 0)) s) s
  let s2 := s1.cores.foldl (fun s c => finishWork s c.1) s1
  let s3 := bks.foldl (fun s bk =>
    let b := (s.bay bk).latch
    let cap := if (s.wafer (waferOf (bk / 8))).reduced then 4 else 8
    s.updBay bk (fun _ => { b with duties := dutyStep b (rotorOf s bk) cap (fun c => coreDemands s (ckOfBay bk c)) })) s2
  { s3 with safelightSteps := s.safelightSteps + 1 }

/-- Whether a step boundary has come: the grid of 4 cc from reset (R226). -/
def safelightDue (s : State) : Bool := decide (4 * (s.safelightSteps + 1) ≤ s.clock)

/-- MATRIX_OP_TURN (R412). -/
def execMatrixOpTurn (s : State) : Host.Outcome State Fault Refusal := event (fun a s => matTurn s a.k) s

end Sys2Proof.Machine
end

