-- ==== Sys2Proof/Machine/Launch.lean ====
section
/-!
DEFINITION. Launches at their root and dealing down the hierarchy (R194-R202, R204, R433): hints, acceptance or rejection, Pavilion,
Pergola, and the completion and fault records (R207, R209).
-/

namespace Sys2Proof.Machine

/-! ### Accesses of the dispatchers (R60, R194, R207) -/

/-- What a dispatcher's access meets: a wait, a fault that goes to the pager, or the end of the access. -/
inductive DAns where
  | wait
  | log (code : BitVec 8) (va : DWord)
  | lost (va : DWord)
  deriving DecidableEq, Repr

/-- A piece of a run in one 64 KiB page, placed for a dispatcher of wafer `w`: class 0 and the grid's world (R194, R207). The spec names
no outcome where the owner is 57 to 60, 62 or 63, where the address lies in an aperture, or where a byte read is poisoned: the access
ends without effect, as on a page of another class (log 72). -/
def dispPlace (s : State) (w : Nat) (world : Bool) (va : DWord) (n : Nat) (acc : Access) : Except DAns Nat × State :=
  let (dk, off) := translator w va
  if ownerBad va ∨ ownerOf va = 62 ∨ (apertureOff va).isSome then (.error (.lost va), s)
  else if heldAtOwner s dk off then (.error .wait, s)
  else match translate s w va acc true world with
    | (.error c, s1) => (.error (if c = codeNoPage ∨ c = codePerm then .log c va else .lost va), s1)
    | (.ok x, s1) =>
      if x.attr.cls ≠ 0 then (.error (.lost va), s1)
      else if x.host then (.ok x.addr, s1)
      else if frameSecure s1 x.addr ≠ world then (.error (.lost va), s1)
      else if lockHoldsRun s1 x.addr n acc.writes then (.error .wait, s1)
      else if acc = .read ∧ s1.poisoned x.addr n = true then (.error (.lost va), s1)
      else (.ok x.addr, s1)

/-- A run placed, page by page. -/
def dispPlaces (s : State) (w : Nat) (world : Bool) (va : DWord) (n : Nat) (acc : Access) :
    Except DAns (List (Nat × Nat × Nat)) × State :=
  (runPieces (n / 2 ^ 16 + 2) (vaddr va) 0 n).foldl (fun (a : Except DAns (List (Nat × Nat × Nat)) × State) p =>
    match a with
    | (.error e, s) => (.error e, s)
    | (.ok l, s) => match dispPlace s w world (va + BitVec.ofNat 64 p.1) p.2 acc with
      | (.ok x, s1) => (.ok (l ++ [(p.1, p.2, x)]), s1)
      | (.error e, s1) => (.error e, s1)) (.ok [], s)

/-- Bytes at a placed address. -/
def placeRead (s : State) (a n : Nat) : List Byte × State :=
  if 2 ^ 60 ≤ a then (memRead s.mem a n, s) else s.unitRead a n

/-- A run read by a dispatcher. -/
def dispRead (s : State) (w : Nat) (world : Bool) (va : DWord) (n : Nat) : Except DAns (List Byte) × State :=
  match dispPlaces s w world va n .read with
  | (.error e, s1) => (.error e, s1)
  | (.ok ps, s1) =>
    let r := ps.foldl (fun (a : List Byte × State) p => let (bs, s2) := placeRead a.2 p.2.2 p.2.1; (a.1 ++ bs, s2)) ([], s1)
    (.ok r.1, r.2)

/-- The fault-queue record of a dispatcher: KIND 0 for hint tables, 1 for completion and fault records (R60). -/
def dispRecord (dk gid : Nat) (world : Bool) (kind : Nat) (code : BitVec 8) (va : DWord) : FRec :=
  { addr := va, code := code, kind := kind, world := world, entry := 0xFF, source := sourceOf dk, slot := 0xFF, warp := 0xFF,
    grid := gid % 2 ^ 64, lanes := 0 }

/-- The domain at which a dispatcher stands: an Arbor's own, D27 for Pergola and Pavilion (R199). -/
def dispDk (lvl key : Nat) : Nat := if lvl = 0 then key else mkDk key 27
/-- The wafer of a dispatcher. -/
def dispWafer (lvl key : Nat) : Nat := if lvl = 0 then waferOf key else key

/-! ### Hints (R194, R197) -/

/-- A hint looked up: none, a domain of a wafer, or a read that waits. -/
inductive HAns where
  | none
  | hint (w d : Nat)
  | wait
  deriving DecidableEq, Repr

/-- Whether the FIRST fields ascend and the fields marked zero are zero. -/
def rangeTableOk : List Nat → Bool
  | [] => true
  | [e] => decide (e < 2 ^ 58)
  | e :: f :: t => decide (e < 2 ^ 58) && decide (e % 2 ^ 48 < f % 2 ^ 48) && rangeTableOk (f :: t)

/-- The entry of a range table that covers an index; of a malformed table, any one whose FIRST lies at or below it. -/
def rangeEntry (s : State) (es : List Nat) (i : Nat) : Option Nat × State :=
  let below := es.filter (fun e => decide (e % 2 ^ 48 ≤ i))
  if below = [] then (none, s)
  else if rangeTableOk es then (below.getLast?, s)
  else
    let (k, s1) := s.choose below.length
    (below[k]?, s1)

/-- The wafer and domain of a range entry. -/
def rangeHint (e : Nat) : Nat × Nat := (bitsOf e 57 54, bitsOf e 53 48)

/-- A hint as a scope uses it: of a domain that is up on a member wafer. -/
def usable (s : State) (g : Grid) (w : Nat) (h : Nat × Nat) : HAns :=
  let hw := if g.lrec.scope = 1 then w else h.1
  if h.2 < 56 ∧ (g.lrec.scope = 1 ∨ (s.wafer w).podmap.getLsbD hw = true) ∧ (s.domain (mkDk hw h.2)).up = true then .hint hw h.2
  else .none

/-- A read of a hint table: its bytes, or that it waits; a read that has ended gives nothing. -/
def hintRead (s : State) (w : Nat) (g : Grid) (va : DWord) (n : Nat) : Except HAns (List Byte) × State :=
  let lost := (runPieces (n / 2 ^ 16 + 2) (vaddr va) 0 n).any (fun p => g.hintLost.contains ((vaddr va + p.1) / 2 ^ 16))
  if g.hintToken.isSome then (.error .wait, s)
  else if lost then (.error .none, s)
  else match dispRead s w g.lrec.world va n with
    | (.ok bs, s1) => (.ok bs, s1)
    | (.error .wait, s1) => (.error .wait, s1)
    | (.error (.lost v), s1) => (.error .none, s1.updGrid g.gid (fun g => { g with hintLost := g.hintLost ++ [vaddr v / 2 ^ 16] }))
    | (.error (.log c v), s1) =>
      let (t, s2) := sendRecord s1 (faultDk w v) (dispRecord (mkDk w 27) g.gid g.lrec.world 0 c v) (.hint g.gid)
      (.error .wait, s2.updGrid g.gid (fun g => { g with hintToken := some (t, vaddr v / 2 ^ 16) }))

/-- The hint of unit `i`, looked up at a dispatcher of wafer `w`. -/
def hintOf (s : State) (w : Nat) (g : Grid) (i : Nat) : HAns × State :=
  let r := g.lrec
  let range (s : State) (es : List Nat) : HAns × State :=
    match rangeEntry s es i with
    | (some e, s1) => (usable s1 g w (rangeHint e), s1)
    | (none, s1) => (.none, s1)
  match r.hintMode with
  | 1 => range s ((r.hints.take r.hintCount).map BitVec.toNat)
  | 2 => match hintRead s w g r.hintTab (8 * r.hintCount) with
    | (.ok bs, s1) => range s1 ((List.range r.hintCount).map (fun j => fld bs (8 * j) 8))
    | (.error h, s1) => (h, s1)
  | 3 => match hintRead s w g (r.hintTab + BitVec.ofNat 64 (2 * i)) 2 with
    | (.ok bs, s1) =>
      let e := fld bs 0 2
      (if e.testBit 15 then .none else usable s1 g w (bitsOf e 9 6, e % 64), s1)
    | (.error h, s1) => (h, s1)
  | _ => (.none, s)

/-! ### Proportional dealing and distance (R18, R201, R251) -/

/-- The party whose range holds position `p` of `b`, given the parties' weights so far. -/
def partyOf (b c p : Nat) : List (Nat × Nat) → Nat → Option Nat
  | [], _ => none
  | (x, wt) :: t, acc => if p < b * (acc + wt) / c then some x else partyOf b c p t (acc + wt)

/-- The range of a party: its first position and the first beyond it. -/
def partyRange (b c x : Nat) : List (Nat × Nat) → Nat → Nat × Nat
  | [], _ => (b, b)
  | (y, wt) :: t, acc => if x = y then (b * acc / c, b * (acc + wt) / c) else partyRange b c x t (acc + wt)

/-- The sum of the parties' weights. -/
def weightSum (ps : List (Nat × Nat)) : Nat := ps.foldl (fun n p => n + p.2) 0

/-- The member wafers of a pod with their enabled cores, as Pavilion of wafer `w` deals to them. -/
def podParties (s : State) (w : Nat) : List (Nat × Nat) :=
  ((List.range Config.wafers).filter (fun x => (s.wafer w).podmap.getLsbD x)).map (fun x => (x, waferCores s x))
/-- The domains of a wafer that are up, with their enabled cores. -/
def upParties (s : State) (w : Nat) : List (Nat × Nat) :=
  ((List.range Config.domains).filter (fun d => (s.domain (mkDk w d)).up)).map (fun d => (d, coreCount s (mkDk w d)))

/-- The hop distance of two domains (R1, R18). -/
def hops (a b : Nat) : Nat := (a / 8 - b / 8) + (b / 8 - a / 8) + ((a % 8 - b % 8) + (b % 8 - a % 8))
/-- Dist(a, b): the topology table's byte where it is not zero (R251). -/
def distance (s : State) (w a b : Nat) : Nat :=
  if a = b then 0 else match Tab.get 0 (s.wafer w).dist (56 * a + b) with | 0 => hops a b | n => n

/-! ### A launch at its root (R195, R196, R199, R433) -/

/-- The target wafer and domain of a launch. -/
def targetOf (l : Launch) (r : LaunchRec) : Nat × Nat :=
  if r.target.testBit 15 then (bitsOf r.target 9 6, r.target % 64) else (waferOf l.dk, domOf l.dk)
/-- The level and unit of the root (R199); a wafer that is no member leaves the launch at the launcher's. -/
def rootOf (s : State) (l : Launch) (r : LaunchRec) : Nat × Nat :=
  let t := targetOf l r
  let w := if (s.wafer (waferOf l.dk)).podmap.getLsbD t.1 ∨ t.1 = waferOf l.dk then t.1 else waferOf l.dk
  match r.scope with
  | 0 => (0, mkDk w (if t.2 < 56 then t.2 else domOf l.dk))
  | 1 => (1, w)
  | _ => (2, w)

/-- The domains of a grid's scope that are up. -/
def scopeDomains (s : State) (l : Launch) (r : LaunchRec) : List Nat :=
  let t := targetOf l r
  let ups (w : Nat) : List Nat := (domainsOf w).filter (fun dk => (s.domain dk).up)
  match r.scope with
  | 0 => [mkDk t.1 t.2]
  | 1 => ups t.1
  | _ => (podParties s t.1).flatMap (fun p => ups p.1)

/-- The checks of R195, with R24, R26, R30 and R433. -/
def launchAccepted (s : State) (l : Launch) (r : LaunchRec) : Bool :=
  let t := targetOf l r
  !l.reject && launchOk l.bytes r && (!r.pair || decide (r.gang ≤ 4)) && (!r.privileged || l.priv) && (!r.world || l.secure) &&
  (decide (r.prio < 56) || r.world) && (match l.scope with | some x => x == r.scope | none => true) &&
  (!r.target.testBit 15 || (s.wafer (waferOf l.dk)).podmap.getLsbD t.1) &&
  (r.scope != 0 || (decide (t.2 < 56) && (s.domain (mkDk t.1 t.2)).up)) &&
  decide (r.warps * r.regs ≤ 4096) && (scopeDomains s l r).any (fun dk => bayFits s dk r)

/-- The dealing list of a dispatcher. -/
def dealsOf (s : State) (lvl key : Nat) : List Dealing :=
  match lvl with
  | 0 => (s.domain key).deal
  | 1 => (s.wafer key).pergDeal
  | _ => (s.wafer key).pavDeal
def updDeals (s : State) (lvl key : Nat) (f : List Dealing → List Dealing) : State :=
  match lvl with
  | 0 => s.updDomain key (fun d => { d with deal := f d.deal })
  | 1 => s.updWafer key (fun w => { w with pergDeal := f w.pergDeal })
  | _ => s.updWafer key (fun w => { w with pavDeal := f w.pavDeal })

/-- A grid as its acceptance leaves it. -/
def newGrid (gid : Nat) (l : Launch) (r : LaunchRec) (root : Nat × Nat) (seq : Nat) : Grid :=
  { gid := gid, lrec := r, launchAddr := l.addr, launchDk := l.dk, rootLvl := root.1, rootKey := root.2, cancelled := false,
    queue := l.queue, arbors := [], pergolas := [], pavilion := .zero, compToken := none, compPart := 0, hintToken := none,
    hintLost := [], seq := seq }

/-- The verdict returns to the launcher: by message to a `glaunch`, to the Lodge at once, which holds the entry (R240). -/
def sendVerdict (s : State) (l : Launch) (gid : Nat) : State :=
  match l.queue with
  | some q =>
    let s1 : State := { s with launches := s.launches.filter (fun x => x.tok != l.tok) }
    s1.updDomain l.dk (fun d =>
      match d.queues.get? q with
      | some x =>
        let y : HostQ := { x with launchTok := none, entryDone := true, grids := if gid = 0 then x.grids else x.grids ++ [gid] }
        { d with queues := d.queues.set q y }
      | none => d)
  | none => s.send (.reply l.tok gid)

/-! ### Completion (R206-R209) -/

/-- A sum over the Arbors of a grid, with the wafers they are on. -/
def arborSum (g : Grid) (p : Nat → Bool) (f : GridCnt → Nat) : Nat :=
  (g.arbors.filter (fun e => p e.1)).foldl (fun n e => n + f e.2) 0
/-- Blocks that Pergolas and Pavilion discarded undealt. -/
def undealtSum (g : Grid) : Nat := g.pergolas.foldl (fun n e => n + e.2.discarded) g.pavilion.discarded

/-- The count of a fault code over a grid, saturating. -/
def faultSum (g : Grid) (c : Nat) : Nat := min (2 ^ 32 - 1) (g.arbors.foldl (fun n e => n + Tab.get 0 e.2.faults c) 0)
def faultTotal (g : Grid) : Nat := min (2 ^ 32 - 1) (((List.range 22).map (fun i => faultSum g (i + 1))).foldl (· + ·) 0)

/-- The first fault that the root keeps. -/
def rootFirst (g : Grid) : Option FirstFault :=
  match g.rootLvl with
  | 0 => (g.arbors.get .zero g.rootKey).first
  | 1 => (g.pergolas.get .zero g.rootKey).first
  | _ => g.pavilion.first

/-- The fault record (R209). -/
def faultBytes (g : Grid) : List Byte :=
  let head := bytesOfNat 4 (faultTotal g) ++ (match rootFirst g with
    | some f => bytesOfNat 1 f.code.toNat ++ bytesOfNat 1 f.kind ++ bytesOfNat 2 f.source ++ bytesOfNat 1 f.slot ++
        bytesOfNat 1 f.warp ++ bytesOfNat 1 f.member ++ bytesOfNat 1 0 ++ bytesOfNat 4 f.lanes.toNat ++ bytesOfNat 8 f.pc.toNat ++
        bytesOfNat 8 f.addr.toNat ++ bytesOfNat 8 f.index.toNat
    | none => List.replicate 36 0)
  head ++ (List.range 22).flatMap (fun i => bytesOfNat 4 (faultSum g (i + 1)))

/-- The largest identifier; grids that were rejected are held above it until their record is written. -/
def gidTop : Nat := 2 ^ 64
def Grid.rejected (g : Grid) : Bool := decide (gidTop ≤ g.gid)

/-- STATUS (R207). -/
def Grid.status (g : Grid) : Nat :=
  if g.rejected then 9 else 1 + (if 0 < faultTotal g then 2 else 0) + (if g.cancelled then 4 else 0)

/-- Bytes 0x08 to 0x1F of the completion record. -/
def countBytes (g : Grid) : List Byte :=
  let all : Nat → Bool := fun _ => true
  bytesOfNat 8 (arborSum g all (·.started)) ++ bytesOfNat 8 (arborSum g all (·.retired)) ++
  bytesOfNat 8 (arborSum g all (·.discarded) + undealtSum g)

/-- One write of a dispatcher: done, ended, or waiting. The GRID field of the record of a rejected launch's write is 0, for that grid
has no identifier (log 73). -/
def dispWrite (s : State) (g : Grid) (va : DWord) (bs : List Byte) : Option Bool × State :=
  let w := dispWafer g.rootLvl g.rootKey
  match dispPlaces s w g.lrec.world va bs.length .write with
  | (.ok ps, s1) => (some true, ps.foldl (fun s p => unitPut s p.2.2 ((bs.drop p.1).take p.2.1)) s1)
  | (.error (.lost _), s1) => (some false, s1)
  | (.error .wait, s1) => (none, s1)
  | (.error (.log c v), s1) =>
    let (t, s2) := sendRecord s1 (faultDk w v) (dispRecord (dispDk g.rootLvl g.rootKey) (if g.rejected then 0 else g.gid) g.lrec.world 1 c v) (.comp g.gid)
    (none, s2.updGrid g.gid (fun g => { g with compToken := some t }))

/-- The root's writes, in order: the fault record, the counts, DONE as a release (R207). A write that ends leaves its record
unwritten, and the grid retires all the same. -/
def completeFrom : Nat → State → Nat → State
  | 0, s, _ => s
  | fuel + 1, s, gid =>
    match s.grid? gid with
    | none => s
    | some g =>
      let go (s : State) (part : Nat) : State := completeFrom fuel (s.updGrid gid (fun g => { g with compPart := part })) gid
      let drop (s : State) : State := { s with grids := s.grids.filter (fun g => g.gid != gid) }
      if g.compToken.isSome then s
      else match g.compPart with
        | 1 =>
          if g.lrec.faultRec = 0 ∨ g.rejected = true then go s 2
          else match dispWrite s g g.lrec.faultRec (faultBytes g) with
            | (none, s1) => s1
            | (some _, s1) => go s1 2
        | 2 => match dispWrite s g (g.lrec.compAddr + 8) (if g.rejected then List.replicate 24 0 else countBytes g) with
            | (none, s1) => s1
            | (some true, s1) => go s1 3
            | (some false, s1) => drop s1
        | 3 => match dispWrite s g g.lrec.compAddr (bytesOfNat 7 g.lrec.compVal.toNat ++ bytesOfNat 1 g.status) with
            | (none, s1) => s1
            | (some _, s1) => drop s1
        | _ => s

/-- The writes begin, or go on after a reply. -/
def complete (s : State) (gid : Nat) : State :=
  completeFrom 4 (s.updGrid gid (fun g => { g with compPart := max g.compPart 1 })) gid

/-! ### LAUNCH_AT_ROOT -/

/-- A launch is rejected: the record, when COMPADDR is nonzero and aligned, gets REJECTED with zero counts (R195). -/
def rejectLaunch (s : State) (l : Launch) (r : LaunchRec) (root : Nat × Nat) : State :=
  let s1 := sendVerdict s l 0
  if r.compAddr ≠ 0 ∧ r.compAddr.toNat % 32 = 0 then
    let gid := gidTop + s1.nextId
    let g := newGrid gid l { r with world := r.world && l.secure } root s1.nextId
    complete { s1 with nextId := s1.nextId + 1, grids := s1.grids ++ [g] } gid
  else s1

/-- A launch is accepted: its identifier, and its units to be dealt (R196). -/
def acceptLaunch (s : State) (l : Launch) (r : LaunchRec) (root : Nat × Nat) : State :=
  let d := s.domain l.dk
  let gid := domOf l.dk + 64 * waferOf l.dk + 1024 * (d.gridCount % 2 ^ 54)
  let s1 := s.updDomain l.dk (fun d => { d with gridCount := d.gridCount + 1 })
  let n := s1.nextId
  let s2 : State := { s1 with nextId := n + 1, grids := s1.grids ++ [newGrid gid l r root n] }
  let s3 := updDeals s2 root.1 root.2 (fun ds => ds ++
    [{ gid := gid, next := 0, lo := 0, hi := r.units, extra := [], closed := true, seq := n }])
  sendVerdict s3 l gid

/-- A launch leaves its core as a release: its warp's earlier accesses, and those its block's barriers order before them, are done
with (R29, R433). -/
def launchLeft (s : State) (l : Launch) : Bool :=
  match l.tag with
  | none => true
  | some t => match s.pend? t with | some p => settledBefore s p.bid t | none => true

/-- Whether two launches come from one thread, or from one host queue (R205). -/
def Launch.sameBy (a b : Launch) : Bool :=
  match a.path, b.path with
  | some x, some y => x.1 == y.1 && x.2.1 == y.2.1 && x.2.2 &&& y.2.2 != 0
  | none, none => a.dk == b.dk && a.queue == b.queue
  | _, _ => false

/-- Whether a launch must reach its root before another, if it was sent first: one launcher, priority and root (R205). -/
def launchOrdered (s : State) (a b : Launch) : Bool :=
  let ra := parseLaunch a.bytes
  let rb := parseLaunch b.bytes
  a.sameBy b && ra.prio == rb.prio && ra.scope == rb.scope && rootOf s a ra == rootOf s b rb

/-- Whether a launch may be judged: it has left its core, no earlier one that R205 puts before it is still on the way, and the root has
room (R199). -/
def launchDue (s : State) (m : Msg) (l : Launch) : Bool :=
  let root := rootOf s l (parseLaunch l.bytes)
  launchLeft s l &&
  !(s.msgs.any (fun x => decide (x.id < m.id) && (match x.body with
    | .launch t => s.launches.any (fun y => y.tok == t && launchOrdered s y l) | _ => false))) &&
  decide ((dealsOf s root.1 root.2).length < 1024)

/-- LAUNCH_AT_ROOT: acceptance or rejection. -/
def launchAtRoot (s : State) (id : Nat) : State :=
  match s.msg? id with
  | none => s
  | some m =>
    match m.body with
    | .launch t =>
      (match s.launches.find? (fun l => l.tok == t) with
        | none => s.dropMsg id
        | some l =>
          if launchDue s m l then
            let r := parseLaunch l.bytes
            let root := rootOf s l r
            let s1 := s.dropMsg id
            if launchAccepted s1 l r then acceptLaunch s1 l r root else rejectLaunch s1 l r root
          else s)
    | _ => s

/-- GLAUNCH_REPLY: the destination of `glaunch` takes the identifier, or 0. -/
def launchReply (s : State) (id : Nat) : State :=
  match s.msg? id with
  | none => s
  | some m =>
    match m.body with
    | .reply t gid =>
      (match s.launches.find? (fun l => l.tok == t) with
        | none => s.dropMsg id
        | some l =>
          let s1 := { s.dropMsg id with launches := s.launches.filter (fun x => x.tok != t) }
          match l.tag with
          | some tag => (match s1.pend? tag with
              | some p => deliver s1 tag p.need (fun _ => BitVec.ofNat 128 gid)
              | none => s1)
          | none => s1)
    | _ => s

/-! ### Dealing (R200-R202) -/

/-- Priority of a grid. -/
def prioOf (s : State) (gid : Nat) : Nat := match s.grid? gid with | some g => g.lrec.prio | none => 0

/-- The grid a dispatcher deals: highest priority, then the order of arrival. -/
def dealHead (s : State) : List Dealing → Option Dealing
  | [] => none
  | d :: t => some (t.foldl (fun a b =>
      if prioOf s a.gid < prioOf s b.gid ∨ (prioOf s a.gid = prioOf s b.gid ∧ b.seq < a.seq) then b else a) d)

/-- A change of one dealing. -/
def setDeal (s : State) (lvl key : Nat) (d : Dealing) : State :=
  updDeals s lvl key (fun ds => ds.map (fun x => if x.gid = d.gid then d else x))
def endDeal (s : State) (lvl key gid : Nat) : State :=
  updDeals s lvl key (fun ds => ds.filter (fun x => x.gid != gid))

/-- A Pergola's counts of a grid changed. -/
def State.updPergola (s : State) (gid w : Nat) (f : GridCnt → GridCnt) : State :=
  s.updGrid gid (fun g => { g with pergolas := g.pergolas.set w (f (g.pergolas.get .zero w)) })

/-- A unit reaches the Pergola of wafer `w` (R200, R201). -/
def toPergola (s : State) (g : Grid) (w i : Nat) (lo hi : Nat) (dom : Option Nat) : State :=
  let s1 := s.updPergola g.gid w (fun c => { c with dealt := c.dealt + g.lrec.gang })
  if ((s1.wafer w).pergDeal).any (fun d => d.gid == g.gid) then
    s1.updWafer w (fun x => { x with pergDeal := x.pergDeal.map (fun d =>
      if d.gid = g.gid then { d with extra := d.extra ++ [(i, dom)] } else d) })
  else
    let s2 : State := { s1 with nextId := s1.nextId + 1 }
    s2.updWafer w (fun x => { x with pergDeal := x.pergDeal ++
      [{ gid := g.gid, next := 0, lo := lo, hi := hi, extra := [(i, dom)], closed := false, seq := s1.nextId }] })

/-- Whether a unit that Pavilion deals may set out for a wafer's Pergola: no CANCEL sent there before it is still on its way (R200), and
the Pergola has room for its grid (R199). -/
def pergolaTakes (s : State) (g : Grid) (w : Nat) : Bool :=
  let ds := (s.wafer w).pergDeal
  !s.msgs.any (fun m => match m.body with
    | .cancel gid 1 k => k == w && (match s.grid? gid with | some h => h.rootLvl == 2 | none => false) | _ => false) &&
  (ds.any (fun d => d.gid == g.gid) || decide (ds.length < 1024))

/-- Dealing of a pod grid is finished: no Pergola gets more of it. -/
def closePergolas (s : State) (gid : Nat) : State :=
  { s with wafers := s.wafers.map (fun e => (e.1, { e.2 with pergDeal := (e.2.pergDeal.map (fun d =>
      if d.gid = gid then { d with closed := true } else d)).filter (fun d => d.gid != gid || d.extra != []) })) }

/-- PAVILION_DEAL: the next unit of a pod grid goes to a wafer, by hint or in proportion. -/
def pavilionDeal (s : State) (w : Nat) : State :=
  if (s.wafer w).pavHold then s
  else match dealHead s (s.wafer w).pavDeal with
    | none => s
    | some d => match s.grid? d.gid with
      | none => endDeal s 2 w d.gid
      | some g => match hintOf s w g d.next with
        | (.wait, s1) => s1
        | (h, s1) =>
          let ps := podParties s1 w
          let c := weightSum ps
          let (x, dom) : Nat × Option Nat := match h with
            | .hint hw hd => (hw, some hd)
            | _ => ((partyOf d.hi c d.next ps 0).getD w, none)
          let rg := partyRange d.hi c x ps 0
          if pergolaTakes s1 g x = false then s1 else
          let s2 := toPergola s1 g x d.next rg.1 rg.2 dom
          if d.hi ≤ d.next + 1 then closePergolas (endDeal s2 2 w d.gid) d.gid
          else setDeal s2 2 w { d with next := d.next + 1 }

/-- Pergola's view of a domain's free-core count. -/
def viewOf (s : State) (w d : Nat) : Nat := Tab.get 0 (s.wafer w).views d

/-- The destination of R202; `out` is a domain left out of every test (R203). -/
def destOf (s : State) (w target q : Nat) (out : Option Nat) : Option Nat :=
  if viewOf s w target ≥ q ∧ out ≠ some target ∧ (s.domain (mkDk w target)).up = true then some target
  else
    let cs := (List.range Config.domains).filter (fun d =>
      (s.domain (mkDk w d)).up && decide (q ≤ viewOf s w d) && out != some d)
    match cs with
    | [] => none
    | c :: t => some (t.foldl (fun a b =>
        let da := distance s w target a
        let db := distance s w target b
        if db < da ∨ (db = da ∧ viewOf s w a < viewOf s w b) then b else a) c)

/-- A unit sent to an Arbor, its cores taken from the view. -/
def sendUnit (s : State) (w gid i target d q : Nat) (save : Option Nat) : State :=
  (s.updWafer w (fun x => { x with views := x.views.set d (viewOf s w d - q), unacked := x.unacked.set d (Tab.get 0 x.unacked d + q) })).send
    (.unit gid i target (mkDk w d) save)

/-- The nominal domain of a position (R201). -/
def nominal (s : State) (w b p : Nat) : Nat :=
  let ps := upParties s w
  (partyOf b (weightSum ps) p ps 0).getD ((ps.head?.map (·.1)).getD 0)

/-- PERGOLA_PLACE: the next unit of a grid goes to an Arbor. -/
def pergolaPlace (s : State) (w : Nat) : State :=
  if (s.wafer w).pergHold then s
  else match dealHead s (s.wafer w).pergDeal with
    | none => s
    | some d => match s.grid? d.gid with
      | none => endDeal s 1 w d.gid
      | some g =>
        let q := g.lrec.cores
        let place (s : State) (i target : Nat) : State := sendUnit s w g.gid i target ((destOf s w target q none).getD target) q none
        if g.lrec.scope = 2 then
          match d.extra with
          | [] => s
          | (i, dom) :: t =>
            let s1 := place s i (dom.getD (nominal s w (d.hi - d.lo) (i - d.lo)))
            if t = [] ∧ d.closed = true then endDeal s1 1 w d.gid else setDeal s1 1 w { d with extra := t }
        else match hintOf s w g d.next with
          | (.wait, s1) => s1
          | (h, s1) =>
            let target := match h with | .hint _ hd => hd | _ => nominal s1 w (d.hi - d.lo) (d.next - d.lo)
            let s2 := place s1 d.next target
            if d.hi ≤ d.next + 1 then endDeal s2 1 w d.gid else setDeal s2 1 w { d with next := d.next + 1 }

/-- FREE_COUNT_PUBLISH: the oldest publication on its way to a Pergola arrives, behind the acknowledgements sent before it. -/
def publishArrive (s : State) (w : Nat) : State :=
  match s.msgs.find? (fun m => match m.body with | .publish dk _ => waferOf dk == w | _ => false) with
  | none => s
  | some m =>
    match m.body with
    | .publish dk free =>
      let acks := s.msgs.filter (fun x => decide (x.id < m.id) && (match x.body with | .ack k _ => k == dk | _ => false))
      let n := acks.foldl (fun n x => n + (match x.body with | .ack _ q => q | _ => 0)) 0
      let s1 : State := { s with msgs := s.msgs.filter (fun x => x.id != m.id && !acks.any (fun y => y.id == x.id)) }
      s1.updWafer w (fun x =>
        let u := Tab.get 0 x.unacked (domOf dk) - n
        { x with unacked := x.unacked.set (domOf dk) u, views := x.views.set (domOf dk) (free - u) })
    | _ => s

/-- A domain publishes its free-core count when it has changed (R31, R202). -/
def publish (s0 : State) (dk : Nat) (s1 : State) : State :=
  if freeCount s0 dk = freeCount s1 dk then s1 else s1.send (.publish dk (freeCount s1 dk))

/-! ### The meanings -/

/-- LAUNCH_AT_ROOT (R195, R196). -/
def execLaunchAtRoot (s : State) : Host.Outcome State Fault Refusal := event (fun a s => launchAtRoot s a.k) s
/-- GLAUNCH_REPLY (R433). -/
def execGlaunchReply (s : State) : Host.Outcome State Fault Refusal := event (fun a s => launchReply s a.k) s
/-- PAVILION_DEAL (R201). -/
def execPavilionDeal (s : State) : Host.Outcome State Fault Refusal := event (fun a s => pavilionDeal s a.k) s
/-- PERGOLA_PLACE (R202). -/
def execPergolaPlace (s : State) : Host.Outcome State Fault Refusal := event (fun a s => pergolaPlace s a.k) s
/-- FREE_COUNT_PUBLISH (R202). -/
def execFreeCountPublish (s : State) : Host.Outcome State Fault Refusal := event (fun a s => publishArrive s a.k) s

end Sys2Proof.Machine
end

