-- ==== Sys2Proof/Machine/MemEvents.lean ====
section
/-!
DEFINITION. The events of the memory system: translation, home slices, the coherence protocol, the host-coherent window
(R155-R157), soft errors (R70), directory read-out (R257), the L2 split (R105), counters (R265).
-/

namespace Sys2Proof.Machine

/-- A request's turn, when the state names the request and it can be taken. -/
def reqTurn (f : State → Req → Option State) (s : State) (id : Nat) : State :=
  match s.req? id with
  | some r => (f s r).getD s
  | none => s

/-- A message's arrival, when it is due. -/
def msgTurn (due : State → Msg → Bool) (f : State → Msg → State) (s : State) (id : Nat) : State :=
  match s.msg? id with
  | some m => if due s m then f s m else s
  | none => s

/-- The translation of a request that is due. -/
def translateTurn (s : State) (r : Req) : Option State :=
  if translateDue s r then some (perfAdd (translateReq s r) r.core 6 1 r.priv r.secure) else none

/-! ### The host-coherent window (R155-R157) -/

/-- The address of a half, when it lies in the enabled window. -/
def halfAddr (s : State) (w half : Nat) : Option Nat :=
  let x := s.wafer w
  let base := x.hostwin.toNat / 2 ^ 28 * 2 ^ 28
  if x.hostwinEn ∧ base ≤ 64 * half ∧ 64 * half < base + 2 ^ 28 then some (devAddr w (64 * half)) else none

/-- The host's state of a half: 0 I, 1 S, 2 A. -/
def setHalf (s : State) (w half st : Nat) : State :=
  s.updWafer w (fun x => { x with halves := if st = 0 then Tab.erase half x.halves else x.halves.set half st })

/-- A snoop of the half on its way meets a host request: it will be reissued or dropped (R157). -/
def snoopMet (s : State) (w half : Nat) : State :=
  s.updWafer w (fun x => { x with snoops := x.snoops.map (fun e => if e.1 = half then (e.1, e.2.1, 1) else e) })

/-- Whether a host read stands behind its line's open transaction, or behind a request of the line that came before it (R148). One
that meets a snoop of its half goes first (R157). -/
def hostBehind (s : State) (w half pl n : Nat) : Bool :=
  !(s.wafer w).snoops.any (fun e => e.1 == half) &&
  ((s.domain (homeOfLine pl)).trans.any (fun t => t.pline == pl && t.waitFor != []) ||
   s.reqs.any (fun q => q.stage.atHome && (match q.arrived with | some a => decide (a < n) | none => false) && q.lines.contains pl) ||
   (hostWaits s pl).any (fun a => decide (a < n)))

/-- A host read of a half, shared or for ownership (R156); it waits in the arrival order of its line (R148). -/
def hostRead (s : State) (w half : Nat) (own : Bool) : State :=
  match halfAddr s w half with
  | none => s
  | some a =>
    let mine := (s.wafer w).hostReads.find? (fun h => h.1 == half && h.2.1 == own)
    let n := match mine with | some h => h.2.2 | none => s.nextId
    if hostBehind s w half (a / 128) n then
      (if mine.isSome then s
       else { s with nextId := s.nextId + 1 }.updWafer w (fun x => { x with hostReads := x.hostReads ++ [(half, own, n)] }))
    else
      let s1 := match mine with | some h => s.updWafer w (fun x => { x with hostReads := x.hostReads.filter (· != h) }) | none => s
      setHalf (snoopMet (recallLine s1 (a / 128) own) w half) w half (if own then 2 else 1)

/-- A host write-back of a half it holds with ownership (R156). -/
def hostBack (s : State) (w half : Nat) (bs : List Byte) (keep : Bool) : State :=
  match halfAddr s w half with
  | none => s
  | some a =>
    if Tab.get 0 (s.wafer w).halves half = 2 ∧ bs.length = 64 then
      setHalf (snoopMet (s.storeBytes a bs) w half) w half (if keep then 1 else 0)
    else s

/-- The answer to a snoop: modified data is merged and the half goes to I or S; one that met a host request is reissued
against the new state or dropped (R157). -/
def snoopAnswer (s : State) (w half : Nat) (bs : List Byte) : State :=
  match (s.wafer w).snoops.find? (fun e => e.1 == half) with
  | none => s
  | some e =>
    let st := Tab.get 0 (s.wafer w).halves half
    let drop (s : State) : State := s.updWafer w (fun x => { x with snoops := x.snoops.filter (· != e) })
    if e.2.2 = 1 then
      (if (if e.2.1 then decide (st ≠ 0) else decide (st = 2)) then
        s.updWafer w (fun x => { x with snoops := x.snoops.map (fun y => if y = e then (e.1, e.2.1, 0) else y) })
       else drop s)
    else
      let s1 := match halfAddr s w half with
        | some a => if st = 2 ∧ bs.length = 64 then s.storeBytes a bs else s
        | none => s
      drop (setHalf s1 w half (if e.2.1 then 0 else if st = 0 then 0 else 1))

/-! ### Soft errors (R70) -/

/-- Lines of a core's caches that hold a physical line are invalidated and refetched; a locked line keeps its locks (R70,
R153). -/
def parityDrop (s : State) (dk pl : Nat) : State :=
  { s with cores := s.cores.map (fun c => if dkOfCk c.1 = dk then
      (c.1, { c.2 with l1 := c.2.l1.filter (fun l => l.attr.pline != pl),
                       icache := (c.2.icache.filter (fun l => l.attr.pline != pl || l.locks != [])).map (fun l =>
                         if l.attr.pline = pl then { l with bytes := s.lineBytes pl } else l) }) else c) }

/-- A visitor copy whose data is lost: its clean sectors are those of the home, and the dirty ones are written back for the poison
to stand in their place (R70). -/
def dropCopy (s : State) (dk pl : Nat) : State :=
  match s.vis? dk pl with
  | some v => let s1 := if v.state = .m then mergeSectors s pl v.dirty v.bytes else s
    let s2 := s1.dropVis dk pl
    if v.tracked then dirLeave s2 pl dk true else s2
  | none => s

/-- A soft error found at a domain, counted (R265). The kinds: 1 and 2 a DRAM sector corrected or poisoned; 3 and 4 the same in L2
data; 5 and 6 a directory entry corrected, or recalled with its line poisoned; 7 parity in an L1 or instruction cache; 8 and 9
core storage corrected, or an error delivered to the fault record of the block named in the sector's place. A cache may hold a line
of any home: kinds 3, 4 and 7 take the sector by its model address (log 68). -/
def softError (s : State) (dk sector kind : Nat) : State :=
  let a := devAddr (waferOf dk) (domOf dk * 2 ^ 35 + 32 * (sector % 2 ^ 30))
  let x := 32 * sector
  let poison (s : State) (p : Nat) : State := if s.poison.contains p then s else { s with poison := s.poison ++ [p] }
  match kind with
  | 1 => countErr s dk 0
  | 2 => poison (countErr s dk 1) (a / 32)
  | 3 => countErr s dk 2
  | 4 => poison (countErr (dropCopy s dk (x / 128)) dk 3) (x / 32)
  | 5 => countErr s dk 4
  | 6 => (List.range 4).foldl (fun s i => poison s (a / 128 * 4 + i)) (recallLine (countErr s dk 5) (a / 128) true)
  | 7 => countErr (parityDrop s dk (x / 128)) dk 6
  | 8 => countErr s dk 7
  | 9 => match s.block? sector with
    | some b => if dkOfCk b.core = dk then
        recordFault (countErr s dk 8) sector 0 { code := codeEcc, kind := 1, lanes := 0, addr := 0, pc := 0 } else s
    | none => s
  | _ => s

/-! ### Directory read-out (R256, R257) -/

/-- The 128 bits of a directory entry; OWNER is zero unless the line is owned. -/
def DirEnt.word (e : DirEnt) : BitVec 128 :=
  BitVec.ofNat 128 (e.sharers.toNat + (if e.owned then e.owner * 2 ^ 56 else 0) + (if e.owned then 2 else 1) * 2 ^ 62 + e.seq.toNat * 2 ^ 64 +
    (e.pline % 2 ^ 34) * 2 ^ 72)

/-- DIRRD starts a lookup of a line of the domain. -/
def dirLookup (s : State) (dk : Nat) (v : Word) : State :=
  if (s.domain dk).dirrd.isSome then s
  else
    let pl := devAddr (waferOf dk) (domOf dk * 2 ^ 35) / 128 + v.toNat % 2 ^ 28
    s.updDomain dk (fun d => { d with dirrd := some pl })
/-- The lookup completes. -/
def dirLookupDone (s : State) (dk : Nat) : State :=
  match (s.domain dk).dirrd with
  | none => s
  | some pl =>
    let e := s.dir? pl
    s.updDomain dk (fun d => { d with dirrd := none, dirHit := e.isSome, dirent := match e with | some e => e.word | none => 0 })

/-! ### The L2 split (R105) -/

/-- A write of L2SPLIT begins a change. -/
def splitStart (s : State) (dk : Nat) (v : Word) : State :=
  let n := v.toNat % 16
  if (s.domain dk).splitBusy.isSome ∨ 12 < n then s else s.updDomain dk (fun d => { d with splitBusy := some n })

/-- Whether the change can end: no grant is on its way to the domain. -/
def splitDue (s : State) (dk : Nat) : Bool :=
  (s.domain dk).splitBusy.isSome && !s.msgs.any (fun m => match m.body with | .grant _ d _ _ _ _ _ => d == dk | _ => false)

/-- The change ends: the copies in the ways that leave the visitor partition are given up. -/
def splitEnd (s : State) (dk : Nat) : State :=
  match (s.domain dk).splitBusy with
  | none => s
  | some n =>
    if splitDue s dk = false then s
    else
      let s1 := ((s.domain dk).visit.filter (fun v => decide (n ≤ v.way))).foldl (fun s v => dropCopy s dk v.pline) s
      s1.updDomain dk (fun d => { d with visitor := n, splitBusy := none })

/-- CNTCLR: the counters named are cleared; bit 11 is ignored (R265). -/
def clearCounters (s : State) (dk : Nat) (v : Word) : State :=
  s.updDomain dk (fun d => { d with counters := d.counters.filter (fun e => !(v.getLsbD e.1 && decide (e.1 < 16) && e.1 != 11)) })

/-! ### The meanings -/

/-- REQUEST_TRANSLATE (R115, R116, R118, R119). -/
def execRequestTranslate (s : State) : Host.Outcome State Fault Refusal := event (fun a s => reqTurn translateTurn s a.k) s
/-- TLB_WALK_DONE (R117, R118). -/
def execTlbWalkDone (s : State) : Host.Outcome State Fault Refusal := event (fun a s => walkDone s a.k a.i) s
/-- HOME_SLICE_REQUEST (R115, R129, R142, R144). -/
def execHomeSliceRequest (s : State) : Host.Outcome State Fault Refusal := event (fun a s => reqTurn (slotTurn .slice) s a.k) s
/-- HOME_RMW (R51, R391). -/
def execHomeRmw (s : State) : Host.Outcome State Fault Refusal := event (fun a s => reqTurn (slotTurn .rmw) s a.k) s
/-- RESOLVE_REQUEST (R188). -/
def execResolveRequest (s : State) : Host.Outcome State Fault Refusal := event (fun a s => reqTurn (slotTurn .resolve) s a.k) s
/-- HEALING_CAS (R183, R184). -/
def execHealingCas (s : State) : Host.Outcome State Fault Refusal := event (fun a s => reqTurn (slotTurn .heal) s a.k) s
/-- VISITOR_READ_REQUEST (R144, R145). -/
def execVisitorReadRequest (s : State) : Host.Outcome State Fault Refusal := event (fun a s => reqTurn visitorTurn s a.k) s
/-- OWNERSHIP_REQUEST (R144). -/
def execOwnershipRequest (s : State) : Host.Outcome State Fault Refusal := event (fun a s => reqTurn ownershipTurn s a.k) s
/-- DIRECTORY_GRANT (R149). -/
def execDirectoryGrant (s : State) : Host.Outcome State Fault Refusal := event (fun a s => msgTurn msgDue grantArrive s a.k) s
/-- DIRECTORY_PROBE (R149). -/
def execDirectoryProbe (s : State) : Host.Outcome State Fault Refusal := event (fun a s => msgTurn msgDue probeArrive s a.k) s
/-- PROBE_ANSWER (R148). -/
def execProbeAnswer (s : State) : Host.Outcome State Fault Refusal := event (fun a s => msgTurn msgDue answerArrive s a.k) s
/-- M_WRITEBACK (R150). -/
def execMWriteback (s : State) : Host.Outcome State Fault Refusal := event (fun a s => writebackStep s a.k a.i) s
/-- PATROL_SCRUB (R70). -/
def execPatrolScrub (s : State) : Host.Outcome State Fault Refusal := event (fun a s => softError s a.k a.i a.j) s
/-- CXL_HOST_SHARED_READ (R156). -/
def execCxlHostSharedRead (s : State) : Host.Outcome State Fault Refusal := event (fun a s => hostRead s a.k a.i false) s
/-- CXL_HOST_OWNERSHIP_READ (R156). -/
def execCxlHostOwnershipRead (s : State) : Host.Outcome State Fault Refusal := event (fun a s => hostRead s a.k a.i true) s
/-- CXL_HOST_WRITE_BACK (R156). -/
def execCxlHostWriteBack (s : State) : Host.Outcome State Fault Refusal := event (fun a s => hostBack s a.k a.i a.data a.flag) s
/-- BACK_INVALIDATION_RESPONSE (R157). -/
def execBackInvalidationResponse (s : State) : Host.Outcome State Fault Refusal := event (fun a s => snoopAnswer s a.k a.i a.data) s
/-- STARVATION_TOKEN (R230): the router injects first; the order in which messages move is the agenda's (log 3), and the token is used
up in the same arbitration, so no other state changes. -/
def execStarvationToken (s : State) : Host.Outcome State Fault Refusal := event (fun _ s => s) s
/-- L2SPLIT (R105). -/
def execL2split (s : State) : Host.Outcome State Fault Refusal := event (fun a s => splitStart s a.k a.v) s
/-- L2SPLIT_DONE (R105). -/
def execL2splitDone (s : State) : Host.Outcome State Fault Refusal := event (fun a s => splitEnd s a.k) s
/-- CNTCLR (R265). -/
def execCntclr (s : State) : Host.Outcome State Fault Refusal := event (fun a s => clearCounters s a.k a.v) s
/-- DIRRD (R257). -/
def execDirrd (s : State) : Host.Outcome State Fault Refusal := event (fun a s => dirLookup s a.k a.v) s
/-- DIRRD_DONE (R257). -/
def execDirrdDone (s : State) : Host.Outcome State Fault Refusal := event (fun a s => dirLookupDone s a.k) s

end Sys2Proof.Machine
end

