-- ==== Sys2Proof/Machine/Links.lean ====
section
/-!
DEFINITION. The topology table and its reload (R248-R252), the capability list (R261-R263), and the pod links (R17, R232, R233, R158).
-/

namespace Sys2Proof.Machine

/-! ### The topology table -/

/-- The model address of a byte of a wafer's topology table. -/
def topoAddr (s : State) (w off : Nat) : Nat := devAddr w ((s.wafer w).topobase.toNat + off)
def linkOff (n : Nat) : Nat := 0x0E40 + 16 * n
def domOff (d : Nat) : Nat := 0x0040 + 64 * d

/-- The device adds 2 to GEN after each of its changes (R252). -/
def topoGen (s : State) (w : Nat) : State :=
  let (g, s1) := s.unitNat (topoAddr s w 4) 4
  s1.unitWrite (topoAddr s1 w 4) (bytesOfNat 4 (g + 2))

/-- A change of the device's: one strong write, then GEN. -/
def topoWrite (s : State) (w off : Nat) (bs : List Byte) : State := topoGen (s.unitWrite (topoAddr s w off) bs) w

/-- The UP word of a wafer. -/
def upWord (s : State) (w : Nat) : Nat :=
  (List.range Config.domains).foldl (fun x d => if (s.domain (mkDk w d)).up then x + 2 ^ d else x) 0

/-- The reload (R252): every unit takes the fields as the table holds them. -/
def topoReload (s : State) (w : Nat) : State :=
  let (t, s1) := s.unitRead (topoAddr s w 0) 8192
  let own := fld t 0x08 1 % 16
  let s2 := (List.range Config.domains).foldl (fun s d =>
    let e := t.drop (domOff d)
    let q (off : Nat) : DWord := BitVec.ofNat 64 (fld e off 8)
    s.updDomain (mkDk w d) (fun x => { x with root := q 0x10, sftBase := q 0x18, hotBase := q 0x20, hostRoot := if d = 0 then q 0x28 else x.hostRoot })) s1
  let links := (List.range 32).map (fun n =>
    let e := t.drop (linkOff n)
    let st := fld e 2 1
    let l := (s2.wafer w).links.get .init n
    (n, { l with present := st.testBit 0, usable := st.testBit 1 && fld e 0 1 % 16 != own, peerWafer := fld e 0 1 % 16, peerLink := fld e 1 1 % 32 }))
  let ds := (t.drop 0x1040).take (56 * 56)
  let far := ((List.range (56 * 56)).zip (ds.map BitVec.toNat)).filter (fun e => e.2 != 0)
  s2.updWafer w (fun x => { x with links := links, dist := far })

/-! ### The capability list (R261, R263) -/

/-- The offset of an entry, found by the walk of R263. -/
def capFind (s : State) (w id : Nat) : Nat → Nat → Option Nat
  | 0, _ => none
  | fuel + 1, off =>
    let h := memRead s.mem (devAddr w ((s.wafer w).capbase.toNat + off)) 8
    let len := fld h 4 2
    let next := fld h 6 2
    if len < 8 ∨ len % 8 ≠ 0 ∨ 65536 < off + len then none
    else if fld h 0 2 = id then some off
    else if next < off + len then none
    else capFind s w id fuel next

/-- Bytes of an entry written by the device, when the list has the entry. -/
def capWrite (s : State) (w id off : Nat) (bs : List Byte) : State :=
  match capFind s w id 8192 0 with
  | some e => s.unitWrite (devAddr w ((s.wafer w).capbase.toNat + e + off)) bs
  | none => s

/-- DEVICE.STATE, in one write (R262). -/
def writeState (s : State) (w : Nat) : State :=
  capWrite s w 1 0x10 (bytesOfNat 8 (upWord s w + (if (s.wafer w).reduced then 2 ^ 63 else 0)))
/-- The clock field of DEVICE, in MHz. -/
def writeClock (s : State) (w : Nat) : State := capWrite s w 1 0x0E (bytesOfNat 2 (if (s.wafer w).reduced then 900 else 1900))

/-- The usable links of a wafer. -/
def usableLinks (s : State) (w : Nat) : Nat :=
  ((List.range 32).filter (fun n => let l := (s.wafer w).links.get .init n; l.present && l.usable)).length
/-- PODLINKS's count byte, whenever the number changes. -/
def writeLinks (s0 : State) (w : Nat) (s1 : State) : State :=
  if usableLinks s0 w = usableLinks s1 w then s1 else capWrite s1 w 2 8 (bytesOfNat 1 (usableLinks s1 w))

/-! ### Pod links (R17, R232, R233) -/

/-- The domain that carries a pod link. -/
def linkDomain (n : Nat) : Nat := if n < 16 then n / 2 else 48 + (n - 16) / 2

/-- The link that a request takes (R232). -/
def routeLink (s : State) (w d w' line : Nat) : Option Nat :=
  let ls := (List.range 32).filter (fun n =>
    let l := (s.wafer w).links.get .init n
    l.present && l.usable && l.peerWafer == w' && (s.wafer w).podmap.getLsbD w')
  match ls with
  | [] => none
  | n :: t =>
    let best := t.foldl (fun m n => min m (distance s w d (linkDomain n))) (distance s w d (linkDomain n))
    let near := ls.filter (fun n => distance s w d (linkDomain n) == best)
    near[line % 256 % near.length]?

def State.updLink (s : State) (w n : Nat) (f : PodLink → PodLink) : State :=
  s.updWafer w (fun x => { x with links := x.links.set n (f (x.links.get .init n)) })

/-- A request of a wafer in flight on a link that has gone down: reissued over another usable link, or LINK_DOWN where none is left. A
write, atomic or `red` that has been performed is recognised at its home and only answered again; a load is performed again (R233). -/
def reissueOne (s1 : State) (w : Nat) (r : Req) : State :=
  if (routeLink s1 w (domOf (dkOfCk r.core)) (waferOf (homeOf r.pa)) (r.pa / 128)).isNone then faultReq s1 r codeLinkDown false
  else if r.stage = .answered ∧ r.kind.writes = false then s1.updReq r.id (fun r => { r with stage := .remote })
  else s1

/-- Every request whose answer or acknowledgement was in flight on the link. One that had not been performed finds its link when it is
(R232). -/
def reissueAll (s0 s1 : State) (w n : Nat) : State :=
  (s0.reqs.filter (fun r => waferOf (dkOfCk r.core) == w && ownerOf r.target == 61 && (r.stage == .answered || r.stage == .acked) &&
    routeLink s0 w (domOf (dkOfCk r.core)) (waferOf (homeOf r.pa)) (r.pa / 128) == some n)).foldl (fun s r => reissueOne s w r) s1

/-- LINK_BEAT_CRC_ERROR: the beat is replayed and counted; after 8 failed replays in a row the link goes down (R233). -/
def crcError (s : State) (w n : Nat) : State :=
  let l := (s.wafer w).links.get .init n
  let dk := mkDk w (linkDomain n)
  let i := 12 + 2 * (n % 2)
  if 32 ≤ n ∨ l.present = false ∨ l.usable = false then s
  else if l.replays < 8 then countErr (s.updLink w n (fun l => { l with replays := l.replays + 1 })) dk i
  else
    let s1 := s.updLink w n (fun l => { l with usable := false, replays := 0 })
    writeLinks s w (topoWrite (countErr (reissueAll s s1 w n) dk (i + 1)) w (linkOff n + 2) (bytesOfNat 1 1))

/-- Firmware adds 1 to GEN, before its update and after it (R252). -/
def genStep (s : State) (w : Nat) : State :=
  let (g, s1) := s.unitNat (topoAddr s w 4) 4
  s1.unitWrite (topoAddr s1 w 4) (bytesOfNat 4 (g + 1))

/-- LINK_TRAINING: a link that is not fused out has been trained, and its far end is known: firmware makes GEN odd and writes the
entry. -/
def trainLink (s : State) (w n : Nat) (ok : Bool) (peer : Nat) : State :=
  let l := (s.wafer w).links.get .init n
  if 32 ≤ n ∨ l.present = false ∨ ok = false ∨ (s.wafer w).training.isSome = true then s
  else
    let s1 := genStep s w
    (s1.unitWrite (topoAddr s1 w (linkOff n)) [BitVec.ofNat 8 (peer % 16), BitVec.ofNat 8 (peer / 16 % 32), 3]).updWafer w
      (fun x => { x with training := some n })

/-- Firmware's update ends: GEN is even again, and the units reload the table. -/
def trainEnd (s : State) (w : Nat) : State :=
  if (s.wafer w).training.isNone then s
  else
    let s1 := genStep (s.updWafer w (fun x => { x with training := none })) w
    writeLinks s w (topoReload s1 w)

/-- POD_REMOTE_REQUEST: performed at the remote home; beats that got through end the link's run of failed replays. -/
def podRequest (s : State) (id : Nat) : State :=
  match s.req? id with
  | none => s
  | some r => match remoteTurn s r with
    | none => s
    | some s1 =>
      let w := waferOf (dkOfCk r.core)
      match routeLink s w (domOf (dkOfCk r.core)) (waferOf (homeOf r.pa)) (r.pa / 128) with
      | some n => s1.updLink w n (fun l => { l with replays := 0 })
      | none => s1

/-- TOPOBASE_WRITE: firmware writes the low register, and every unit reloads the table (R107, R252). -/
def topobaseWrite (s : State) (w : Nat) (v : Word) : State :=
  topoReload (s.updWafer w (fun x => { x with topobase := (x.topobase >>> 32).setWidth 32 ++ (v &&& 0xFFFFF000) })) w

/-! ### The meanings -/

/-- POD_REMOTE_REQUEST (R112, R158, R233). -/
def execPodRemoteRequest (s : State) : Host.Outcome State Fault Refusal := event (fun a s => podRequest s a.k) s
/-- LINK_BEAT_CRC_ERROR (R233). -/
def execLinkBeatCrcError (s : State) : Host.Outcome State Fault Refusal := event (fun a s => crcError s a.k a.i) s
/-- LINK_TRAINING (R250). -/
def execLinkTraining (s : State) : Host.Outcome State Fault Refusal := event (fun a s => trainLink s a.k a.i a.flag a.j) s
/-- TOPOBASE_WRITE (R252). -/
def execTopobaseWrite (s : State) : Host.Outcome State Fault Refusal := event (fun a s => topobaseWrite s a.k a.v) s

end Sys2Proof.Machine
end

