-- ==== Sys2Proof/Machine/Migrate.lean ====
section
/-!
DEFINITION. Translation changes (R120-R122, R443), page migration (R127-R131, R444), and changes of a range's class (R152,
R445).
-/

namespace Sys2Proof.Machine

/-! ### Ranges of an owner's space -/

/-- The first virtual address of an operation's range, and the address after it. -/
def UnitOp.vlo (u : UnitOp) : Nat := (if u.host then 56 else domOf u.dk) * 2 ^ 51 + u.lo
def UnitOp.vhi (u : UnitOp) : Nat := (if u.host then 56 else domOf u.dk) * 2 ^ 51 + u.hi

/-- Whether a virtual line lies in the range. -/
def UnitOp.hasLine (u : UnitOp) (vl : Nat) : Bool := decide (u.vlo / 128 ≤ vl) && decide (vl < (u.vhi + 127) / 128)

/-- Whether a request is for the range. -/
def UnitOp.covers (u : UnitOp) (r : Req) : Bool :=
  let (dk, off) := translator (waferOf (dkOfCk r.core)) r.target
  dk == u.dk && (ownerOf r.target == 56) == u.host && decide (u.lo ≤ off) && decide (off < u.hi)

/-- A request that is translated, and not yet accepted by its home; or not yet performed there. -/
def Stage.atHomeDoor : Stage → Bool
  | .toHome | .visitorRead | .ownership | .remote => true
  | _ => false
def Stage.translated : Stage → Bool
  | .granted | .heldHome => true
  | st => st.atHomeDoor

/-- The requests that the owner must see accepted (R120 step 2). -/
def translatedIn (s : State) (u : UnitOp) : List Nat := (s.reqs.filter (fun r => r.stage.translated && u.covers r)).map (·.id)
def allAccepted (s : State) (ids : List Nat) : Bool :=
  ids.all (fun i => match s.req? i with | some r => !r.stage.atHomeDoor | none => true)
def allPerformed (s : State) (ids : List Nat) : Bool :=
  ids.all (fun i => match s.req? i with | some r => !r.stage.translated | none => true)

def State.updOp (s : State) (op : Nat) (f : UnitOp → UnitOp) : State :=
  { s with unitOps := s.unitOps.map (fun u => if u.op = op then f u else u) }
def State.dropOp (s : State) (op : Nat) : State := { s with unitOps := s.unitOps.filter (fun u => u.op != op) }

/-! ### The purge (R120, R121) -/

/-- Cores of the owner's wafer that hold a line of the range or await one. -/
def purgeCores (s : State) (u : UnitOp) : List Nat :=
  (s.cores.filter (fun (e : Nat × Core) => waferOf (dkOfCk e.1) == waferOf u.dk &&
    (e.2.l1.any (fun l => u.hasLine l.vline) || e.2.icache.any (fun l => u.hasLine l.vline) ||
     s.reqs.any (fun r => r.core == e.1 && u.hasLine (vlineOf r.va))))).map (·.1)

/-- One core's lines of the range are invalidated, but for locked code; answers on their way fill none. -/
def purgeCore (s : State) (u : UnitOp) (ck : Nat) : State :=
  let s1 := s.updCore ck (fun c =>
    { c with l1 := c.l1.filter (fun l => !u.hasLine l.vline),
             icache := c.icache.filter (fun l => !u.hasLine l.vline || l.locks != []) })
  s1.noFill ck (fun r => u.hasLine (vlineOf r.va) && (match r.stage with | .toOwner | .walking _ | .heldOwner => false | _ => true))

/-- A core acknowledges a purge. -/
def purgeAck (s : State) (op ck : Nat) : State :=
  match s.unitOps.find? (fun u => u.op == op) with
  | some u => if u.phase = 2 ∧ u.cores.contains ck then
      (purgeCore s u ck).updOp op (fun u => { u with cores := u.cores.filter (· != ck) }) else s
  | none => s

/-- The purge is broadcast. -/
def sendPurge (s : State) (u : UnitOp) : State := s.updOp u.op (fun x => { x with phase := 2, cores := purgeCores s u })

/-- TLB entries that overlap a range are invalidated. -/
def dropTlbRange (s : State) (u : UnitOp) : State :=
  if u.host then s
  else s.updDomain u.dk (fun d => { d with tlb := d.tlb.filter (fun e => !(decide (e.page * e.size < u.hi) && decide (u.lo < (e.page + 1) * e.size))) })

/-! ### The order of operations at an owner (R122, R127) -/

def UnitOp.atOwner (u : UnitOp) : Bool := decide (u.what ≤ 1)

/-- No earlier translation or class change of the same owner is in progress. -/
def opFirst (s : State) (u : UnitOp) : Bool :=
  (s.unitOps.takeWhile (fun x => x.op != u.op)).all (fun x => !(x.atOwner && x.dk == u.dk && x.host == u.host))

/-- The range holds a moving page. -/
def movingIn (s : State) (u : UnitOp) : Bool :=
  !u.host && (s.domain u.dk).migs.any (fun m => decide (1 ≤ m.phase) && decide (m.vpage * m.size < u.hi) && decide (u.lo < (m.vpage + 1) * m.size))

/-! ### Copies of a frame's lines (R128, R152) -/

/-- The class-3 copies of a line on a wafer that hold sector `i` dirty. -/
def dirtyHolders (s : State) (w pl i : Nat) : List VLine :=
  (domainsOf w).filterMap (fun dk => match s.vis? dk pl with
    | some v => if v.cls = 3 ∧ v.state ≠ .r ∧ v.dirty.getLsbD i then some v else none
    | none => none)

/-- Untracked copies written back and given up, sector by sector; of several dirty ones of a sector one survives (R152). -/
def writebackLine (w : Nat) (s : State) (pl : Nat) : State :=
  let s1 := (List.range 4).foldl (fun (s : State) i =>
    match dirtyHolders s w pl i with
    | [] => s
    | [v] => s.storeBytes (pl * 128 + 32 * i) (lineSlice v.bytes (32 * i) 32)
    | v :: t =>
      let (k, s1) := s.choose (t.length + 1)
      s1.storeBytes (pl * 128 + 32 * i) (lineSlice ((v :: t).getD k v).bytes (32 * i) 32)) s
  (domainsOf w).foldl (fun s dk => if (s.vis? dk pl).isSome then s.dropVis dk pl else s) s1

/-- The untracked copies of a frame's lines handed home. -/
def handHome (s : State) (pa n : Nat) : State :=
  let w := waferOf (homeOf pa)
  let s0 := (trackedLines s pa n).foldl mergeInFlight s
  let pls := (domainsOf w).flatMap (fun dk => ((s0.domain dk).visit.filter (fun v => inFrame pa n v.pline && v.cls == 3)).map (·.pline))
  pls.eraseDups.foldl (writebackLine w) s0

/-- Every copy of a frame's lines on the wafer given up. -/
def clearFrame (s : State) (pa n : Nat) : State := recallFrame (handHome s pa n) pa n

/-- Snoops for halves of a frame that the host holds; nothing when it holds none (R156). -/
def snoopFrame (s : State) (pa n : Nat) : Option State :=
  let hs := winNeeds s pa n true
  if hs = [] then none else some (addSnoops s (pa / 2 ^ 52 % 16) hs true)

/-- The relocation set of an Orangery that is busy, with a set or a sweep, has a span in the frame (R127, R152). -/
def busySpan (s : State) (pa n : Nat) : Bool :=
  (domainsOf (waferOf (homeOf pa))).any (fun dk => match (s.domain dk).rel with
    | some r => (s.domain dk).relBusy && r.spans.any (fun sp => decide (pa / 2 ^ 16 ≤ sp.frame) && decide (sp.frame < (pa + n) / 2 ^ 16))
    | none => false)

/-! ### The leaves of a range (R445) -/

/-- The leaves from offset `lo` to `hi`: their offsets and entries; none when a piece has no present leaf. -/
def leavesFrom (dk hi : Nat) : Nat → Nat → State → Option (List (Nat × Leaf)) × State
  | 0, _, s => (some [], s)
  | fuel + 1, off, s =>
    if hi ≤ off then (some [], s)
    else match findLeaf s dk off false with
      | (none, s1) => (none, s1)
      | (some l, s1) =>
        let first := off / l.size * l.size
        match leavesFrom dk hi fuel (first + l.size) s1 with
        | (some ls, s2) => (some ((first, l) :: ls), s2)
        | (none, s2) => (none, s2)

def leavesOf (s : State) (u : UnitOp) : Option (List (Nat × Leaf)) × State :=
  leavesFrom u.dk u.hi ((u.hi - u.lo) / 2 ^ 16 + 1) u.lo s

/-- The model address of a leaf's frame. -/
def leafPa (dk : Nat) (l : Leaf) : Nat := devAddr (waferOf dk) l.frame

/-- Whether a frame lies in the enabled host-coherent window. -/
def inHostWin (s : State) (w pa n : Nat) : Bool :=
  let x := s.wafer w
  let b := x.hostwin.toNat / 2 ^ 28 * 2 ^ 28
  x.hostwinEn && decide (b ≤ pa) && decide (pa + n ≤ b + 2 ^ 28)

/-- The status with which a class change is turned away (R445). -/
def classRefusal (s : State) (u : UnitOp) : Option Nat × State :=
  match leavesOf s u with
  | (none, s1) => (some 2, s1)
  | (some ls, s1) =>
    (if ls.any (fun (x : Nat × Leaf) => decide (x.1 < u.lo) || decide (u.hi < x.1 + x.2.size)) then some 1
     else if u.cls = 2 ∧ ls.any (fun (x : Nat × Leaf) => !inHostWin s1 (waferOf u.dk) x.2.frame x.2.size) then some 3
     else none, s1)

/-- What a leaf's copies still wait for: a busy relocation set, or halves the host holds. -/
def classWait (s : State) (u : UnitOp) (l : Leaf) : Bool :=
  let pa := leafPa u.dk l
  ((l.cls == 1 || u.cls == 1) && busySpan s pa l.size) || (l.cls == 2 && winNeeds s pa l.size true != [])

/-- A leaf takes its new class, and its copies are reconciled by the old one (R152). -/
def classLeaf (u : UnitOp) (s : State) (x : Nat × Leaf) : State :=
  let l := x.2
  let e := l.entry - bitsOf l.entry 9 8 * 256 + u.cls * 256
  let s1 := s.unitWrite l.addr (bytesOfNat 8 e)
  clearFrame s1 (leafPa u.dk l) l.size

/-- A status arrives at the instruction that asked (R442). -/
def giveStatus (s : State) (tag : Option Nat) (n : Nat) : State :=
  match tag with
  | some t => s.updPend t (fun p => { p with vals := [(0, BitVec.ofNat 128 n)] })
  | none => s

/-- Requests held at an owner are translated, in the order in which they arrived, and go on (R128 steps 4 and 6, R445). -/
def freeOwner (s : State) (u : UnitOp) : State :=
  let held := (s.reqs.filter (fun r => r.stage == .heldOwner && u.covers r)).mergeSort (fun a b => decide (a.seq ≤ b.seq))
  held.foldl (fun s r =>
    let off := (translator (waferOf (dkOfCk r.core)) r.target).2
    match tlbFind (s.domain u.dk) off with
    | some e => acceptReq s r u.dk off { entry := e.leaf.toNat, addr := e.lpa, size := e.size }
    | none => startWalk s r u.dk off) s

/-! ### The steps of an owner -/

/-- `xlat.upd`: the entries go, the requests translated under them are accepted, the purge, the end (R120). -/
def xlatStep (s : State) (u : UnitOp) : Option State :=
  match u.phase with
  | 0 => if opFirst s u && !movingIn s u then
      some ((dropTlbRange s u).updOp u.op (fun x => { x with phase := 1, waitReqs := translatedIn s u })) else none
  | 1 => if allAccepted s u.waitReqs then some (sendPurge s u) else none
  | _ => if u.cores = [] then
      some ((s.dropOp u.op).updWarp u.bid u.wi (fun w => (w.releaseWaits (fun x => x == .unit u.op) 8).1)) else none

/-- `rgn.setclass`: judged, held at the owner, written and reconciled, purged, released (R445). The leaves are those of the table as
software last wrote it: the TLB's entries of the range go first (R120, R126). -/
def classStep (s0 : State) (u : UnitOp) : Option State :=
  let s := if u.phase < 2 then dropTlbRange s0 u else s0
  match u.phase with
  | 0 => if opFirst s u && !movingIn s u then
      (match classRefusal s u with
        | (some n, s1) => some (giveStatus (s1.dropOp u.op) u.tag n)
        | (none, s1) => some (s1.updOp u.op (fun x => { x with phase := 1, waitReqs := translatedIn s1 u })))
    else none
  | 1 => if allPerformed s u.waitReqs then
      (match leavesOf s u with
        | (none, s1) => some (freeOwner (giveStatus (s1.dropOp u.op) u.tag 2) u)
        | (some ls, s1) =>
          match ls.findSome? (fun (x : Nat × Leaf) => if x.2.cls = 2 then snoopFrame s1 (leafPa u.dk x.2) x.2.size else none) with
          | some s2 => if s2.wafers = s1.wafers then none else some s2
          | none => if ls.any (fun (x : Nat × Leaf) => classWait s1 u x.2) then none
              else some (sendPurge (dropTlbRange (ls.foldl (classLeaf u) s1) u) u))
    else none
  | _ => if u.cores = [] then some (freeOwner (giveStatus (s.dropOp u.op) u.tag 0) u) else none

/-- The writes held at the old home of a page set out for the new one, in the order held (R128 step 5). -/
def forwardHeld (s : State) (dk : Nat) (m : Mig) : State :=
  let held := s.reqs.filter (fun r => r.stage == .heldHome && decide (m.oldPa ≤ r.pa) && decide (r.pa < m.oldPa + m.size))
  let ids := (held.mergeSort (fun a b => decide (a.seq ≤ b.seq))).map (·.id)
  let move (r : Req) : Req := { r with stage := .toHome, pa := m.newPa + (r.pa - m.oldPa),
                                       attr := { r.attr with pline := r.attr.pline + m.newPa / 128 - m.oldPa / 128 } }
  let s1 := ids.foldl (fun s i => s.updReq i move) s
  s1.updDomain dk (fun d => { d with migs := d.migs.map (fun x => if x = m then { m with phase := 3, fwd := ids } else x) })

/-- The purge of a migrated page ends, requests translated under the old entry have been accepted, and the held writes are sent on
(R128 steps 4 and 5). -/
def moveStep (s : State) (u : UnitOp) : Option State :=
  if u.cores = [] ∧ allAccepted s u.waitReqs = true then
    let s1 := s.dropOp u.op
    match (s1.domain u.dk).migs.find? (fun m => m.phase == 2) with
    | some m => some (forwardHeld s1 u.dk m)
    | none => some s1
  else none

/-- The next step of an operation, if it can take one now. The end of an `hphase` is followed by the effect of a fence (R405). -/
def unitStep (s : State) (u : UnitOp) : Option State :=
  match u.what with
  | 0 => xlatStep s u
  | 1 => classStep s u
  | 2 => moveStep s u
  | 3 => some (acquireL1 (s.dropOp u.op) u.core)
  | _ => if 6 ≤ u.what ∧ u.what ≤ 8 ∧ rangeBuffered s u = false then some (rangeProgress s) else none

/-! ### Migration (R127-R131) -/

/-- The head of an owner's queue ends with a status, nothing moved. -/
def migEnd (s : State) (dk : Nat) (m : Mig) (n : Nat) : State :=
  giveStatus (s.updDomain dk (fun d => { d with migs := d.migs.filter (· != m) })) m.tag n

/-- Steps 1 and 2 of R128: the entry moves, the page is locked at its home, every visitor copy is recalled. -/
def migLock (s : State) (dk : Nat) (m : Mig) (off : Nat) (l : Leaf) : State :=
  let old := leafPa dk l
  let s1 := clearFrame s old l.size
  let s2 := s1.updDomain (homeOf old) (fun d => { d with pageLocks := d.pageLocks ++ [(old, l.size, dk)] })
  let m' : Mig := { m with vpage := off / l.size, size := l.size, oldPa := old, newPa := devAddr (waferOf dk) m.newPa, phase := 1 }
  s2.updDomain dk (fun d =>
    { d with migs := d.migs.map (fun x => if x = m then m' else x),
             tlb := d.tlb.map (fun e => if e.page = off / l.size ∧ e.size = l.size then { e with moving := true } else e) })

/-- MIGRATION_START: the head of the queue is judged, and its page locked and recalled. -/
def migStart (s : State) (dk : Nat) : State :=
  match (s.domain dk).migs with
  | [] => s
  | m :: _ =>
    if m.phase ≠ 0 then s
    else
      let off := m.vpage * m.size
      match findLeaf s dk off false with
      | (none, s1) => migEnd s1 dk m 2
      | (some l, s1) =>
        if l.size = 2 ^ 30 then migEnd s1 dk m 1
        else if m.newPa % l.size ≠ 0 ∨ namesMemory m.newPa = false then migEnd s1 dk m 3
        else if m.newPa = l.frame then migEnd s1 dk m 0
        else if l.cls = 1 ∧ busySpan s1 (leafPa dk l) l.size then s1
        else if s1.unitOps.any (fun u => u.what == 1 && u.phase != 0 && u.dk == dk) then s1
        else match snoopFrame s1 (leafPa dk l) l.size with
          | some s2 => s2
          | none => migLock s1 dk m off l

/-- Memory with the bytes of one frame copied to another. -/
def moveBytes (m : List Host.Cell) (old new n : Nat) : List Host.Cell :=
  (m.filter (fun c => decide (old ≤ c.1) && decide (c.1 < old + n))).foldl (fun m c => memSet m (new + (c.1 - old)) c.2)
    (m.filter (fun c => !(decide (new ≤ c.1) && decide (c.1 < new + n))))

/-- Poisoned sectors of one frame copied to another. -/
def movePoison (p : List Nat) (old new n : Nat) : List Nat :=
  p.filter (fun x => !(decide (new ≤ 32 * x) && decide (32 * x < new + n))) ++
  (p.filter (fun x => decide (old ≤ 32 * x) && decide (32 * x < old + n))).map (fun x => x + new / 32 - old / 32)

/-- MIGRATION_SWITCH: the page is copied, the leaf and the TLB entry take the new frame, the counters of its blocks are
cleared at the old home and start from zero at the new one, and the purge is broadcast (R128 steps 3 and 4, R131). -/
def migSwitch (s : State) (dk : Nat) : State :=
  match (s.domain dk).migs.find? (fun m => m.phase == 1) with
  | none => s
  | some m =>
    let off := m.vpage * m.size
    match findLeaf s dk off false with
    | (none, s1) => s1
    | (some l, s1) =>
      let s2 := clearFrame s1 m.newPa m.size
      let s3 : State := { s2 with mem := moveBytes s2.mem m.oldPa m.newPa m.size, poison := movePoison s2.poison m.oldPa m.newPa m.size }
      let (e0, s4) := s3.unitNat l.addr 8
      let e := e0 - bitsOf e0 51 16 * 2 ^ 16 + m.newPa % 2 ^ 52 / 2 ^ 16 * 2 ^ 16
      let s5 := s4.unitWrite l.addr (bytesOfNat 8 e)
      let clear (s : State) (pa : Nat) : State := hotClear s (homeOf pa) (pa % 2 ^ 35 / 2 ^ 16) (m.size / 2 ^ 16)
      let s6 := (clear (clear s5 m.oldPa) m.newPa).updDomain (homeOf m.oldPa) (fun d =>
        { d with rel := d.rel.map (fun r => { r with spans := r.spans.filter (fun sp => !inFrame m.oldPa m.size (sp.frame * 512)) }) })
      let u : UnitOp := { op := s6.nextId, what := 2, dk := dk, lo := off, hi := off + m.size, cls := 0, secure := false, host := false,
                          waitReqs := [], cores := [], tag := none, core := 0, bid := 0, wi := 0, phase := 2 }
      let s7 := s6.updDomain dk (fun d =>
        { d with migs := d.migs.map (fun x => if x = m then { m with phase := 2 } else x),
                 tlb := d.tlb.map (fun t => if t.page = m.vpage ∧ t.size = m.size then { t with leaf := BitVec.ofNat 64 e } else t) })
      { s7 with unitOps := s7.unitOps ++ [{ u with waitReqs := translatedIn s7 u, cores := purgeCores s7 u }], nextId := s7.nextId + 1 }

/-- MIGRATION_RELEASE: the new home has accepted every forwarded write; the owner's held requests go on, the lock ends and
the status is DONE (R128 step 6, R130). -/
def migRelease (s : State) (dk : Nat) : State :=
  match (s.domain dk).migs.find? (fun m => m.phase == 3) with
  | none => s
  | some m =>
    if m.fwd.all (fun i => match s.req? i with | some r => !r.stage.isOpen | none => true) then
      let off := m.vpage * m.size
      let u : UnitOp := { op := 0, what := 2, dk := dk, lo := off, hi := off + m.size, cls := 0, secure := false, host := false,
                          waitReqs := [], cores := [], tag := none, core := 0, bid := 0, wi := 0, phase := 1 }
      let s1 := s.updDomain (homeOf m.oldPa) (fun d => { d with pageLocks := d.pageLocks.filter (fun l => !(l.1 == m.oldPa && l.2.2 == dk)) })
      let s2 := s1.updDomain dk (fun d => { d with tlb := d.tlb.map (fun t => if t.page = m.vpage ∧ t.size = m.size then { t with moving := false } else t) })
      freeOwner (migEnd s2 dk m 0) u
    else s

/-! ### The instructions -/

def aPair (f : FmtA) : Field := { opd := opd9 f.a, role := .kgroup false, words := 2, strict := f.strict.getLsbD 0 }
def bUni (f : FmtA) : Field := { opd := opd9 f.b, role := .usrc, strict := f.strict.getLsbD 1 }

/-- The address that an even k pair holds, and a uniform word. -/
def pairVal (c : Ctx) (x : Opd) : DWord := read64 c.blk c.warp c.ref.wi x 0
def uniVal (c : Ctx) (x : Opd) : Word := read32 c.blk c.warp c.ref.wi x 0

/-- The owner codes that name no owner (R442). -/
def ownerNone (va : DWord) : Bool := (decide (57 ≤ ownerOf va) && decide (ownerOf va ≤ 60)) || ownerOf va == 63

/-- OWNER_BAD of a warp's one address. -/
def ownerPre (bad : DWord → Bool) (x : Opd) : Ctx → State → Option Flt := fun c _ =>
  let va := pairVal c x
  if bad va then some { code := codeOwnerBad, lanes := c.m, addr := va, pc := c.fpc } else none

/-- A uniform result that arrives later: the destination is empty until then; l is unchanged (R426). -/
def arriveUni (c : Ctx) (kind : PendKind) (d : Dst) (vals : Tab (BitVec 128)) (s : State) : Nat × State :=
  let (t, s1) := addPend s { basePend c with kind := kind, dst := d, need := 1, vals := vals }
  (t, s1.updWarp c.ref.bid c.ref.wi (fun w => w.markEmpty d.regs'))

/-- The owner's operation for the range of an instruction, clipped at the end of the owner's space (R442). -/
def rangeOp (s : State) (c : Ctx) (what : Nat) (va : DWord) (pages cls : Nat) (tag : Option Nat) : UnitOp :=
  let (dk, off) := translator (waferOf (dkOfCk c.blk.core)) va
  let lo := off / 2 ^ 16 * 2 ^ 16
  { op := s.nextId, what := what, dk := dk, lo := lo, hi := min (lo + pages * 2 ^ 16) (2 ^ (if ownerOf va = 61 then 41 else 51)), cls := cls,
    secure := c.warp.secure, host := ownerOf va == 56, waitReqs := [], cores := [], tag := tag, core := c.blk.core, bid := c.ref.bid,
    wi := c.ref.wi, phase := 0 }

def addOp (s : State) (u : UnitOp) : State := { s with unitOps := s.unitOps ++ [u], nextId := s.nextId + 1 }

/-- `xlat.upd` (R443). -/
def xlatEff (a b : Opd) (c : Ctx) (s : State) : Res :=
  let va := pairVal c a
  let n := (uniVal c b).toNat
  let w := waferOf (dkOfCk c.blk.core)
  if n = 0 then .done s
  else if ownerOf va = 61 ∧ podReach s w (podWafer va) = false then
    let d : Deferred := { code := codeLinkDown, kind := 1, pc := c.fpc, lanes := c.m, addr := va, tag := s.nextId, lane := lowLane c.em }
    .done (raiseDeferred { s with nextId := s.nextId + 1 } c.ref.bid c.ref.wi d)
  else
    let u := rangeOp s c 0 va n 0 none
    .hold (addOp s u) (.unit u.op)

/-- `pgmig` (R444): the request joins the owner's queue; owners 56, 61 and 62 are refused. -/
def pgmigEff (d a b : Opd) (c : Ctx) (s : State) : Res :=
  let va := pairVal c a
  let o := ownerOf va
  if o = 56 ∨ o = 61 ∨ o = 62 then .done (arriveUni c .reg (dstOf d 1) [(0, 1)] s).2
  else
    let (t, s1) := arriveUni c .reg (dstOf d 1) [] s
    let (dk, off) := translator (waferOf (dkOfCk c.blk.core)) va
    let m : Mig := { vpage := off / 2 ^ 16, size := 2 ^ 16, oldPa := 0, newPa := (pairVal c b).toNat, tag := some t, phase := 0, ownerDk := dk,
                     fwd := [] }
    .done (s1.updDomain dk (fun x => { x with migs := x.migs ++ [m] }))

/-- `rgn.setclass` (R445). -/
def classEff (d a b x : Opd) (c : Ctx) (s : State) : Res :=
  let va := pairVal c a
  let o := ownerOf va
  let n := (uniVal c b).toNat
  let cls := (uniVal c x).toNat % 4
  if o = 56 ∨ o = 61 ∨ o = 62 then .done (arriveUni c .reg (dstOf d 1) [(0, 3)] s).2
  else if n = 0 then .done (arriveUni c .reg (dstOf d 1) [(0, 0)] s).2
  else
    let (t, s1) := arriveUni c .reg (dstOf d 1) [] s
    .done (addOp s1 (rangeOp s1 c 1 va n cls (some t)))

/-- The shape of `class`. -/
def classShape (f : FmtA) : Shape :=
  { opcodeBad := badA f true true true true false false false || f.ty != 0,
            fields := [{ opd := opd9 f.d, role := .udst, dst := true }, aPair f, bUni f,
                       { opd := opd9 f.c, role := .usrc, strict := f.strict.getLsbD 2 }], priv := true, gov := false }

/-- The shape of `pgmig`. -/
def pgmigShape (f : FmtA) : Shape :=
  { opcodeBad := badA f true true true false false false false || f.ty != 0,
            fields := [{ opd := opd9 f.d, role := .udst, dst := true }, aPair f,
                       { opd := opd9 f.b, role := .kgroup false, words := 2, strict := f.strict.getLsbD 1 }], priv := true, gov := false }

/-- The shape of `xlat`. -/
def xlatShape (f : FmtA) : Shape :=
  { opcodeBad := badA f false true true false false false false || f.ty != 0, fields := [aPair f, bUni f], priv := true, gov := false }

def xlatIssue (i : Instr) (f : FmtA) (s : State) :
    Host.Outcome State Fault Refusal :=
  issue i (xlatShape f)
    (ownerPre (fun va => ownerBad va || ownerOf va == 62) (opd9 f.a)) (xlatEff (opd9 f.a) (opd9 f.b)) s

def pgmigIssue (i : Instr) (f : FmtA) (s : State) :
    Host.Outcome State Fault Refusal :=
  issue i (pgmigShape f)
    (ownerPre ownerNone (opd9 f.a)) (pgmigEff (opd9 f.d) (opd9 f.a) (opd9 f.b)) s

def classIssue (i : Instr) (f : FmtA) (s : State) :
    Host.Outcome State Fault Refusal :=
  issue i (classShape f)
    (ownerPre ownerNone (opd9 f.a)) (classEff (opd9 f.d) (opd9 f.a) (opd9 f.b) (opd9 f.c)) s

/-! ### The meanings -/

/-- XLAT_PURGE (R120, R121). -/
def execXlatPurge (s : State) : Host.Outcome State Fault Refusal := event (fun a s => purgeAck s a.k a.i) s
/-- MIGRATION_START (R127, R128). -/
def execMigrationStart (s : State) : Host.Outcome State Fault Refusal := event (fun a s => migStart s a.k) s
/-- MIGRATION_SWITCH (R128, R131). -/
def execMigrationSwitch (s : State) : Host.Outcome State Fault Refusal := event (fun a s => migSwitch s a.k) s
/-- MIGRATION_RELEASE (R128, R130, R444). -/
def execMigrationRelease (s : State) : Host.Outcome State Fault Refusal := event (fun a s => migRelease s a.k) s
/-- `xlat.upd` (R120, R443). -/
def execXlatUpd (s : State) : Host.Outcome State Fault Refusal := withA s (fun f => xlatIssue .xlatUpd f s)
/-- `pgmig` (R127, R444). -/
def execPgmig (s : State) : Host.Outcome State Fault Refusal := withA s (fun f => pgmigIssue .pgmig f s)
/-- `rgn.setclass` (R152, R445). -/
def execRgnSetclass (s : State) : Host.Outcome State Fault Refusal := withA s (fun f => classIssue .rgnSetclass f s)

end Sys2Proof.Machine
end

