-- ==== Sys2Proof/Machine/CodeLock.lean ====
section
/-!
DEFINITION. Locks in the instruction cache (R92, R153, R446): ranges, their lines, locking and release.
-/

namespace Sys2Proof.Machine

/-- The virtual lines that hold a byte of a range. -/
def codeLines (lo n : Nat) : List Nat := if n = 0 then [] else (List.range ((lo + n - 1) / 128 - lo / 128 + 1)).map (· + lo / 128)

/-- The address of a virtual line. -/
def lineVa (vl : Nat) : DWord := BitVec.ofNat 64 (vl % 2 ^ 50 * 128)

/-- A resident line is locked for a block when it is locked already or its set has a free lockable way of the four (R153). -/
def Core.lockLine (c : Core) (bid vl : Nat) (secure priv : Bool) : Core :=
  match c.iHit vl secure priv with
  | none => c
  | some l =>
    let inSet := c.icache.filter (fun x => x.vline % 64 == vl % 64 && x.locks != [])
    if l.locks ≠ [] ∨ inSet.length < 4 then
      { c with icache := c.icache.map (fun x => if x = l then { x with locks := if x.locks.contains bid then x.locks else x.locks ++ [bid] } else x) }
    else c

/-- Lines locked in ascending order; the second part says that a line must be tried again. -/
def lockLines (s : State) (ck bid : Nat) (vls : List Nat) (secure priv : Bool) : State × Bool :=
  vls.foldl (fun (a : State × Bool) vl =>
    let (s1, again) := bringLine a.1 ck (lineVa vl) secure priv
    (s1.updCore ck (fun c => c.lockLine bid vl secure priv), a.2 || again)) (s, false)

/-- How many lines of a list are locked for a block, and how many lines in all. -/
def lockedOf (c : Core) (bid : Nat) (vls : List Nat) : Nat :=
  (vls.filter (fun vl => c.icache.any (fun l => l.vline == vl && l.locks.contains bid))).length
def lockedAll (c : Core) (bid : Nat) : Nat := (c.icache.filter (fun l => l.locks.contains bid)).length

/-- A block's locks on the lines of a list are given up. -/
def Core.unlockLines (c : Core) (bid : Nat) (p : Nat → Bool) : Core :=
  { c with icache := c.icache.map (fun l => if p l.vline then { l with locks := l.locks.filter (· != bid) } else l) }

/-- ILOCKED.BYTES of a block follows its locks (R92). -/
def noteLocked (s : State) (bid : Nat) : State :=
  match s.block? bid with
  | some b => s.updBlock bid (fun x => { x with ilockedBytes := 128 * lockedAll (s.core b.core) bid })
  | none => s

/-- A block's listed ranges applied again in their order, as far as they fit (R45, R153). -/
def relock (s : State) (bid : Nat) : State :=
  match s.block? bid with
  | none => s
  | some b =>
    if b.ilocks = [] then s.updBlock bid (fun b => { b with ilockedBytes := 0, ilockShort := false })
    else
      let priv := b.lrec.privileged
      let s1 := b.ilocks.foldl (fun s r => (lockLines s b.core bid (codeLines r.1 r.2) b.world priv).1) s
      let short := b.ilocks.any (fun r => decide (lockedOf (s1.core b.core) bid (codeLines r.1 r.2) < (codeLines r.1 r.2).length))
      (noteLocked s1 bid).updBlock bid (fun b => { b with ilockShort := short })

end Sys2Proof.Machine
end

