-- ==== Sys2Proof/Machine/Engines.lean ====
section
/-!
DEFINITION. The tensor engines at work (R222, R223, R418-R424): the start of commands in arrival order, their payload row by row,
the completion word, the wait at a fault queue and the end of an abandoned command.
-/

namespace Sys2Proof.Machine

/-! ### Commands of a bay -/

/-- The queue of an engine: 0 the Enlarger, otherwise the Fixer. -/
def Bay.queue (b : Bay) (eng : Nat) : List EngCmd := if eng = 0 then b.enl else b.fix
def State.eng? (s : State) (bk eng cmd : Nat) : Option EngCmd := ((s.bay bk).queue eng).find? (fun c => c.id == cmd)
def State.updEng (s : State) (bk eng cmd : Nat) (f : EngCmd → EngCmd) : State :=
  let g (l : List EngCmd) : List EngCmd := l.map (fun c => if c.id = cmd then f c else c)
  s.updBay bk (fun b => if eng = 0 then { b with enl := g b.enl } else { b with fix := g b.fix })
def State.dropEng (s : State) (bk eng cmd : Nat) : State :=
  let g (l : List EngCmd) : List EngCmd := l.filter (fun c => c.id != cmd)
  s.updBay bk (fun b => if eng = 0 then { b with enl := g b.enl } else { b with fix := g b.fix })

/-- A command is complete: off its queue and its range-lock entries freed (R172, R421). -/
def engDone (s : State) (bk eng : Nat) (c : EngCmd) : State :=
  (s.dropEng bk eng c.id).updCore c.core (fun k => k.unlock c.id (fun _ => true))

/-- A command is abandoned (R223): no completion word, its locks freed, ENGINE_FAULT deferred in its warp or in the fault
record. -/
def engAbandon (s : State) (bk eng : Nat) (c : EngCmd) (va : DWord) : State :=
  raiseDeferred (engDone s bk eng c) c.bid c.wi
    { code := codeEngine, kind := 1, pc := c.pc, lanes := 0, addr := va, tag := c.id, lane := c.lane }

/-- A translation fault: a record of KIND 5 at the owner's queue, and the command waits with its locks (R60, R63, R421). -/
def engLog (s : State) (bk eng : Nat) (c : EngCmd) (code : BitVec 8) (va : DWord) : State :=
  let dk := dkOfCk c.core
  let r : FRec :=
    { addr := va, code := code, kind := 5, world := c.secure, entry := 0xFF, source := sourceOf dk, slot := slotOfCk c.core,
      warp := c.warpNo, grid := c.gid, lanes := 0 }
  let (t, s1) := sendRecord s (faultDk (waferOf dk) va) r (.engine bk eng c.id)
  s1.updEng bk eng c.id (fun c => { c with token := some t, fva := va })

/-- What an access that gave nothing leads to. -/
def engStop (s : State) (bk eng : Nat) (c : EngCmd) : UAns → State
  | .log code va => engLog s bk eng c code va
  | .fault _ va => engAbandon s bk eng c va
  | _ => s

/-- The pager's reply to a waiting command (R63, R223). -/
def engReply (s : State) (bk eng cmd : Nat) (fatal : Bool) : State :=
  match s.eng? bk eng cmd with
  | none => s
  | some c => if fatal then engAbandon s bk eng c c.fva else s.updEng bk eng cmd (fun c => { c with token := none })

/-! ### Starting (R222) -/

/-- The destination span of a command: the slice for `enl`, the tensor otherwise. -/
def EngCmd.dest (c : EngCmd) (b : Block) : SpanChk :=
  let t := shapeOf c.shape
  if c.kind = 0 then t.localSpan else t.tensorSpan b

/-- Whether two commands' destinations overlap; spans in the slices of two blocks do not. -/
def destOverlap (s : State) (x y : EngCmd) : Bool :=
  match s.block? x.bid, s.block? y.bid with
  | some b, some b' => let p := x.dest b; let q := y.dest b'
    (x.kind == 0) == (y.kind == 0) && ((x.kind != 0 && decide (p.lo < sliceVa 0)) || x.bid == y.bid) && decide (p.lo ≤ q.hi) &&
    decide (q.lo ≤ p.hi)
  | _, _ => false

/-- Whether a queued command may start: every earlier one has started, fewer than 4 are in progress, no earlier one of its core
writes where it will, and its warp's earlier accesses are performed (R174, R222). -/
def engMayStart (s : State) (bk eng : Nat) (c : EngCmd) : Bool :=
  let earlier := ((s.bay bk).queue eng).takeWhile (fun x => x.id != c.id)
  c.state == 0 && !c.waitTile && earlier.all (fun x => x.state != 0) && decide (earlier.length < 4) &&
  !earlier.any (fun x => x.core == c.core && destOverlap s x c) && !earlierOpen s c.bid c.wi c.id

/-! ### The payload, a row at a time (R419, R422-R424) -/

def engMode (n : Nat) : RMode := match n with | 0 => .rne | 1 => .rtz | 2 => .rdn | _ => .rup

/-- A row of the slice. -/
def localRow (s : State) (c : EngCmd) (t : TShape) (i : Nat) : List Byte :=
  match s.block? c.bid with
  | some b => memRead b.slice (t.soff + i * t.spitch) (rowSpan t.lfmt t.c)
  | none => []

/-- A row of the tile that `mdrain` handed over. -/
def tileRow (c : EngCmd) (t : TShape) (i : Nat) : List Byte :=
  bytesOfNat (rowSpan t.lfmt t.c) (packRow t.lfmt t.c (fun j => (c.tile.get 0 (i * 64 + j)).toNat))

/-- The element at a byte of a placed run, added to in place (R390, R419). -/
def addAt (op : RmwOp) (s : State) (a : Nat) (x : List Byte) : State :=
  let (old, s1) := if 2 ^ 60 ≤ a then (natOfBytes (memRead s.mem a 4), s) else s.unitNat a 4
  let new := (rmwNew op 4 false (BitVec.ofNat 64 old) (BitVec.ofNat 64 (natOfBytes x)) 0).1
  unitPut s1 a (bytesOfNat 4 new.toNat)

/-- The elements of a row added at their homes: FP32 as `atom.fadd`, INT32 wrapping; of owner 62, in the slice. -/
def engAdd (s : State) (u : UWho) (t : TShape) (va : DWord) (bs : List Byte) : UAns × State :=
  let op : RmwOp := if t.tfmt = 11 then .fadd else .add
  let n := bs.length
  if ownerOf va = 62 then
    match s.block? u.bid with
    | none => (.wait, s)
    | some b => match sliceOff b (offsetOf va) with
      | none => (.fault codeScratch va, s)
      | some o => (.ok [], s.updBlock u.bid (fun b => (List.range (n / 4)).foldl (fun b j =>
          let old := sliceNat b (o + 4 * j) 4
          let new := (rmwNew op 4 false (BitVec.ofNat 64 old) (BitVec.ofNat 64 (natOfBytes ((bs.drop (4 * j)).take 4))) 0).1
          sliceSet b (o + 4 * j) 4 (new.setWidth 128)) b))
  else match unitPlaces s u va n .write true (op == .fadd) with
    | (.error e, s1) => (e, s1)
    | (.ok ps, s1) => (.ok [], ps.foldl (fun s p => (List.range (p.2.1 / 4)).foldl (fun s j =>
        addAt op s (p.2.2 + 4 * j) ((bs.drop (p.1 + 4 * j)).take 4)) (countLines s u.ck p.2.2 p.2.1)) s1)

/-- The payload of row `i` of a command: what its access answered, and the state. -/
def engRow (s : State) (c : EngCmd) (i : Nat) : UAns × State :=
  let t := shapeOf c.shape
  let u : UWho := { ck := c.core, bid := c.bid, secure := c.secure, priv := c.priv }
  if c.kind = 0 then
    let put (s : State) (bs : List Byte) : State :=
      s.updBlock c.bid (fun b => { b with slice := memWrite b.slice (t.soff + i * t.spitch) bs })
    if i < t.r then
      match unitFetch s u (t.rowAddr i) (rowSpan t.tfmt t.c) with
      | (.ok bs, s1) => (.ok [], put s1 (convRow (engMode t.rmode) t.tfmt t.lfmt t.c bs ++ blankRow t.lfmt (t.cols - t.c)))
      | e => e
    else (.ok [], put s (blankRow t.lfmt t.cols))
  else
    let bs := convRow (engMode t.rmode) t.lfmt t.tfmt t.c (if c.kind = 1 then localRow s c t i else tileRow c t i)
    if t.add then engAdd s u t (t.rowAddr i) bs else unitDeposit s u (t.rowAddr i) bs

/-- The rows a command has: `enl` fills all of them, the others store those in range; without a column in range none is
accessed. -/
def EngCmd.rows (c : EngCmd) : Nat := let t := shapeOf c.shape; if c.kind = 0 then t.rows else if t.c = 0 then 0 else t.r

/-- The end of the payload: with a completion word the command waits for it, else it is complete (R421). -/
def engPaid (s : State) (bk eng : Nat) (c : EngCmd) : State :=
  match c.comp with
  | none => engDone s bk eng c
  | some _ => s.updEng bk eng c.id (fun c => { c with state := 2 })

/-- The row after which the read lock of `enl` is freed: the last that reads a tensor byte. -/
def EngCmd.lastRead (c : EngCmd) : Nat := let t := shapeOf c.shape; if t.c = 0 then 0 else t.r

/-- ENGINE_COMMAND_START: a command starts, or does its next row. -/
def engStart (s : State) (bk eng cmd : Nat) : State :=
  match s.eng? bk eng cmd with
  | none => s
  | some c =>
    if (engMayStart s bk eng c || c.state == 1) && c.token.isNone then
      let s0 := if c.state = 0 then s.updEng bk eng cmd (fun c => { c with state := 1 }) else s
      if c.rows ≤ c.row then engPaid s0 bk eng c
      else match engRow s0 c c.row with
        | (.ok _, s1) =>
          let s2 := s1.updEng bk eng cmd (fun c => { c with row := c.row + 1 })
          let s3 := if c.kind = 0 ∧ c.lastRead ≤ c.row + 1 then s2.updCore c.core (fun k => k.unlock c.id (fun l => l.source == 3)) else s2
          if c.rows ≤ c.row + 1 then engPaid s3 bk eng c else s3
        | (e, s1) => engStop s1 bk eng c e
    else s

/-- The completion word's place: a page of class 0 (R421). -/
def wordPlace (s : State) (c : EngCmd) (va : DWord) : Except UAns Nat × State :=
  match unitPlace s { ck := c.core, bid := c.bid, secure := c.secure, priv := c.priv } va 4 .write false true with
  | (.ok a, s1) =>
    match translate s1 (waferOf (dkOfCk c.core)) va .write c.priv c.secure with
    | (.ok x, s2) => if x.attr.cls = 0 then (.ok a, s2) else (.error (.fault codeHeapClass va), s2)
    | (.error _, s2) => (.error (.fault codeHeapClass va), s2)
  | e => e

/-- ENGINE_COMPLETION (R421, R174): CVAL is written to CADDR as a release at system scope; a word that cannot be written abandons
the command. -/
def engComplete (s : State) (bk eng cmd : Nat) : State :=
  match s.eng? bk eng cmd with
  | none => s
  | some c =>
    match c.comp with
    | none => s
    | some q =>
      if c.state = 2 then
        let va := addrAt q 0
        match wordPlace s c va with
        | (.error .wait, s1) => s1
        | (.error _, s1) => engAbandon s1 bk eng c va
        | (.ok a, s1) => engDone (unitPut s1 a (bytesOfNat 4 (wordAt q 2))) bk eng c
      else s

/-- ENGINE_COMMAND_START (R222, R422-R424). -/
def execEngineCommandStart (s : State) : Host.Outcome State Fault Refusal := event (fun a s => engStart s a.k a.i a.j) s
/-- ENGINE_COMPLETION (R421). -/
def execEngineCompletion (s : State) : Host.Outcome State Fault Refusal := event (fun a s => engComplete s a.k a.i a.j) s

end Sys2Proof.Machine
end

