-- ==== Sys2Proof/Machine/Save.lean ====
section
/-!
DEFINITION. Pre-emption and debug halts (R43, R44, R66-R69, R101): requests and their save records, the halt, the drain, the save
record's image, and the release of a core's resources (R47 step 4).
-/

namespace Sys2Proof.Machine

/-! ### Save records and the pool (R66, R67) -/

/-- Offsets of the areas after the header: accumulators, scratchpad, warp 0, and the total size. -/
def accOff : Nat := 512 + 8192
def scrOff (r : LaunchRec) : Nat := accOff + 16384 * r.tiles
def warpOff (r : LaunchRec) : Nat := scrOff r + 1024 * r.scratch
def warpSize (r : LaunchRec) : Nat := 9344 + 128 * r.regs
def recSize (r : LaunchRec) : Nat := warpOff r + r.warps * warpSize r
def recPages (r : LaunchRec) : Nat := (recSize r + 4095) / 4096

/-- The first pages of the pool at which `n` pages are free; the pool must lie in the domain's DRAM. -/
def poolFits (d : Domain) (dom n : Nat) : List Nat :=
  let base := d.saveBase.toNat
  if d.savePages < n ∨ inDram base dom = false ∨ inDram (base + 4096 * d.savePages - 1) dom = false then []
  else (List.range (d.savePages - n + 1)).filter (fun p => d.saves.all (fun e => decide (p + n ≤ e.1) || decide (e.1 + e.2 ≤ p)))

/-- A record reserved in a domain's pool; which of the free places is unspecified. -/
def reserveRec (s : State) (dk n : Nat) : Option Nat × State :=
  match poolFits (s.domain dk) (domOf dk) n with
  | [] => (none, s)
  | l =>
    let (k, s1) := s.choose l.length
    let p := l.getD k 0
    (some ((s1.domain dk).saveBase.toNat + 4096 * p), s1.updDomain dk (fun d => { d with saves := d.saves ++ [(p, n)] }))

/-- Records reserved for every block of a list, or for none. -/
def reserveAll : List Block → State → Option State
  | [], s => some s
  | b :: t, s => match reserveRec s b.home (recPages b.lrec) with
    | (none, _) => none
    | (some pa, s1) => reserveAll t (s1.updBlock b.bid (fun b => { b with saveRec := some pa }))

/-! ### Requests (R43, R66, R69) -/

def Block.live (b : Block) : Bool := b.phase != .ending
/-- The resident members of a gang that have not ended. -/
def gangLive (s : State) (gang : Nat) : List Block := s.blocks.filter (fun b => b.gangId == gang && b.live)

/-- A request noted: a debug halt takes the place of a pre-emption that has not been carried out. -/
def BlockPhase.ask (p : BlockPhase) (reason : Nat) : BlockPhase :=
  match p with
  | .running => .wantSave reason
  | .wantSave r => .wantSave (max r reason)
  | .halting r => .halting (max r reason)
  | .ending => .ending

def markAsk (s : State) (bs : List Block) (reason : Nat) : State :=
  bs.foldl (fun s b => s.updBlock b.bid (fun b => { b with phase := b.phase.ask reason })) s

/-- A request to save a gang: its records are reserved at once, or it waits behind the requests made before it (R66). -/
def askSave (s : State) (gang reason : Nat) : State :=
  let bs := gangLive s gang
  let s1 := markAsk s bs reason
  match bs.filter (fun b => b.saveRec.isNone) with
  | [] => s1
  | b :: t =>
    let d := s1.domain b.home
    if d.saveReqs.any (fun r => bs.any (fun x => x.bid == r.bid)) then s1
    else
      let wait := s1.updDomain b.home (fun d => { d with saveReqs := d.saveReqs ++ [{ bid := b.bid, reason := reason }] })
      if d.saveReqs = [] then (reserveAll (b :: t) s1).getD wait else wait

/-- A request that waits for a record still stands. -/
def SaveReq.stands (s : State) (r : SaveReq) : Bool :=
  match s.block? r.bid with
  | some b => (gangLive s b.gangId).any (fun x => x.saveRec.isNone)
  | none => false

/-- SAVE_RECORD_RESERVED: the oldest waiting request gets its records, when there is room. -/
def serveReq (s : State) (dk : Nat) : State :=
  match (s.domain dk).saveReqs.dropWhile (fun r => !r.stands s) with
  | [] => s.updDomain dk (fun d => { d with saveReqs := [] })
  | r :: t =>
    let s1 := s.updDomain dk (fun d => { d with saveReqs := r :: t })
    match s1.block? r.bid with
    | none => s1
    | some b => match reserveAll ((gangLive s1 b.gangId).filter (fun x => x.saveRec.isNone)) s1 with
      | some s2 => s2.updDomain dk (fun d => { d with saveReqs := t })
      | none => s1

/-- The first two requests of the three that name a core: pre-emption or a debug halt of every block on it (R102, R106). -/
def askCore (s : State) (ck reason : Nat) (p : Block → Bool) : State :=
  ((blocksOn s ck).filter (fun b => b.live && p b)).foldl (fun s b => askSave s b.gangId reason) s

/-- DEBUG_BREAK raised by a path, which issues nothing more (R101, R447). -/
def debugBreak (s : State) (r : PathRef) : State :=
  match s.block? r.bid with
  | some b => askSave (s.updSlot r (fun sl => { sl with wait := .brk })) b.gangId 0x82
  | none => s

/-! ### The halt (R66 step 1) -/

/-- A path halts: a pending prefix is taken back; a wait that depends on nothing but the saved state stays (R429, R485), any
other ends and the path issues again on resume. -/
def Slot.halt (sl : Slot) : Slot :=
  let sl1 := match sl.ordPfx with
    | some o => { sl with path := { sl.path with pc := o.addr }, ordPfx := none }
    | none => sl
  match sl1.wait with
  | .join | .bar _ | .gbar | .regs _ | .mwait _ => sl1
  | _ => { sl1 with wait := .ready }

/-- What a path's wait holds in flight is abandoned: the reads of `waitv`, whose destination is full as before (R394), and the
record read of `glaunch` (R433). -/
def abandonWait (s : State) (bid wi : Nat) (wt : Wait) : State :=
  match wt with
  | .waitv tag | .record tag _ =>
    let regs := match s.pend? tag with | some p => p.dst.regs' | none => []
    let s1 : State := { s with reqs := s.reqs.filter (fun r => r.tag != tag || r.bid != bid) }
    (s1.updWarp bid wi (fun w =>
      { w.markFull regs with log := w.log.map (fun e => if e.state != .free && e.tag == tag then LogEnt.empty else e),
                             logWait := w.logWait.filter (· != tag) })).dropPend tag
  | _ => s

/-- PREEMPT: the request reaches the block's core, and every warp halts. -/
def haltBlock (s : State) (bid : Nat) : State :=
  match s.block? bid with
  | none => s
  | some b =>
    match b.phase with
    | .wantSave reason =>
      if b.saveRec.isNone then s
      else
        let s1 := (List.range b.warps.length).foldl (fun s wi =>
          match b.warps[wi]? with
          | some w => w.slots.foldl (fun s sl => if sl.live then abandonWait s bid wi sl.wait else s) s
          | none => s) s
        s1.updBlock bid (fun b =>
          { b with phase := .halting reason, warps := b.warps.map (fun w => { w with slots := w.slots.map Slot.halt }) })
    | _ => s

/-! ### The drain (R66 step 2) -/

/-- Whether a core's write buffer holds a store of a block. -/
def storesHeld (s : State) (ck bid : Nat) : Bool := (s.core ck).wb.any (fun b => b.2.any (fun e => e.pieces.any (fun p => p.bid == bid)))

/-- Whether an engine holds a command of a block, apart from those whose `mdrain` has not begun. -/
def engBusy (s : State) (b : Block) : Bool :=
  let open_ (c : EngCmd) : Bool := c.bid == b.bid &&
    !(c.waitTile && (s.core b.core).matq.any (fun m => m.op == c.id && m.state == 0))
  (s.bay (bkOfCk b.core)).enl.any open_ || (s.bay (bkOfCk b.core)).fix.any open_

/-- Lanes of an instruction that the operand log holds. -/
def loggedLanes (w : Warp) (tag : Nat) : Word :=
  w.log.foldl (fun m e => if e.state != .free && e.state != .replaying && e.tag == tag then m ||| e.lanes else m) 0

/-- Whether an instruction in flight may be saved: what it still owes is logged, or its matrix operation has not begun. -/
def pendSaved (s : State) (b : Block) (p : Pend) : Bool :=
  (match p.kind with | .matrix => (s.core b.core).matq.any (fun m => m.tag == p.tag && m.state == 0) | _ => false) ||
  (match b.warps[p.wi]? with | some w => p.need &&& ~~~loggedLanes w p.tag == 0 | none => false)

/-- A matrix operation that replays a log entry and has not begun: it is saved in its entry. -/
def replayingOp (b : Block) (m : MatOp) : Bool :=
  match b.warps[m.wi]? with
  | some w => w.log.any (fun e => e.state == .replaying && e.kind == 4 && e.tag == m.op)
  | none => false

/-- Whether an entry's replay is under way, apart from a matrix operation that has not begun. -/
def replayOpen (s : State) (b : Block) : Bool :=
  b.warps.any (fun w => w.log.any (fun e => e.state == .replaying &&
    !(e.kind == 4 && (s.core b.core).matq.any (fun m => m.op == e.tag && m.state == 0))))

/-- Whether the drain of a halting block has ended and no fault is to be taken first (R66, R69). -/
def drained (s : State) (b : Block) : Bool :=
  !s.reqs.any (fun r => r.bid == b.bid || r.pieces.any (fun p => p.bid == b.bid)) && !storesHeld s b.core b.bid &&
  !engBusy s b && !(s.core b.core).matq.any (fun m => m.bid == b.bid && m.state != 0) && !replayOpen s b &&
  s.pends.all (fun p => p.bid != b.bid || pendSaved s b p) &&
  !s.unitOps.any (fun u => u.bid == b.bid && decide (6 ≤ u.what)) &&
  (List.range b.warps.length).all (fun wi => !deferredDue s b.bid wi) &&
  !b.warps.any (fun w => w.log.any (fun e => e.state == .fatal))

/-! ### The image of a save record (R67, R85, R354) -/

/-- Bytes filled with zeros to a length. -/
def padTo (n : Nat) (bs : List Byte) : List Byte := bs ++ List.replicate (n - bs.length) 0

/-- The 32-bit registers of R82 that are saved, by number. -/
def csrImage (s : State) (b : Block) (w : Warp) (n : Nat) : Word :=
  let hi (x : DWord) : Word := (x >>> 32).setWidth 32
  match n with
  | 0x00 => setBit w.csr.status 4 (s.wafer (waferOf (dkOfCk b.core))).reduced
  | 0x01 => w.csr.fpmode
  | 0x02 => w.csr.faultcode
  | 0x03 => w.csr.faultlanes
  | 0x04 => w.csr.faultpc.setWidth 32
  | 0x05 => hi w.csr.faultpc
  | 0x06 => w.csr.faultaddr.setWidth 32
  | 0x07 => hi w.csr.faultaddr
  | 0x08 => w.csr.rowprog
  | 0x09 => w.csr.batchIssued.setWidth 32
  | 0x0A => w.csr.batchDone.setWidth 32
  | 0x0B => BitVec.ofNat 32 w.logCount
  | 0x0E => w.csr.faultem
  | _ => 0

/-- A number whose bit `i` says that register `f i` is empty. -/
def emptyBits (w : Warp) (n : Nat) (f : Nat → Reg) : Nat :=
  (List.range n).foldl (fun x i => if w.empty.contains (f i) then x + 2 ^ i else x) 0

def wordBytes (l : List Word) : List Byte := l.flatMap (fun x => bytesOfNat 4 x.toNat)

/-- Whether a path of a warp is saved as waiting: at its join, at a barrier (R429), for a register still empty (R485) or for a
batch still ahead. -/
def Wait.saved (w : Warp) : Wait → Bool
  | .join | .bar _ | .gbar => true
  | .regs rs => rs.any w.isEmpty
  | .mwait n => batchAhead (BitVec.ofNat 16 n) w.csr.batchDone
  | _ => false

/-- A PC slot's 32 bytes. -/
def slotImage (w : Warp) (sl : Slot) : List Byte :=
  if sl.live then
    bytesOfNat 8 sl.path.pc.toNat ++ bytesOfNat 8 ((sl.path.rpc.getD 0).toNat) ++ bytesOfNat 4 sl.path.mask.toNat ++
    bytesOfNat 4 (1 + (if sl.wait.saved w then 2 else 0) + (if sl.path.rpc.isNone then 4 else 0)) ++
    bytesOfNat 4 sl.age.toNat ++ bytesOfNat 2 sl.reach.toNat ++ bytesOfNat 2 sl.susp.toNat
  else List.replicate 32 0

/-- The word of a hardware-loop level, by the PC of the lowest-numbered live slot (R354). -/
def loopWord (w : Warp) (lv : Option Level) : Nat :=
  match lv, w.slots.find? (·.live) with
  | some l, some sl => (sl.path.pc - l.start).toNat / 2 % 2 ^ 15 + 2 ^ 15 + (l.stop - sl.path.pc).toNat / 2 % 2 ^ 15 * 2 ^ 16 + (if l.lc then 2 ^ 31 else 0)
  | _, _ => 0

def LogState.code : LogState → Nat | .free => 0 | .pending => 1 | .resolved | .replaying => 2 | .fatal => 3

/-- An operand-log entry's 800 bytes. -/
def logImage (e : LogEnt) : List Byte :=
  if e.state = .free then List.replicate 800 0
  else padTo 32 (bytesOfNat 8 e.pc.toNat ++ bytesOfNat 8 e.enc.toNat ++ bytesOfNat 4 e.lanes.toNat ++ bytesOfNat 4 e.order.toNat ++
      bytesOfNat 4 e.state.code) ++
    lanes32.flatMap (fun i => bytesOfNat 8 (e.addr.get 0 i).toNat) ++ lanes32.flatMap (fun i => bytesOfNat 16 (e.data.get 0 i).toNat)

/-- A warp area. -/
def warpImage (s : State) (b : Block) (w : Warp) : List Byte :=
  let em := match w.slots[w.lastSlot]? with | some sl => if sl.live then sl.path.mask else 0 | none => 0
  (List.range 8).flatMap (fun i => wordBytes (lanes32.map (w.oLane i))) ++ wordBytes ((List.range 64).map w.kReg) ++
  wordBytes (lanes32.map (lane w.l)) ++ wordBytes ((List.range 8).map w.pReg) ++
  wordBytes [em, w.lc0, w.lc1, 0] ++
  bytesOfNat 32 (emptyBits w 256 .v) ++ bytesOfNat 8 (emptyBits w 64 .k) ++ bytesOfNat 2 (emptyBits w 8 .o) ++ bytesOfNat 6 (emptyBits w 16 .h) ++
  (List.range 2).flatMap (fun i => match w.slots[i]? with | some sl => slotImage w sl | none => List.replicate 32 0) ++
  bytesOfNat 8 (w.spillBase + BitVec.ofNat 64 (16 * w.spill.length)).toNat ++ bytesOfNat 8 w.spillBase.toNat ++
  bytesOfNat 4 w.spillDepth ++ bytesOfNat 4 w.rotation ++
  bytesOfNat 4 (loopWord w w.levels.getLast?) ++ bytesOfNat 4 (loopWord w (if 2 ≤ w.levels.length then w.levels.head? else none)) ++
  wordBytes ((List.range 64).map (csrImage s b w)) ++ List.replicate 192 0 ++
  (List.range 16).flatMap (fun i => lanes32.flatMap (fun l => bytesOfNat 8 (w.hLane i l).toNat)) ++
  (List.range 4).flatMap (fun i => logImage (w.log.getD i LogEnt.empty)) ++
  (List.range b.lrec.regs).flatMap (fun i => wordBytes (lanes32.map (w.vLane i)))

/-- A matrix-queue entry's 320 bytes. -/
def matImage (b : Block) (m : MatOp) : List Byte :=
  let batch := match b.warps[m.wi]? with | some w => (w.batches.find? (fun (x : Nat × List Nat) => x.2.contains m.op)).map Prod.fst | none => none
  padTo 16 (bytesOfNat 8 m.enc.toNat ++ bytesOfNat 1 m.wi ++ bytesOfNat 1 (1 + (if batch.isSome then 2 else 0)) ++
    bytesOfNat 2 (batch.getD 0) ++ bytesOfNat 1 m.row) ++ padTo 48 (wordBytes m.kops) ++
    padTo 256 (m.pair.flatMap (fun x => bytesOfNat 8 x.toNat))

/-- The operations of a block that have not begun, in queue order. -/
def notBegun (s : State) (b : Block) : List MatOp :=
  (s.core b.core).matq.filter (fun m => m.bid == b.bid && m.state == 0 && !replayingOp b m)

/-- The header. -/
def headImage (b : Block) (reason : Nat) : List Byte :=
  let r := b.lrec
  padTo 512 (bytesOfNat 4 1 ++ bytesOfNat 1 reason ++ bytesOfNat 1 (if r.world then 1 else 0) ++ bytesOfNat 1 r.prio ++
    bytesOfNat 1 r.gang ++ bytesOfNat 1 b.member ++ bytesOfNat 1 r.warps ++ bytesOfNat 1 r.regs ++ bytesOfNat 1 r.tiles ++
    bytesOfNat 2 r.scratch ++ bytesOfNat 2 ((if r.pair then 1 else 0) + (if memberArrived b then 2 else 0)) ++ bytesOfNat 8 b.gid ++
    bytesOfNat 8 (indexWord r b.linear).toNat ++ bytesOfNat 8 b.arrival ++ bytesOfNat 8 b.launchAddr.toNat ++
    bytesOfNat 4 512 ++ bytesOfNat 4 accOff ++ bytesOfNat 4 (scrOff r) ++ bytesOfNat 4 (warpOff r) ++ bytesOfNat 4 (recSize r) ++
    bytesOfNat 2 (sourceOf (dkOfCk b.core)) ++ bytesOfNat 1 (slotOfCk b.core))

/-- The whole record. -/
def recImage (s : State) (b : Block) (reason : Nat) : List Byte :=
  headImage b reason ++
  padTo 8192 (padTo 0x1480 ((List.range 16).flatMap (fun i => bytesOfNat 8 (b.bars.get 0 i).toNat) ++ (notBegun s b).flatMap (matImage b)) ++
    padTo 128 (b.ilocks.flatMap (fun r => bytesOfNat 8 r.1 ++ bytesOfNat 8 r.2)) ++ bytesOfNat 8 b.gbar.toNat) ++
  (List.range (4096 * b.lrec.tiles)).flatMap (fun i => bytesOfNat 4 (b.tiles.get 0 i).toNat) ++
  memRead b.slice 0 (1024 * b.lrec.scratch) ++ b.warps.flatMap (warpImage s b)

/-! ### The release of a core's resources (R47 step 4, R40, R497) -/

/-- A write of the issue mode that met a user block takes effect when no block is resident (R40, R94). -/
def settleSched (s : State) (ck : Nat) : State :=
  match (s.core ck).schedPending with
  | some m => if blocksOn s ck = [] then s.updCore ck (fun c => { c with schedmode := m, schedPending := none }) else s
  | none => s

/-- The mirror window of a member that retires before the last of its gang stays held; the last one to leave frees them all (R47,
R48). Members that are saved hold none: the cores' resources are released with them (R66; log 74). -/
def settleWindow (s : State) (b : Block) : State :=
  if s.blocks.any (fun x => x.gangId == b.gangId && x.bid != b.bid) then
    if b.phase = .ending ∧ b.lrec.mirror ≠ 0 then s.updCore b.core (fun c => { c with windows := c.windows ++ [(b.gangId, b.lrec.mirror)] })
    else s
  else { s with cores := s.cores.map (fun e => (e.1, { e.2 with windows := e.2.windows.filter (fun x => x.1 != b.gangId) })) }

/-- A block leaves its core: its locks, array queue, warp numbers, code locks and pair reservation are free, and its warps leave
the issue slots. -/
def leaveCore (s0 : State) (b : Block) : State :=
  let ck := b.core
  let nums := b.warps.map Warp.number
  let s := settleWindow s0 b
  let s1 := s.updCore ck (fun c =>
    { (c.unlockLines b.bid (fun _ => true)).freeWhere (fun e => e.bid == b.bid) with
        matq := c.matq.filter (fun m => m.bid != b.bid), warpNums := c.warpNums.filter (fun n => !nums.contains n) })
  let s2 := (b.warps.zip (List.range b.warps.length)).foldl (fun (s : State) (x : Warp × Nat) => leaveIssue s ck x.1.issueSlot b.bid x.2) s1
  let s3 := if (s2.core (ck + 1)).reservedBy = some b.bid then s2.updCore (ck + 1) (fun c => { c with reservedBy := none }) else s2
  let s4 : State := { s3 with blocks := s3.blocks.filter (fun x => x.bid != b.bid), pends := s3.pends.filter (fun p => p.bid != b.bid) }
  settleSched (s4.updDomain (dkOfCk ck) (fun d => { d with preempting := d.preempting.filter (· != b.bid) })) ck

/-! ### The save (R66 step 3, R69) -/

/-- A saved gang is queued again once no member of it is resident or held for a debugger (R45, R106; log 36). The 4,096 cc until an
offer count from here, where the spec names no start for them: "after 4,096 cc like any other unit" (log 70). -/
def requeue (s : State) (dk gang : Nat) : State :=
  let d := s.domain dk
  let vs := d.saved.filter (fun v => v.key == gang)
  match vs with
  | [] => s
  | v :: _ =>
    if s.blocks.any (fun b => b.gangId == gang) || vs.any (fun v => d.dbgHeld.contains v.blk.bid) || d.units.any (fun u => u.save == some gang)
    then s
    else s.updDomain dk (fun d => { d with units := d.units ++
      [{ gid := v.blk.gid, linear := v.blk.linear, target := v.blk.target, save := some gang, arrival := v.blk.arrival,
         offerAt := if vs.any (fun v => v.blk.hint.isSome) then s.clock else s.clock + 4096, offered := false, prio := v.blk.lrec.prio }] })

/-- What the save keeps of a block beside the record. -/
def savedOf (s : State) (b : Block) (pa reason : Nat) : Saved :=
  { key := b.gangId, recPa := pa, pages := recPages b.lrec, poolDk := b.home, reason := reason,
    blk := { b with phase := .running, saveRec := none,
                    warps := b.warps.map (fun w => { w with log := w.log.map (fun e => if e.state = .replaying then { e with state := .resolved } else e) }) },
    ops := notBegun s b,
    locks := (((s.core b.core).locks.map (·.2)) ++ (s.core b.core).owed).filter (fun e => e.bid == b.bid),
    engs := (s.bay (bkOfCk b.core)).fix.filter (fun c => c.bid == b.bid), pends := s.pends.filter (fun p => p.bid == b.bid) }

/-- A drained block's record is written and its core's resources are released. -/
def saveOne (s : State) (b : Block) : State :=
  match b.phase, b.saveRec with
  | .halting reason, some pa =>
    let s1 := s.unitWrite (devAddr (waferOf b.home) pa) (recImage s b reason)
    let v := savedOf s1 b pa reason
    let s2 := s1.updBay (bkOfCk b.core) (fun k => { k with fix := k.fix.filter (fun c => c.bid != b.bid) })
    let s3 := (leaveCore s2 b).updDomain b.home (fun d =>
      { d with saved := d.saved ++ [v], dbgHeld := if reason = 0x82 then d.dbgHeld ++ [b.bid] else d.dbgHeld })
    publish s (dkOfCk b.core) (requeue s3 b.home b.gangId)
  | _, _ => s

/-- Whether a halting block can be saved: it has drained. -/
def saveDue (s : State) (b : Block) : Bool :=
  (match b.phase, b.saveRec with | .halting _, some _ => true | _, _ => false) && drained s b

/-- PREEMPT_SAVE: a gang is saved as a whole (R43), in member order, once every member that has not ended has drained: no member
stores into a saved member's window (R138). -/
def saveBlock (s : State) (bid : Nat) : State :=
  match s.block? bid with
  | none => s
  | some b =>
    let ms := (List.range 8).flatMap (fun m => (gangLive s b.gangId).filter (fun x => x.member == m))
    if saveDue s b && ms.all (saveDue s) then ms.foldl saveOne s else s

/-! ### The resume (R45, R68, R85, R497) -/

/-- Words of an image. -/
def imgWord (bs : List Byte) (off : Nat) : Word := BitVec.ofNat 32 (fld bs off 4)
def imgDword (bs : List Byte) (off : Nat) : DWord := BitVec.ofNat 64 (fld bs off 8)
/-- `n` words from an offset. -/
def imgWords (bs : List Byte) (off n : Nat) : List Word :=
  let t := bs.drop off
  (List.range n).map (fun i => imgWord t (4 * i))

/-- The saved registers of R82 as a record holds them (R85); what is not saved starts anew. -/
def csrOfImage (bs : List Byte) : Csr :=
  let w (n : Nat) : Word := imgWord bs (0x640 + 4 * n)
  { status := setBit (w 0) 4 false, fpmode := w 1, faultcode := w 2, faultlanes := w 3, faultpc := w 5 ++ w 4, faultaddr := w 7 ++ w 6,
    faultem := w 0xE, rowprog := w 8, batchIssued := (w 9).setWidth 16, batchDone := (w 0xA).setWidth 16, cycleLatch := none,
    heapBaseLatch := none, heapLimitLatch := none }

/-- A PC slot from its bytes; a waiting path waits where it did (R429). No breakpoint matches its first issue (R101). -/
def slotOfImage (w : Warp) (old : Slot) (bs : List Byte) (off : Nat) : Slot :=
  let fl := fld bs (off + 20) 4
  let pc := imgDword bs off
  { live := fl.testBit 0,
    path := { pc := pc, rpc := if fl.testBit 2 then none else some (imgDword bs (off + 8)), mask := imgWord bs (off + 16) },
    wait := if fl.testBit 1 then (if old.wait.saved w then old.wait else .join) else .ready, age := imgWord bs (off + 24),
    reach := BitVec.ofNat 16 (fld bs (off + 28) 2), susp := BitVec.ofNat 16 (fld bs (off + 30) 2), ordPfx := none,
    fetchFault := if old.path.pc = pc then old.fetchFault else none }

/-- The registers whose empty bit a record has set. -/
def emptyOfImage (bs : List Byte) : List Reg :=
  let at_ (off bytes : Nat) (f : Nat → Reg) : List Reg :=
    let x := fld bs off bytes
    ((List.range (8 * bytes)).filter (fun i => x.testBit i)).map f
  at_ 0x5B0 32 .v ++ at_ 0x5D0 8 .k ++ at_ 0x5D8 1 .o ++ at_ 0x5DA 2 .h

/-- An operand-log entry as its 800 bytes give it, and reissued: one marked fatal stays so (R68). The device's own names of it are
those kept (log 35). -/
def logOfImage (e : LogEnt) (bs : List Byte) : LogEnt :=
  let code := fld bs 24 1 % 4
  if e.state = .free ∨ code = 0 then LogEnt.empty
  else
    { e with state := if code = 3 then .fatal else .resolved, tokens := if code = 3 then e.tokens else [], pc := imgDword bs 0,
             enc := imgDword bs 8, lanes := imgWord bs 16, order := imgWord bs 20,
             addr := lanes32.map (fun l => (l, imgDword bs (32 + 8 * l))),
             data := lanes32.map (fun l => (l, BitVec.ofNat 128 (fld bs (288 + 16 * l) 16))) }

/-- A loop level from its word and the PC of the lowest-numbered live slot (R354). -/
def levelOfWord (pc : DWord) (x : Nat) : List Level :=
  if x.testBit 15 then
    [{ start := pc - BitVec.ofNat 64 (2 * bitsOf x 14 0), stop := pc + BitVec.ofNat 64 (2 * bitsOf x 30 16), lc := x.testBit 31 }]
  else []

/-- The hardware-loop levels, innermost first. -/
def levelsOfImage (slots : List Slot) (bs : List Byte) : List Level :=
  match slots.find? (·.live) with
  | some sl => levelOfWord sl.path.pc (fld bs 0x63C 4) ++ levelOfWord sl.path.pc (fld bs 0x638 4)
  | none => []

/-- A warp from its area of the record, with a new number and issue slot. -/
def warpOfImage (regs : Nat) (w : Warp) (bs : List Byte) (number isl : Nat) : Warp :=
  let lanes (off : Nat) : List Word := imgWords bs off 32
  let slots := (w.slots.zip (List.range w.slots.length)).map (fun x => slotOfImage w x.1 bs (0x5E0 + 32 * x.2))
  { w with
    o := (List.range 8).map (fun i => (i, lanes (128 * i))), k := (List.range 64).zip (imgWords bs 0x400 64),
    l := lanes 0x500, p := (List.range 8).zip (imgWords bs 0x580 8),
    lc0 := imgWord bs 0x5A4, lc1 := imgWord bs 0x5A8, empty := emptyOfImage bs,
    slots := slots, csr := csrOfImage bs, spillBase := imgDword bs 0x628, spillDepth := fld bs 0x630 4, rotation := fld bs 0x634 4,
    spill := w.spill.take ((imgDword bs 0x620 - imgDword bs 0x628).toNat / 16), levels := levelsOfImage slots bs,
    h := (List.range 16).map (fun i => (i, (List.range 32).map (fun l => imgDword (bs.drop (0x800 + 256 * i)) (8 * l)))),
    log := (w.log.zip (List.range w.log.length)).map (fun x => logOfImage x.1 (bs.drop (0x1800 + 800 * x.2))), progress := 0, v := (List.range regs).map (fun i => (i, lanes (0x2480 + 128 * i))),
    freshLanes := BitVec.allOnes 32, number := number, issueSlot := isl }

/-- A tile's elements from the accumulator area. -/
def tilesOfImage (n : Nat) (bs : List Byte) : Tab Word :=
  ((List.range (4096 * n)).zip (imgWords bs accOff (4096 * n)))

/-- The matrix-queue entries of a record, with the operation that each was when it was written. -/
def matEntries (v : Saved) (bs : List Byte) : List (MatOp × List Byte) :=
  (v.ops.zip (List.range v.ops.length)).map (fun x => (x.1, bs.drop (512 + 0x80 + 320 * x.2)))

/-- The operations reloaded from the record's matrix-queue entries, in queue order; each takes its operands from its entry (R68). -/
def opsOfImage (v : Saved) (bs : List Byte) : List MatOp :=
  ((matEntries v bs).filter (fun x => (fld x.2 9 1).testBit 0)).map (fun x =>
    { x.1 with enc := imgDword x.2 0, wi := fld x.2 8 1, row := fld x.2 12 1, startRow := fld x.2 12 1,
               kops := imgWords x.2 16 x.1.kops.length,
               pair := (List.range x.1.pair.length).map (fun i => imgDword x.2 (64 + 8 * i)) })

/-- A warp's open operations and batches as the entries give them: each reloaded operation is in the batch that its entry names, or
in none yet (R67, R221). -/
def rebatch (w : Warp) (wi : Nat) (es : List (MatOp × List Byte)) : Warp :=
  let ids := es.map (fun x => x.1.op)
  let own := es.filter (fun x => (fld x.2 9 1).testBit 0 && fld x.2 8 1 == wi)
  let named (n : Nat) : List Nat := (own.filter (fun x => (fld x.2 9 1).testBit 1 && fld x.2 10 2 == n)).map (fun x => x.1.op)
  { w with openOps := w.openOps.filter (fun n => !ids.contains n) ++ (own.filter (fun x => !(fld x.2 9 1).testBit 1)).map (fun x => x.1.op),
           batches := w.batches.map (fun x => (x.1, x.2.filter (fun n => !ids.contains n) ++ named x.1)) }

/-- The listed code ranges of a record. -/
def rangesOfImage (bs : List Byte) : List (Nat × Nat) :=
  ((List.range 8).map (fun i => (fld bs (512 + 0x1480 + 16 * i) 8, fld bs (512 + 0x1480 + 16 * i + 8) 8))).filter (fun r => r.2 != 0)

/-- The block as its record and what was kept beside it give it, on a core. -/
def blockOfImage (v : Saved) (bs : List Byte) (dk ck now : Nat) (cancelled : Bool) (nums isls : List Nat) : Block :=
  let b := v.blk
  let r := b.lrec
  { b with core := ck, home := dk, start := now, cancel := cancelled, tiles := tilesOfImage r.tiles bs,
           slice := memWrite [] 0 ((bs.drop (scrOff r)).take (1024 * r.scratch)), ilocks := rangesOfImage bs, ilockedBytes := 0,
           bars := (List.range 16).map (fun i => (i, imgDword bs (512 + 8 * i))), gbar := imgDword bs (512 + 0x1500),
           warps := (b.warps.zip (List.range b.warps.length)).map (fun x =>
             rebatch (warpOfImage r.regs x.1 (bs.drop (warpOff r + x.2 * warpSize r)) (nums.getD x.2 0) (isls.getD x.2 0)) x.2
               (matEntries v bs)) }

/-- The warp index that a number names in a saved block. -/
def warpOfNumber (b : Block) (n : Nat) : Nat := (b.warps.findIdx? (fun w => w.number == n)).getD 0

/-- One saved block resumes on a core of domain `dk`: it is restored, its queue reloaded with its locks, its ranges locked again,
fatal entries are raised, and the record is released. R25 alone says whether a core takes it: lock entries beyond the table's free
places are owed, and commands beyond a Fixer's 32 places stand behind them (log 75). -/
def resumeBlock (s : State) (dk : Nat) (v : Saved) (ck : Nat) : State :=
  let r := v.blk.lrec
  let (bs, s1) := s.unitRead (devAddr (waferOf v.poolDk) v.recPa) (recSize r)
  let cancelled := match s1.grid? v.blk.gid with | some g => (g.arbors.get .zero dk).cancelled | none => false
  let nums := freeNumbers s1 ck r.warps
  let b := blockOfImage v bs dk ck s1.clock cancelled nums (slotsFor s1 ck r.warps)
  let s2 := admitBlock s1 b
  let s3 := s2.updCore ck (fun c =>
    { c.claim (v.locks.map (fun l => { l with warp := nums.getD (warpOfNumber v.blk l.warp) 0 })) with matq := c.matq ++ opsOfImage v bs })
  let s4 := s3.updBay (bkOfCk ck) (fun k => { k with fix := k.fix ++ v.engs.map (fun c => { c with core := ck, warpNo := nums.getD c.wi 0 }) })
  let s5 : State := { s4 with pends := s4.pends ++ v.pends }
  let s6 := relock s5 b.bid
  let s7 := (b.warps.zip (List.range b.warps.length)).foldl (fun (s : State) (x : Warp × Nat) =>
    (List.range 4).foldl (fun s i => match x.1.log[i]? with
      | some e => if e.state = .fatal then replayEntry s b.bid x.2 i else s
      | none => s) s) s6
  (freeRecord s7 v.poolDk v.recPa).updDomain dk (fun d => { d with saved := d.saved.filter (fun x => x.blk.bid != v.blk.bid) })

/-- The members of a saved gang at an Arbor, in member order. -/
def savedMembers (s : State) (dk key : Nat) : List Saved :=
  let vs := (s.domain dk).saved.filter (fun v => v.key == key)
  (List.range 8).flatMap (fun m => vs.filter (fun v => v.blk.member == m))

/-! ### The meanings -/

/-- BREAKPOINT_MATCH (R101): whether a path is about to issue at an armed breakpoint of its core. One on an instruction that an
`ordp` governs matches at the `ordp`. -/
def brkHit (s : State) (r : PathRef) : Bool :=
  match s.block? r.bid, s.warp? r.bid r.wi, s.slot? r with
  | some b, some w, some sl =>
    let pair := match pathBytes s b w sl.path.pc with | .ok bs => isOrdp bs | .error _ => false
    let here (a : DWord) : Bool := vaddr a / 2 == vaddr sl.path.pc / 2 || (pair && vaddr a / 2 == vaddr (sl.path.pc + 4) / 2)
    sl.live && !w.isFresh sl && sl.ordPfx.isNone && (s.core b.core).brks.any (fun e =>
      e.2.en && here e.2.addr && (e.2.secok || !b.world))
  | _, _, _ => false

def brkEff (s : State) (r : PathRef) : State :=
  match s.block? r.bid, s.warp? r.bid r.wi with
  | some b, some w => if brkHit s r && pathFree s b w r.slot then debugBreak s r else s
  | _, _ => s

/-- BREAKPOINT_MATCH (R101). -/
def execBreakpointMatch (s : State) : Host.Outcome State Fault Refusal :=
  event (fun a s => brkEff s { bid := a.k, wi := a.i, slot := a.j }) s
/-- PREEMPT (R66). -/
def execPreempt (s : State) : Host.Outcome State Fault Refusal := event (fun a s => haltBlock s a.k) s
/-- SAVE_RECORD_RESERVED (R66). -/
def execSaveRecordReserved (s : State) : Host.Outcome State Fault Refusal := event (fun a s => serveReq s a.k) s
/-- PREEMPT_SAVE (R66, R67). -/
def execPreemptSave (s : State) : Host.Outcome State Fault Refusal := event (fun a s => saveBlock s a.k) s

end Sys2Proof.Machine
end

