-- ==== Sys2Proof/Machine/Arbor.lean ====
section
/-!
DEFINITION. The Arbors (R31-R33, R200-R204, R206, R210, R211): units arriving, starting and resuming, priority pre-emption, offers to
Pergola, cancellation down the tree, the retirement of blocks (R47, R48) and the reports of counts.
-/

namespace Sys2Proof.Machine

/-! ### The queue (R32, R33) -/

/-- The order of R33: priority, then the order of arrival, then the index. -/
def UnitQ.before (a b : UnitQ) : Bool :=
  decide (b.prio < a.prio) || (a.prio == b.prio && (decide (a.arrival < b.arrival) || (a.arrival == b.arrival && decide (a.linear < b.linear))))

/-- A unit put into its place of an ordered list. -/
def insertUnit (u : UnitQ) : List UnitQ → List UnitQ
  | [] => [u]
  | x :: t => if u.before x then u :: x :: t else x :: insertUnit u t

/-- The waiting units in the order of R33. -/
def ordered (us : List UnitQ) : List UnitQ := us.foldl (fun l u => insertUnit u l) []

/-- How many blocks a unit has: a gang, or what is saved of it. -/
def unitSize (s : State) (dk : Nat) (u : UnitQ) : Nat :=
  match u.save with
  | some key => (savedMembers s dk key).length
  | none => match s.grid? u.gid with | some g => g.lrec.gang | none => 1

/-- The launch record of a unit, with the size it has now. -/
def unitRec (s : State) (dk : Nat) (u : UnitQ) : Option LaunchRec :=
  (s.grid? u.gid).map (fun g => { g.lrec with gang := unitSize s dk u })

/-- The cores on which a unit can start or resume now. -/
def unitCores (s : State) (dk : Nat) (u : UnitQ) : Option (List Nat) :=
  match unitRec s dk u with
  | none => none
  | some r => placeUnit s dk r

/-- Whether the set of pre-emptions of an Arbor is in progress. -/
def setOpen (d : Domain) : Bool := d.preempting != []

/-- The unit for which an Arbor pre-empts, while it waits. -/
def setHead (d : Domain) : Option UnitQ :=
  match d.preemptFor with
  | some (g, l) => d.units.find? (fun u => u.gid == g && u.linear == l)
  | none => none

/-- The scan of R32 and R33: the first unit that can start; a gang that cannot, and is the first of its priority, holds back later
units of equal or lower priority. `head` is the unit for which a set of pre-emptions is in progress. -/
def scan (s : State) (dk : Nat) (head : Option UnitQ) : List UnitQ → List Nat → List UnitQ → Option (UnitQ × List Nat)
  | [], _, _ => none
  | u :: t, prios, bars =>
    let held := (match head with | some h => decide (u.prio ≤ h.prio) | none => false) ||
      bars.any (fun g => decide (u.prio ≤ g.prio) && decide (g.arrival < u.arrival))
    match (if held then none else unitCores s dk u) with
    | some cs => some (u, cs)
    | none => scan s dk head t (u.prio :: prios)
        (if 1 < unitSize s dk u ∧ prios.contains u.prio = false then u :: bars else bars)

/-- The unit that an Arbor starts next. -/
def pickUnit (s : State) (dk : Nat) : Option (UnitQ × List Nat) :=
  let d := s.domain dk
  if d.hold then none
  else
    let first := if setOpen d then none else (setHead d).bind (fun u => (unitCores s dk u).map (fun cs => (u, cs)))
    match first with
    | some x => some x
    | none => scan s dk (if setOpen d then setHead d else none) (ordered d.units) [] []

/-- The queue without a unit. A set of pre-emptions made for it lasts until its saves have finished (R204). -/
def dropUnit (s : State) (dk : Nat) (u : UnitQ) : State :=
  s.updDomain dk (fun d =>
    { d with units := d.units.filter (fun x => x != u),
             preemptFor := if d.preemptFor == some (u.gid, u.linear) then none else d.preemptFor })

/-- A unit starts, or a saved one resumes, on the cores given. -/
def beginUnit (s : State) (dk : Nat) (u : UnitQ) (cs : List Nat) : State :=
  let s1 := dropUnit s dk u
  match u.save with
  | some key => publish s dk (((savedMembers s1 dk key).zip cs).foldl (fun s x => resumeBlock s dk x.1 x.2) s1)
  | none => match s1.grid? u.gid with
    | none => s1
    | some g =>
      let s2 := startUnit s1 g u.linear u.target u.arrival dk cs
      publish s dk (s2.updArbor u.gid dk (fun c => { c with started := c.started + g.lrec.gang }))

/-! ### Priority pre-emption (R204) -/

/-- The state without some blocks on their cores, for a test of room. -/
def withoutBlocks (s : State) (bs : List Block) : State := bs.foldl leaveCore s

/-- Blocks with the gangs they bring. -/
def withGangs (s : State) (bs : List Block) : List Block :=
  s.blocks.filter (fun b => b.live && bs.any (fun x => x.gangId == b.gangId))

/-- Whether a block goes before another as a victim: lower priority, then the more recent start. -/
def victimBefore (a b : Block) : Bool :=
  decide (a.lrec.prio < b.lrec.prio) || (a.lrec.prio == b.lrec.prio && decide (b.start < a.start))
def insertVictim (b : Block) : List Block → List Block
  | [] => [b]
  | x :: t => if victimBefore b x then b :: x :: t else x :: insertVictim b t

/-- Victims taken one by one until there is room. -/
def takeVictims (s : State) (room : State → Bool) : List Block → List Block → Option (List Block)
  | gone, cands =>
    match cands with
    | [] => if room (withoutBlocks s gone) then some gone else none
    | b :: t => if room (withoutBlocks s gone) then some gone else takeVictims s room (withGangs s (b :: gone)) t

/-- The victims that give room somewhere: of the blocks of priority at most `limit` there, the lowest first, and among equals the most
recently started (R204). -/
def victimsIn (s : State) (there : Nat → Bool) (room : State → Bool) (limit : Nat) : Option (List Block) :=
  takeVictims s room []
    ((s.blocks.filter (fun b => there b.core && b.live && decide (b.lrec.prio ≤ limit))).foldl (fun l b => insertVictim b l) [])

/-- The choice with fewest victims, the first of equals. -/
def fewest : List (List Block) → Option (List Block)
  | [] => none
  | x :: t => some (t.foldl (fun a b => if b.length < a.length then b else a) x)

/-- The victims for a block on a core. -/
def coreVictims (s : State) (ck limit : Nat) (r : LaunchRec) : Option (List Block) :=
  victimsIn s (fun k => k == ck || (r.pair && k == ck + 1)) (fun t => hasRoom t ck r) limit

/-- The victims for a gang on a bay: the cores of the bay that then have room are enough. -/
def bayVictims (s : State) (dk bay limit : Nat) (r : LaunchRec) : Option (List Block) :=
  let cks := ((slotsOf s dk).filter (fun sl => sl / 8 == bay)).map (mkCk dk)
  victimsIn s (fun k => cks.contains k) (fun t => decide (r.gang ≤ (cks.filter (fun ck => hasRoom t ck r)).length)) limit

/-- The victims for the head of a queue: the choice needing fewest, then the lowest slot or bay (R204). -/
def chooseVictims (s : State) (dk limit : Nat) (r : LaunchRec) : Option (List Block) :=
  if r.gang = 1 then fewest ((slotsOf s dk).filterMap (fun sl => coreVictims s (mkCk dk sl) limit r))
  else fewest ((List.range Config.bays).filterMap (fun b => bayVictims s dk b limit r))

/-- Pre-emption for the head of the queue, when it cannot start and no set is in progress, under HOLD as well (R102); without room in
the pools nothing is asked (R66). -/
def tryPreempt (s : State) (dk : Nat) : State :=
  let d := s.domain dk
  match ordered d.units with
  | [] => s
  | u :: _ =>
    let gap := (s.wafer (waferOf dk)).preemptgap
    if setOpen d || decide (u.prio < gap) || (unitCores s dk u).isSome then s
    else match unitRec s dk u with
      | none => s
      | some r => match chooseVictims s dk (u.prio - gap) r with
        | none | some [] => s
        | some (b :: t) =>
          match reserveAll ((b :: t).filter (fun b => b.saveRec.isNone)) s with
          | none => s
          | some s1 => (markAsk s1 (b :: t) 0x80).updDomain dk (fun d =>
              { d with preempting := (b :: t).map (·.bid), preemptFor := some (u.gid, u.linear) })

/-! ### Arrival (R203, R206, R210) -/

/-- A unit has reached its Arbor: counted, discarded when its grid is cancelled there, else queued. -/
def enqueueUnit (s : State) (dk gid linear target : Nat) (save : Option Nat) : Option UnitQ × State :=
  match s.grid? gid with
  | none => (none, s)
  | some g =>
    let vs := match save with | some key => savedMembers s dk key | none => []
    let n := if save.isSome then vs.length else g.lrec.gang
    let s1 := s.updArbor gid dk (fun c =>
      { c with dealt := c.dealt + n, started := if save.isSome then c.started + n else c.started, reported := false })
    if (g.arbors.get .zero dk).cancelled then
      (none, if save.isSome then vs.foldl (fun s v => dropSaved s dk v (fun c => { c with discarded := c.discarded + 1 })) s1
        else s1.updArbor gid dk (fun c => { c with discarded := c.discarded + n }))
    else
      let a := (s1.domain dk).arrivals
      let hinted := vs.any (fun v => v.blk.hint.isSome)
      let u : UnitQ := { gid := gid, linear := linear, target := target, save := save, arrival := a,
                         offerAt := if hinted then s.clock else s.clock + 4096, offered := false, prio := g.lrec.prio }
      (some u, s1.updDomain dk (fun d =>
        { d with arrivals := a + 1, units := d.units ++ [u],
                 saved := d.saved.map (fun v => if some v.key = save then { v with blk := { v.blk with arrival := a } } else v) }))

/-- Whether a message is a CANCEL that its grid's parent dispatcher sent down, not a request on its way to the root. -/
def cancelDown (s : State) (lvl key : Nat) (m : Msg) : Bool :=
  match m.body with
  | .cancel gid l k => l == lvl && k == key && (match s.grid? gid with | some g => !(g.rootLvl == lvl && g.rootKey == key) | none => true)
  | _ => false

/-- The next unit for an Arbor: the oldest on its way, unless a CANCEL that Pergola sent before it is still to arrive (R200); else the
next of a grid that the Arbor deals itself. -/
def arrivalNext (s : State) (dk : Nat) : Option (Nat × Nat × Nat × Option Nat × State) :=
  match s.msgs.find? (fun m => (match m.body with | .unit _ _ _ k _ => k == dk | _ => false) &&
      !s.msgs.any (fun x => decide (x.id < m.id) && cancelDown s 0 dk x)) with
  | some m =>
    (match m.body with
      | .unit gid i target _ save =>
        let q := match s.grid? gid with
          | some g => (if g.lrec.pair then 2 else 1) * (match save with | some key => (savedMembers s dk key).length | none => g.lrec.gang)
          | none => 0
        some (gid, i, target, save, (s.dropMsg m.id).send (.ack dk q))
      | _ => none)
  | none =>
    match dealHead s (s.domain dk).deal with
    | none => none
    | some x =>
      let s1 := if x.hi ≤ x.next + 1 then endDeal s 0 dk x.gid else setDeal s 0 dk { x with next := x.next + 1 }
      some (x.gid, x.next, domOf dk, none, s1)

/-- ARBOR_UNIT_ARRIVAL: the unit starts on cores with room or is queued, and a head that cannot start may pre-empt. -/
def unitArrives (s : State) (dk : Nat) : State :=
  match arrivalNext s dk with
  | none => s
  | some (gid, i, target, save, s1) =>
    match enqueueUnit s1 dk gid i target save with
    | (none, s2) => s2
    | (some u, s2) => match pickUnit s2 dk with
      | some (x, cs) => if x = u then beginUnit s2 dk u cs else s2
      | none => tryPreempt s2 dk

/-- BLOCK_START and BLOCK_RESUME: the unit picked begins, if it is of the kind asked for; with none to start, the head may
pre-empt. -/
def startPicked (s : State) (dk : Nat) (saved : Bool) : State :=
  match pickUnit s dk with
  | some (u, cs) => if u.save.isSome = saved then beginUnit s dk u cs else s
  | none => if saved then s else tryPreempt s dk

/-! ### Offers (R45, R203, R436) -/

/-- The head of an Arbor's queue when its offer is due and the domain has no room for it. -/
def offerDue (s : State) (dk : Nat) : Option UnitQ :=
  match ordered (s.domain dk).units with
  | [] => none
  | u :: _ =>
    if !u.offered && decide (u.offerAt ≤ s.clock) && (unitCores s dk u).isNone &&
        (match s.grid? u.gid with | some g => g.lrec.scope != 0 | none => false)
    then some u else none

/-- ARBOR_OFFER: the head is offered to Pergola. -/
def arborOffer (s : State) (dk : Nat) : State :=
  match offerDue s dk with
  | none => s
  | some u => (s.updDomain dk (fun d => { d with units := d.units.map (fun x => if x = u then { u with offered := true } else x) })).send
      (.offer u.gid u.linear u.target dk u.save)

/-- The target of an offered unit: the domain its hint names, else its own (R436). -/
def offerTarget (s : State) (dk : Nat) (u : UnitQ) : Nat :=
  match u.save with
  | some key => (((savedMembers s dk key).filterMap (fun v => v.blk.hint)).head?).getD u.target
  | none => u.target

/-- A unit leaves its Arbor with its counts (R203, R206). -/
def takeBack (s : State) (dk w : Nat) (u : UnitQ) (target d q : Nat) : State :=
  let n := unitSize s dk u
  let to_ := mkDk w d
  let vs := match u.save with | some key => savedMembers s dk key | none => []
  let s1 := (dropUnit s dk u).updArbor u.gid dk (fun c =>
    { c with dealt := c.dealt - n, started := if u.save.isSome then c.started - n else c.started, reported := false })
  let s2 := s1.updDomain dk (fun x => { x with saved := x.saved.filter (fun v => some v.key != u.save) })
  let s3 := s2.updDomain to_ (fun x => { x with saved := x.saved ++ vs.map (fun v => { v with blk := { v.blk with home := to_, target := target } }) })
  sendUnit s3 w u.gid u.linear target d q u.save

/-- PERGOLA_OFFER: the oldest offer on a wafer is taken or declined; a unit started meanwhile is left alone. -/
def pergolaOffer (s : State) (w : Nat) : State :=
  match s.msgs.find? (fun m => match m.body with | .offer _ _ _ dk _ => waferOf dk == w | _ => false) with
  | none => s
  | some m =>
    match m.body with
    | .offer gid linear _ dk save =>
      let s1 := s.dropMsg m.id
      (match (s1.domain dk).units.find? (fun u => u.gid == gid && u.linear == linear && u.save == save && u.offered), s1.grid? gid with
        | some u, some g =>
          let q := (if g.lrec.pair then 2 else 1) * unitSize s1 dk u
          let target := offerTarget s1 dk u
          let stop := (g.pergolas.get .zero w).cancelled
          (match (if stop then none else destOf s1 w target q (some (domOf dk))) with
            | some d => takeBack s1 dk w u target d q
            | none => s1.updDomain dk (fun d => { d with units := d.units.map (fun x =>
                if x = u then { u with offered := false, offerAt := s1.clock + 4096 } else x) }))
        | _, _ => s1)
    | _ => s

/-! ### Retirement (R47) -/

/-- Whether an ended block has drained: loads, stores, matrix operations, engine commands and held memory effects are complete. -/
def retireDue (s : State) (b : Block) : Bool :=
  b.phase == .ending && !s.reqs.any (fun r => r.bid == b.bid || r.pieces.any (fun p => p.bid == b.bid)) &&
  !storesHeld s b.core b.bid && !(s.core b.core).matq.any (fun m => m.bid == b.bid) &&
  !(s.bay (bkOfCk b.core)).enl.any (fun c => c.bid == b.bid) && !(s.bay (bkOfCk b.core)).fix.any (fun c => c.bid == b.bid) &&
  !b.warps.any (fun w => w.log.any (fun e => e.state != .free && (e.memfx || e.kind == 4))) &&
  !s.unitOps.any (fun u => u.bid == b.bid && decide (6 ≤ u.what)) && (b.killed || b.warps.all (fun w => w.deferred.isEmpty))

/-- A grid's R copies on a domain go with its last block there (R145). -/
def dropReplicas (s : State) (dk gid : Nat) : State :=
  if s.blocks.any (fun b => b.gid == gid && dkOfCk b.core == dk) then s
  else s.updDomain dk (fun d => { d with visit := d.visit.filter (fun v => !(v.state == .r && v.gid == gid)) })

/-- BLOCK_RETIRE: everything the block holds is released at once, and its retirement is counted at its Arbor. -/
def retireBlock (s : State) (bid : Nat) : State :=
  match s.block? bid with
  | none => s
  | some b =>
    if retireDue s b then
      let s1 := leaveCore (dropRecord s b) b
      let s2 := s1.updArbor b.gid b.home (fun c => { c with retired := c.retired + 1 })
      publish s (dkOfCk b.core) (requeue (dropReplicas s2 (dkOfCk b.core) b.gid) b.home b.gangId)
    else s

/-! ### Cancellation (R69, R210, R211) -/

/-- Whether an Arbor has begun a unit of a grid in this cycle: a CANCEL not taken before it arrives in a later one, for one that reaches
the decision in the same cycle goes first (R211). -/
def begunNow (s : State) (lvl key gid : Nat) : Bool :=
  lvl == 0 && s.blocks.any (fun b => b.gid == gid && b.home == key && b.start == s.clock)

/-- The oldest CANCEL for a dispatcher that can arrive: what its parent sends down a hop arrives in the order sent (R200). -/
def cancelNext (s : State) (lvl key : Nat) : Option (Nat × Nat) :=
  (s.msgs.find? (fun m => match m.body with
    | .cancel gid l k => l == lvl && k == key && !begunNow s lvl key gid &&
        !(cancelDown s lvl key m && s.msgs.any (fun x => decide (x.id < m.id) && (cancelDown s lvl key x || (match x.body with
          | .unit _ _ _ dk _ => lvl == 0 && dk == key | _ => false))))
    | _ => false)).bind (fun m => match m.body with | .cancel gid _ _ => some (m.id, gid) | _ => none)

/-- Units that a dispatcher has not dealt of a grid. -/
def undealt (s : State) (lvl key gid : Nat) (scope : Nat) : Nat :=
  match (dealsOf s lvl key).find? (fun d => d.gid == gid) with
  | none => 0
  | some d => if lvl = 1 ∧ scope = 2 then d.extra.length else d.hi - d.next

/-- CANCEL forwarded to the children that a dispatcher has dealt to. -/
def forwardCancel (s : State) (lvl key : Nat) (g : Grid) : State :=
  if lvl = 2 then (g.pergolas.filter (fun e => e.2.dealt != 0)).foldl (fun s e => s.send (.cancel g.gid 1 e.1)) s
  else ((domainsOf key).filter (fun dk => (Tab.get? dk g.arbors).isSome || s.msgs.any (fun m => match m.body with
      | .unit gid _ _ k _ => gid == g.gid && k == dk | _ => false))).foldl (fun s dk => s.send (.cancel g.gid 0 dk)) s

/-- CANCEL at a resident block: GRIDCANCEL is set, a sleep ends, a `waitv` ends with what it has read; with KILL_ON_CANCEL the block
and its gang end. -/
def cancelBlock (s : State) (b : Block) : State :=
  let s1 := s.updBlock b.bid (fun b =>
    { b with cancel := true, warps := b.warps.map (fun w => { w with slots := w.slots.map (fun sl =>
        match sl.wait with | .sleep _ => { sl with wait := .ready } | _ => sl) }) })
  if b.lrec.kill then (if (s1.block? b.bid).any (fun x => x.phase != .ending) then terminateGang s1 b.gangId else s1)
  else (s1.pends.filter (fun p => p.bid == b.bid && (match p.kind with | .waitv _ _ => true | _ => false))).foldl
    (fun s p => waitvTry s p.tag) s1

/-- CANCEL at an Arbor. -/
def cancelArbor (s : State) (dk : Nat) (g : Grid) : State :=
  let left := undealt s 0 dk g.gid g.lrec.scope * g.lrec.gang
  let s1 := endDeal s 0 dk g.gid
  let never := (s1.domain dk).units.filter (fun u => u.gid == g.gid && u.save.isNone)
  let s2 := s1.updArbor g.gid dk (fun c =>
    { c with cancelled := true, dealt := c.dealt + left, discarded := c.discarded + left + never.length * g.lrec.gang })
  let s3 := s2.updDomain dk (fun d => { d with units := d.units.filter (fun u => !(u.gid == g.gid && u.save.isNone)) })
  let lying := (s3.domain dk).saved.filter (fun v => v.blk.gid == g.gid &&
    !s3.msgs.any (fun m => match m.body with | .unit _ _ _ k (some key) => k == dk && key == v.key | _ => false))
  let s4 := lying.foldl (fun s v => dropSaved s dk v (fun c => { c with discarded := c.discarded + 1 })) s3
  let s5 := s4.updDomain dk (fun d => { d with units := d.units.filter (fun u => match u.save with
    | some key => d.saved.any (fun v => v.key == key) | none => true) })
  (s5.blocks.filter (fun b => b.gid == g.gid && b.home == dk)).foldl (fun s b => cancelBlock s b) s5

/-- CANCEL: the oldest one for a dispatcher arrives; a second one, or one for a grid that has completed, does nothing. -/
def cancelArrive (s : State) (lvl key : Nat) : State :=
  match cancelNext s lvl key with
  | none => s
  | some (id, gid) =>
    let s1 := s.dropMsg id
    match s1.grid? gid with
    | none => s1
    | some g =>
      let root := g.rootLvl == lvl && g.rootKey == key
      if root && g.cancelled then s1
      else
        let s2 := if root then s1.updGrid gid (fun g => { g with cancelled := true }) else s1
        if lvl = 0 then cancelArbor s2 key g
        else
          let left := undealt s2 lvl key gid g.lrec.scope * g.lrec.gang
          let s3 := endDeal s2 lvl key gid
          let s4 := if lvl = 1 then s3.updPergola gid key (fun c => { c with cancelled := true, discarded := c.discarded + left })
            else closePergolas (s3.updGrid gid (fun g => { g with pavilion := { g.pavilion with cancelled := true, discarded := g.pavilion.discarded + left } })) gid
          forwardCancel s4 lvl key g

/-! ### Counts (R206-R208) -/

/-- Whether no further unit can reach a wafer's Pergola, or an Arbor, by dealing. -/
def dealtOut (s : State) (g : Grid) (w : Nat) : Bool :=
  !(s.wafer w).pergDeal.any (fun d => d.gid == g.gid) &&
  (g.rootLvl != 2 || !(s.wafer g.rootKey).pavDeal.any (fun d => d.gid == g.gid))

/-- Whether an Arbor's counts of a grid are due upward. -/
def arborReportDue (s : State) (dk : Nat) (g : Grid) : Bool :=
  match Tab.get? dk g.arbors with
  | none => false
  | some c => !c.reported && c.retired + c.discarded == c.dealt && !(s.domain dk).deal.any (fun d => d.gid == g.gid) &&
      dealtOut s g (waferOf dk) &&
      !s.msgs.any (fun m => match m.body with | .unit gid _ _ k _ => gid == g.gid && k == dk | _ => false)

/-- Blocks that a wafer's Arbors have reported, with those its Pergola discarded. -/
def waferSum (g : Grid) (w : Nat) : Nat :=
  ((g.arbors.filter (fun e => waferOf e.1 == w && e.2.reported)).foldl (fun n e => n + e.2.retired + e.2.discarded) 0) +
    (g.pergolas.get .zero w).discarded

/-- Whether a Pergola's counts of a pod grid are due: its sum is what it was dealt. -/
def pergolaReportDue (s : State) (w : Nat) (g : Grid) : Bool :=
  g.rootLvl == 2 && (match Tab.get? w g.pergolas with
    | none => false
    | some c => !c.reported && dealtOut s g w && waferSum g w == c.dealt)

/-- The blocks that a grid's root knows to be retired or discarded. -/
def rootSum (g : Grid) : Nat :=
  match g.rootLvl with
  | 0 => let c := g.arbors.get .zero g.rootKey; if c.reported then c.retired + c.discarded else 0
  | 1 => waferSum g g.rootKey
  | _ => ((g.pergolas.filter (fun e => e.2.reported)).foldl (fun n e => n + waferSum g e.1) 0) + g.pavilion.discarded

/-- Whether the writes of a root's records have begun and wait for no reply: one met a page that its owner held, and goes on when the
owner has done (R128, R152, R207). -/
def writesOpen (g : Grid) : Bool := g.compPart != 0 && g.compToken.isNone

/-- The grid retires when the root's sum is its number of blocks: the records are written (R207). -/
def rootCheck (s : State) (gid : Nat) : State :=
  match s.grid? gid with
  | some g => if writesOpen g ∨ (g.compPart = 0 ∧ rootSum g = g.lrec.blocks) then complete s gid else s
  | none => s

/-- A grid all of whose blocks the root itself discarded has no report to wait for. -/
def rootDue (s : State) (lvl key : Nat) (g : Grid) : Bool :=
  g.rootLvl == lvl && g.rootKey == key &&
  (writesOpen g || (g.compPart == 0 && !g.rejected && rootSum g == g.lrec.blocks && !(dealsOf s lvl key).any (fun d => d.gid == g.gid)))

/-- COUNT_REPORT: the first grid whose counts are due at a dispatcher reports to its parent; at the root the grid completes. -/
def countReport (s : State) (lvl key : Nat) : State :=
  match s.grids.find? (fun g => (lvl == 0 && arborReportDue s key g) || (lvl == 1 && pergolaReportDue s key g) || rootDue s lvl key g) with
  | none => s
  | some g =>
    if lvl = 0 ∧ arborReportDue s key g = true then
      let c := g.arbors.get .zero key
      let s1 := s.updArbor g.gid key (fun c => { c with reported := true })
      let s2 := if g.rootLvl = 0 then s1 else s1.updPergola g.gid (waferOf key) (fun p => { p with first := p.first.orElse (fun _ => c.first) })
      rootCheck s2 g.gid
    else if lvl = 1 ∧ pergolaReportDue s key g = true then
      let c := g.pergolas.get .zero key
      let s1 := s.updPergola g.gid key (fun c => { c with reported := true })
      rootCheck (s1.updGrid g.gid (fun g => { g with pavilion := { g.pavilion with first := g.pavilion.first.orElse (fun _ => c.first) } })) g.gid
    else rootCheck s g.gid

/-! ### The meanings -/

/-- ARBOR_UNIT_ARRIVAL (R203, R204). -/
def execArborUnitArrival (s : State) : Host.Outcome State Fault Refusal := event (fun a s => unitArrives s a.k) s
/-- BLOCK_START (R32, R33, R204). -/
def execBlockStart (s : State) : Host.Outcome State Fault Refusal := event (fun a s => startPicked s a.k false) s
/-- BLOCK_RESUME (R45, R68). -/
def execBlockResume (s : State) : Host.Outcome State Fault Refusal := event (fun a s => startPicked s a.k true) s
/-- ARBOR_OFFER (R203, R45). -/
def execArborOffer (s : State) : Host.Outcome State Fault Refusal := event (fun a s => arborOffer s a.k) s
/-- PERGOLA_OFFER (R203). -/
def execPergolaOffer (s : State) : Host.Outcome State Fault Refusal := event (fun a s => pergolaOffer s a.k) s
/-- BLOCK_RETIRE (R47). -/
def execBlockRetire (s : State) : Host.Outcome State Fault Refusal := event (fun a s => retireBlock s a.k) s
/-- CANCEL (R210, R211). -/
def execCancel (s : State) : Host.Outcome State Fault Refusal := event (fun a s => cancelArrive s a.k a.i) s
/-- COUNT_REPORT (R206, R207). -/
def execCountReport (s : State) : Host.Outcome State Fault Refusal := event (fun a s => countReport s a.k a.i) s

end Sys2Proof.Machine
end

