-- ==== Sys2Proof/Machine/Lodge.lean ====
section
/-!
DEFINITION. Host queues and the Lodges that serve them (R234-R241): queue records and their replicas, QCMD, NOTIFY, the active slots, and
the ring entries. A queue is named by its wafer and number: 1,024 w + q.
-/

namespace Sys2Proof.Machine

/-! ### Queues and their owners (R109, R234) -/

/-- The domains that carry host ports (R17). -/
def hostDomains : List Nat := [0, 7, 48, 55]
/-- The owner of a queue of wafer `w`. -/
def queueDk (w q : Nat) : Nat := mkDk w (hostDomains.getD (q / 256 % 4) 0)
/-- The port of a domain. -/
def portOf (dk : Nat) : Option Nat := hostDomains.findIdx? (· == domOf dk)
/-- Whether a domain's queue controls answer: a host-port domain that is up (R235, R493). -/
def queuesOn (s : State) (dk : Nat) : Bool := (portOf dk).isSome && (s.domain dk).up

/-- The address of a queue's record in its table. -/
def qrecAddr (s : State) (dk q : Nat) : Nat := devAddr (waferOf dk) ((s.domain dk).qtab.toNat + 128 * (q % 256))

/-- A queue that no LOAD has filled. -/
def HostQ.init : HostQ :=
  { ring := 0, log := 0, enabled := false, privileged := false, world := false, err := false, priocap := 0, errcode := 0, version := 0,
    cons := 0, prod := 0, consaddr := 0, mapped := false, idleSince := 0, served := 0, waiting := false, launchTok := none,
    entryDone := false, grids := [], pendingOp := none, token := none, polled := 0 }

def State.hostq (s : State) (dk q : Nat) : HostQ := (s.domain dk).queues.get .init q

/-- The FLAGS byte. -/
def HostQ.flags (x : HostQ) : Nat :=
  (if x.enabled then 1 else 0) + (if x.privileged then 2 else 0) + (if x.world then 4 else 0) + (if x.err then 8 else 0)

/-- The fields of the record that the device writes, as far as they have changed (R234). -/
def noteRecord (s : State) (dk q : Nat) (a b : HostQ) : State :=
  let base := qrecAddr s dk q
  let put (old new : Nat) (off n : Nat) (s : State) : State := if old = new then s else s.unitWrite (base + off) (bytesOfNat n new)
  put a.prod.toNat b.prod.toNat 0x14 4 (put a.cons.toNat b.cons.toNat 0x10 4 (put a.version.toNat b.version.toNat 0x0C 4
    (put a.errcode b.errcode 0x0B 1 (put a.flags b.flags 0x09 1 s))))

/-- A queue's record changed at its owner and in its table. -/
def State.updQueue (s : State) (dk q : Nat) (f : HostQ → HostQ) : State :=
  let a := s.hostq dk q
  let b := f a
  (noteRecord s dk q a b).updDomain dk (fun d => { d with queues := d.queues.set q b })

/-! ### Active slots (R239) -/

def HostQ.hasWork (x : HostQ) : Bool := x.cons != x.prod
/-- An entry is on its way, or has had its effect. -/
def HostQ.inEntry (x : HostQ) : Bool := x.launchTok.isSome || x.entryDone || x.token.isSome

/-- Whether a mapped queue is idle. -/
def queueIdle (d : Domain) (x : HostQ) : Bool :=
  x.mapped && !x.inEntry && (!x.hasWork || x.waiting || (decide (64 ≤ x.served) && d.qpending != []))

/-- The idle queue whose last entry boundary is the oldest. -/
def oldestIdle (d : Domain) : Option Nat :=
  (d.queues.filter (fun (e : Nat × HostQ) => queueIdle d e.2)).foldl (fun (m : Option (Nat × Nat)) (e : Nat × HostQ) => match m with
    | none => some (e.1, e.2.idleSince)
    | some (q, t) => if e.2.idleSince < t then some (e.1, e.2.idleSince) else some (q, t)) none |>.map (·.1)

def mappedCount (d : Domain) : Nat := (d.queues.filter (fun (e : Nat × HostQ) => e.2.mapped)).length

/-- A queue's slot is given up; with work left the queue joins the pending list. -/
def evict (s : State) (dk q : Nat) : State :=
  let x := s.hostq dk q
  (s.updQueue dk q (fun x => { x with mapped := false, waiting := false })).updDomain dk (fun d =>
    if x.hasWork && !d.qpending.contains q then { d with qpending := d.qpending ++ [q] } else d)

/-- A queue takes a free slot, or the slot of the oldest idle queue; none if there is neither. -/
def takeSlot (s : State) (dk q : Nat) : Option State :=
  let go (s : State) : State := s.updQueue dk q (fun x => { x with mapped := true, served := 0, waiting := false })
  if mappedCount (s.domain dk) < 32 then some (go s)
  else (oldestIdle (s.domain dk)).map (fun o => go (evict s dk o))

/-- The heads of the pending list are mapped while slots are free or idle. -/
def serveMaps : Nat → State → Nat → State
  | 0, s, _ => s
  | n + 1, s, dk =>
    match (s.domain dk).qpending with
    | [] => s
    | q :: _ => match takeSlot s dk q with
      | some s1 => serveMaps n (s1.updDomain dk (fun d => { d with qpending := d.qpending.erase q })) dk
      | none => s

def settleMaps (s : State) (dk : Nat) : State := serveMaps (s.domain dk).qpending.length s dk

/-- QUEUE_MAP: a queue with work and no slot takes one, or joins the pending list; behind others on the list it waits its turn. -/
def mapQueue (s : State) (dk q : Nat) : State :=
  match (if (s.domain dk).qpending = [] then takeSlot s dk q else none) with
  | some s1 => s1
  | none => settleMaps (s.updDomain dk (fun d => if d.qpending.contains q then d else { d with qpending := d.qpending ++ [q] })) dk

/-! ### QCMD (R235, R236) -/

/-- Whether a record is one that LOAD refuses. -/
def badRecord (bs : List Byte) : Bool :=
  let b (off : Nat) : Nat := fld bs off 1
  decide (b 8 < 4) || decide (16 < b 8) || fld bs 0 8 % 256 != 0 || decide (16 ≤ b 9) || decide (64 ≤ b 10) ||
  (bs.drop 0x20).any (· != 0)

/-- The queue as LOAD leaves it. -/
def loaded (x : HostQ) (bs : List Byte) (clock : Nat) : HostQ :=
  let bad := badRecord bs
  let fl := fld bs 9 1
  { x with ring := BitVec.ofNat 64 (fld bs 0 8), log := fld bs 8 1 % 32, enabled := fl.testBit 0, privileged := fl.testBit 1,
           world := fl.testBit 2, err := bad, errcode := if bad then 10 else 0, priocap := fld bs 10 1 % 64,
           version := BitVec.ofNat 32 (fld bs 12 4 + 1), cons := BitVec.ofNat 32 (fld bs 16 4), prod := BitVec.ofNat 32 (fld bs 16 4),
           consaddr := BitVec.ofNat 64 (fld bs 24 8), idleSince := clock }

/-- What the record held before LOAD wrote it, so that each field the device owns is written when it differs. -/
def asRead (x : HostQ) (bs : List Byte) : HostQ :=
  let fl := fld bs 9 1
  { x with enabled := fl.testBit 0, privileged := fl.testBit 1, world := fl.testBit 2, err := fl.testBit 3, errcode := fld bs 11 1,
           version := BitVec.ofNat 32 (fld bs 12 4), cons := BitVec.ofNat 32 (fld bs 16 4), prod := BitVec.ofNat 32 (fld bs 20 4) }

/-- The invalidation of a record's replicas, broadcast to the Lodge of every domain that is up (R236). -/
def upDomains (s : State) (dk : Nat) : List Nat := (domainsOf (waferOf dk)).filter (fun k => (s.domain k).up)
def tellReplicas (s : State) (dk q : Nat) (version : Word) : State :=
  (upDomains s dk).foldl (fun s k => s.send (.qinval q k version)) s

/-- A QCMD takes effect: the record changes, the slot is given up, and the invalidation is broadcast to every domain that is
up. -/
def applyQcmd (s : State) (dk q op : Nat) : State :=
  let (bs, s1) := s.unitRead (qrecAddr s dk q) 128
  let x0 := { s1.hostq dk q with mapped := false, waiting := false, served := 0, launchTok := none, entryDone := false, token := none,
                                 pendingOp := none }
  let x1 := if op = 0 then loaded x0 bs s1.clock else { x0 with enabled := false, version := x0.version + 1 }
  let s2 := (noteRecord s1 dk q (if op = 0 then asRead x0 bs else s1.hostq dk q) x1).updDomain dk (fun d =>
    { d with queues := d.queues.set q x1, qpending := d.qpending.filter (· != q) })
  let ups := upDomains s2 dk
  settleMaps ((tellReplicas s2 dk q x1.version).updDomain dk (fun d => { d with qbusy := if ups = [] then none else some (q, op, ups) })) dk

/-- A QCMD that waited for an entry boundary takes effect, once the queue stands at one (R235). -/
def settleQcmd (s : State) (dk q : Nat) : State :=
  let x := s.hostq dk q
  match x.pendingOp with
  | some op => if x.inEntry then s else applyQcmd s dk q op
  | none => s

/-- QUEUE_ERROR: ERR and ERRCODE, CONS left at the entry, the slot released; a launch on its way ends first (R241). The replicas are told
of the change, whose VERSION is unchanged (R236). -/
def queueError (s : State) (dk q code : Nat) : State :=
  let s1 := s.updQueue dk q (fun x =>
    { x with err := true, errcode := code, waiting := false, token := none, mapped := x.mapped && x.inEntry && x.token.isNone })
  let s2 := tellReplicas (s1.updDomain dk (fun d => { d with qpending := d.qpending.filter (· != q) })) dk q (s1.hostq dk q).version
  settleQcmd (settleMaps s2 dk) dk q

/-- A LAUNCH that its root has answered with no room: the root holds 1,024 grids (R199). -/
def launchHeld (s : State) (x : HostQ) : Bool :=
  match x.launchTok with
  | none => false
  | some t => match s.launches.find? (fun l => l.tok == t) with
    | none => false
    | some l =>
      let root := rootOf s l (parseLaunch l.bytes)
      s.msgs.any (fun m => m.body == .launch t) && decide (1024 ≤ (dealsOf s root.1 root.2).length)

/-- The launch on its way is taken back. -/
def takeBackLaunch (s : State) (x : HostQ) : State :=
  match x.launchTok with
  | none => s
  | some t => { s with launches := s.launches.filter (fun l => l.tok != t), msgs := s.msgs.filter (fun m => m.body != .launch t) }

/-- QCMD_LOAD and QCMD_DISABLE: at an entry boundary at once, else at the next one. -/
def qcmd (s : State) (dk i op : Nat) : State :=
  match portOf dk with
  | none => s
  | some p =>
    let q := 256 * p + i % 256
    if queuesOn s dk = false ∨ (s.domain dk).qbusy.isSome then s
    else
      let x := s.hostq dk q
      if launchHeld s x then applyQcmd (takeBackLaunch s x) dk q op
      else if x.inEntry then
        (s.updQueue dk q (fun x => { x with pendingOp := some op })).updDomain dk (fun d => { d with qbusy := some (q, op, []) })
      else applyQcmd s dk q op

/-- Bytes 0x00 to 0x0F of a record, as a replica holds them (R236). -/
def HostQ.replica (x : HostQ) : Replica :=
  { ring := x.ring, log := x.log, enabled := x.enabled, privileged := x.privileged, world := x.world, err := x.err, priocap := x.priocap,
    errcode := x.errcode, version := x.version, stale := false }

/-- A Lodge's replica of a record. -/
def Domain.replica (d : Domain) (q : Nat) : Replica := (d.replicas.get? q).getD HostQ.init.replica

/-- The replicas that a Lodge fetches from the owners when its domain comes up (R236). -/
def fetchReplicas (s : State) (w : Nat) : Tab Replica :=
  hostDomains.flatMap (fun d => (s.domain (mkDk w d)).queues.map (fun e => (e.1, e.2.replica)))

/-- QUEUE_INVALIDATION: the oldest invalidation on its way to a Lodge makes its replica stale, and is acknowledged. -/
def qinvalArrive (s : State) (k : Nat) : State :=
  match s.msgs.find? (fun m => match m.body with | .qinval _ d _ => d == k | _ => false) with
  | none => s
  | some m =>
    match m.body with
    | .qinval q _ v =>
      let owner := queueDk (waferOf k) q
      let s1 := (s.dropMsg m.id).updDomain k (fun d =>
        if (d.replica q).version = v then d else { d with replicas := d.replicas.set q { d.replica q with stale := true } })
      s1.updDomain owner (fun d => match d.qbusy with
        | some (p, op, ks) =>
          if p = q ∧ (s.hostq owner q).version = v then { d with qbusy := if ks.filter (· != k) = [] then none else some (p, op, ks.filter (· != k)) } else d
        | none => d)
    | _ => s

/-! ### NOTIFY (R109, R238) -/

/-- A Lodge's replica of a record before its use; a stale one is fetched from the owner. -/
def replicaOf (s : State) (k q : Nat) : Replica × State :=
  if ((s.domain k).replica q).stale then
    let r := (s.hostq (queueDk (waferOf k) q) q).replica
    (r, s.updDomain k (fun d => { d with replicas := d.replicas.set q r }))
  else ((s.domain k).replica q, s)

/-- NOTIFY: the check where the write enters, the owner's decision, and the mapping; the second part says that device code receives
WORLD. -/
def notify (s : State) (k q : Nat) (v : Word) (secure : Bool) : State × Bool :=
  let owner := queueDk (waferOf k) q
  if 1024 ≤ q ∨ (s.domain k).up = false ∨ (s.domain owner).up = false then (s, false)
  else
    let (r, s1) := replicaOf s k q
    if r.enabled = false then (s1, false)
    else if r.world && !secure then (s1, true)
    else
      let x := s1.hostq owner q
      if x.enabled = false ∨ x.err ∨ (x.world && !secure) then (s1, x.enabled && x.world && !secure)
      else
        let s2 := s1.updQueue owner q (fun x => { x with prod := v })
        if 2 ^ x.log < (v - x.cons).toNat then (queueError s2 owner q 7, false)
        else if v ≠ x.cons ∧ x.mapped = false then (mapQueue s2 owner q, false)
        else (settleMaps s2 owner, false)

/-! ### Accesses of a Lodge (R240, R241) -/

/-- What an access of a queue meets: a wait, a translation fault for the pager, or an error of the queue. -/
inductive QAns where
  | wait
  | log (code : BitVec 8) (va : DWord)
  | err (n : Nat)
  deriving DecidableEq, Repr

/-- The bytes from an address that lie in one page of 64 KiB, placed for a queue. -/
def queuePlace (s : State) (dk : Nat) (x : HostQ) (va : DWord) (n : Nat) (acc : Access) : Except QAns Nat × State :=
  let w := waferOf dk
  let (o, off) := translator w va
  if ownerBad va ∨ ownerOf va = 62 ∨ (apertureOff va).isSome then (.error (.err 3), s)
  else if heldAtOwner s o off then (.error .wait, s)
  else match translate s w va acc x.privileged x.world with
    | (.error c, s1) =>
      (.error (if c = codeNoPage ∨ c = codePerm then .log c va else if c = codeWorld then .err 6 else .err 8), s1)
    | (.ok p, s1) =>
      if p.attr.cls = 1 then (.error (.err 5), s1)
      else if p.host then (.ok p.addr, s1)
      else if frameSecure s1 p.addr ≠ x.world then (.error (.err 6), s1)
      else if acc = .read ∧ s1.poisoned p.addr n then (.error (.err 9), s1)
      else if lockHoldsRun s1 p.addr n acc.writes then (.error .wait, s1)
      else if winNeeds s1 p.addr n acc.writes ≠ [] then
        (.error .wait, addSnoops s1 (p.addr / 2 ^ 52 % 16) (winNeeds s1 p.addr n acc.writes) acc.writes)
      else (.ok p.addr, s1)

/-- A run read for a queue, page by page. -/
def queueRead (s : State) (dk : Nat) (x : HostQ) (va : DWord) (n : Nat) : Except QAns (List Byte) × State :=
  (runPieces (n / 2 ^ 16 + 2) (vaddr va) 0 n).foldl (fun (a : Except QAns (List Byte) × State) p =>
    match a with
    | (.error e, s) => (.error e, s)
    | (.ok bs, s) => match queuePlace s dk x (va + BitVec.ofNat 64 p.1) p.2 .read with
      | (.error e, s1) => (.error e, s1)
      | (.ok a, s1) => let (b, s2) := placeRead s1 a p.2; (.ok (bs ++ b), s2)) (.ok [], s)

/-- A queue's access has failed: it waits for the pager, or the queue takes an error. The record is filled as a dispatcher's. -/
def queueFail (s : State) (dk q : Nat) (e : QAns) (kind : Nat) : State :=
  match e with
  | .wait => s
  | .err n => queueError s dk q n
  | .log c va =>
    let (t, s1) := sendRecord s (faultDk (waferOf dk) va) (dispRecord dk 0 (s.hostq dk q).world kind c va) (.lodge dk q c)
    s1.updQueue dk q (fun x => { x with token := some t })

/-- A reply of the pager reaches a Lodge: the access is made again, or the queue takes NOPAGE or PERM. -/
def replyLodge (s : State) (dk q token : Nat) (code : BitVec 8) (fatal : Bool) : State :=
  if (s.hostq dk q).token = some token then
    (let s1 := s.updQueue dk q (fun x => { x with token := none })
     if fatal then queueError (s1.updQueue dk q (fun x => { x with entryDone := false })) dk q (if code = codePerm then 4 else 3) else s1)
  else s

/-! ### Ring entries (R237, R240) -/

/-- The end of an entry: CONS advances and is mirrored; a queue error or a QCMD that waited takes effect. -/
def finishEntry (s : State) (dk q : Nat) : State :=
  let x := s.hostq dk q
  let cons := x.cons + 1
  let done (s : State) : State :=
    let s1 := s.updQueue dk q (fun x => { x with cons := cons, entryDone := false, waiting := false, idleSince := s.clock,
                                                 served := x.served + 1, mapped := x.mapped && !x.err })
    match x.pendingOp with
    | some op => applyQcmd s1 dk q op
    | none => settleMaps s1 dk
  let s0 := s.updQueue dk q (fun x => { x with entryDone := true })
  if x.consaddr = 0 then done s0
  else if x.consaddr.toNat % 4 ≠ 0 then queueError (s.updQueue dk q (fun x => { x with entryDone := false })) dk q 2
  else match queuePlace s0 dk x x.consaddr 4 .write with
    | (.ok a, s1) => done (unitPut s1 a (bytesOfNat 4 cons.toNat))
    | (.error (.err n), s1) => queueError (s1.updQueue dk q (fun x => { x with entryDone := false })) dk q n
    | (.error e, s1) => queueFail s1 dk q e 1

/-- The entry at CONS. -/
structure Entry where
  kind : Nat
  addr : DWord
  value : Nat
  mask : Nat
  cond : Nat
  size : Nat
  rec_ : List Byte
  deriving DecidableEq, Repr

def parseEntry (bs : List Byte) : Entry :=
  { kind := fld bs 0 1, addr := BitVec.ofNat 64 (fld bs 8 8), value := fld bs 0x10 8, mask := fld bs 0x18 8, cond := fld bs 0x20 1,
    size := fld bs 0x21 1, rec_ := bs.drop 0x80 }

/-- The error of an entry's form: reserved values, and fields its type does not use. -/
def entryBad (bs : List Byte) (e : Entry) : Bool :=
  let zero (lo hi : Nat) : Bool := ((bs.drop lo).take (hi - lo)).all (· == 0)
  !zero 1 8 || !zero 0x22 0x80 ||
  (match e.kind with
    | 0 | 4 => !zero 8 0x100
    | 1 => !zero 8 0x22
    | 2 => decide (5 ≤ e.cond) || decide (1 < e.size) || !zero 0x80 0x100
    | 3 => decide (1 < e.size) || !zero 0x18 0x21 || !zero 0x80 0x100
    | _ => true)

def Entry.bytes (e : Entry) : Nat := if e.size = 0 then 4 else 8

/-- Whether a word meets a WAIT's condition. -/
def Entry.holds (e : Entry) (v : Nat) : Bool :=
  let w := 8 * e.bytes
  let x := (BitVec.ofNat w v &&& BitVec.ofNat w e.mask).toNat
  let y := (BitVec.ofNat w e.value &&& BitVec.ofNat w e.mask).toNat
  match e.cond with
  | 0 => x == y
  | 1 => x != y
  | 2 => decide (y ≤ x)
  | 3 => decide (x < y)
  | _ => decide ((x + 2 ^ w - y) % 2 ^ w < 2 ^ (w - 1))

/-- Whether a queue takes an entry now. -/
def entryDue (s : State) (dk q : Nat) : Bool :=
  let x := s.hostq dk q
  x.mapped && x.enabled && !x.err && x.hasWork && x.launchTok.isNone && x.token.isNone

/-- The address of the entry at CONS. -/
def entryAddr (x : HostQ) : DWord := x.ring + BitVec.ofNat 64 (256 * (x.cons.toNat % 2 ^ x.log))

/-- The LAUNCH of an entry sent to its root (R240). -/
def sendLaunch (s : State) (dk q : Nat) (x : HostQ) (e : Entry) : State :=
  let r := parseLaunch e.rec_
  let t := s.nextId
  let l : Launch :=
    { tok := t, bytes := e.rec_, addr := entryAddr x + 0x80, dk := dk, secure := x.world, priv := x.privileged, scope := none, tag := none, path := none,
      queue := some q, reject := decide (x.priocap < r.prio) || r.world != x.world }
  let s1 : State := { s with launches := s.launches ++ [l], nextId := t + 1 }
  (s1.send (.launch t)).updQueue dk q (fun x => { x with launchTok := some t })

/-- The effect of an entry that is well formed. -/
def runEntry (s : State) (dk q : Nat) (x : HostQ) (e : Entry) : State :=
  match e.kind with
  | 0 => finishEntry s dk q
  | 1 => sendLaunch s dk q x e
  | 2 =>
    if e.addr.toNat % e.bytes ≠ 0 then queueError s dk q 2
    else match queueRead s dk x e.addr e.bytes with
      | (.error f, s1) => queueFail s1 dk q f 0
      | (.ok bs, s1) =>
        if e.holds (natOfBytes bs) then finishEntry s1 dk q
        else settleQcmd (settleMaps (s1.updQueue dk q (fun x => { x with waiting := true, polled := s1.clock })) dk) dk q
  | 3 =>
    if e.addr.toNat % e.bytes ≠ 0 then queueError s dk q 2
    else match queuePlace s dk x e.addr e.bytes .write with
      | (.error f, s1) => queueFail s1 dk q f 1
      | (.ok a, s1) => finishEntry (unitPut s1 a (bytesOfNat e.bytes e.value)) dk q
  | _ => if x.grids.all (fun g => !s.grids.any (fun y => y.gid == g)) then
      finishEntry (s.updQueue dk q (fun x => { x with grids := [] })) dk q else settleQcmd s dk q

/-- A step of a queue at an entry of one type: the entry is read and judged and takes its effect, or ends. -/
def entryStep (kind : Nat) (poll : Bool) (s : State) (Q : Nat) : State :=
  let q := Q % 1024
  let dk := queueDk (Q / 1024) q
  let x := s.hostq dk q
  if launchHeld s x && x.pendingOp.isSome then
    (match x.pendingOp with | some op => applyQcmd (takeBackLaunch s x) dk q op | none => s)
  else if x.entryDone then (if x.token.isSome then s else finishEntry s dk q)
  else if entryDue s dk q = false ∨ x.waiting ≠ poll then s
  else match queueRead s dk x (entryAddr x) 256 with
    | (.error f, s1) => queueFail s1 dk q f 0
    | (.ok bs, s1) =>
      let e := parseEntry bs
      if 5 ≤ e.kind then queueError s1 dk q 1
      else if e.kind ≠ kind then s
      else if entryBad bs e then queueError s1 dk q 1
      else runEntry s1 dk q x e

/-! ### The meanings -/

/-- NOTIFY (R238, R239). -/
def execNotify (s : State) : Host.Outcome State Fault Refusal := event (fun a s => (notify s a.k a.i a.v a.flag).1) s
/-- QCMD_LOAD (R235). -/
def execQcmdLoad (s : State) : Host.Outcome State Fault Refusal := event (fun a s => qcmd s a.k a.i 0) s
/-- QCMD_DISABLE (R235). -/
def execQcmdDisable (s : State) : Host.Outcome State Fault Refusal := event (fun a s => qcmd s a.k a.i 1) s
/-- QUEUE_INVALIDATION (R236). -/
def execQueueInvalidation (s : State) : Host.Outcome State Fault Refusal := event (fun a s => qinvalArrive s a.k) s
/-- ENTRY_NOP (R240). -/
def execEntryNop (s : State) : Host.Outcome State Fault Refusal := event (fun a s => entryStep 0 false s a.k) s
/-- ENTRY_LAUNCH (R240, R241). -/
def execEntryLaunch (s : State) : Host.Outcome State Fault Refusal := event (fun a s => entryStep 1 false s a.k) s
/-- ENTRY_WAIT (R240, R241). -/
def execEntryWait (s : State) : Host.Outcome State Fault Refusal := event (fun a s => entryStep 2 false s a.k) s
/-- QUEUE_WAIT_POLL (R240). -/
def execQueueWaitPoll (s : State) : Host.Outcome State Fault Refusal := event (fun a s => entryStep 2 true s a.k) s
/-- ENTRY_SIGNAL (R240, R241). -/
def execEntrySignal (s : State) : Host.Outcome State Fault Refusal := event (fun a s => entryStep 3 false s a.k) s
/-- ENTRY_FENCE (R240). -/
def execEntryFence (s : State) : Host.Outcome State Fault Refusal := event (fun a s => entryStep 4 false s a.k) s

end Sys2Proof.Machine
end

