-- ==== Sys2Proof/Machine/Reply.lean ====
section
/-!
DEFINITION. The pager's replies (R60, R63, R64, R67, R104): a token's status goes to the log entry, the save record, the waiting path,
the engine, the Orangery or the dispatcher that waits for it.
-/

namespace Sys2Proof.Machine

/-- An entry with one reply: pending until every record is answered; one FATAL makes it fatal, with the code of its record (R60,
R64). -/
def LogEnt.reply (e : LogEnt) (token : Nat) (fatal : Bool) : LogEnt :=
  match e.tokens.find? (fun x => x.1 == token) with
  | none => e
  | some x =>
    if e.state = .free then e
    else
      let left := e.tokens.filter (· != x)
      { e with tokens := left, state := if fatal then .fatal else if e.state = .pending ∧ left = [] then .resolved else e.state,
               code := if fatal && e.state != .fatal then x.2 else e.code }

/-- A warp's log with one reply. -/
def Warp.reply (w : Warp) (token : Nat) (fatal : Bool) : Warp := { w with log := w.log.map (fun e => e.reply token fatal) }
def Block.reply (b : Block) (token : Nat) (fatal : Bool) : Block := { b with warps := b.warps.map (fun w => w.reply token fatal) }

/-- Whether a block's log holds a token. -/
def Block.holdsToken (b : Block) (token : Nat) : Bool :=
  b.warps.any (fun w => w.log.any (fun e => e.state != .free && e.tokens.any (fun x => x.1 == token)))

/-- The state words of a saved block's log entries, written into its record (R67). -/
def writeStates (s : State) (v : Saved) : State :=
  (v.blk.warps.zip (List.range v.blk.warps.length)).foldl (fun (s : State) (x : Warp × Nat) =>
    (x.1.log.zip (List.range 4)).foldl (fun (s : State) (y : LogEnt × Nat) =>
      if y.1.state = .free then s
      else s.unitWrite (devAddr (waferOf v.poolDk)
        (v.recPa + warpOff v.blk.lrec + x.2 * warpSize v.blk.lrec + 0x1800 + 800 * y.2 + 24)) (bytesOfNat 4 y.1.state.code)) s) s

/-- A reply for a logged entry: to its warp, or to its save record. -/
def replyEntry (s : State) (token : Nat) (fatal : Bool) : State :=
  let s1 : State := { s with blocks := s.blocks.map (fun b => if b.holdsToken token then b.reply token fatal else b) }
  s1.domains.foldl (fun s e =>
    match e.2.saved.find? (fun v => v.blk.holdsToken token) with
    | none => s
    | some v =>
      let v' : Saved := { v with blk := v.blk.reply token fatal }
      writeStates (s.updDomain e.1 (fun d => { d with saved := d.saved.map (fun x => if x.blk.bid = v.blk.bid then v' else x) })) v') s1

/-- A reply for the Orangery's destination write: retried, or the entry is skipped (R187). -/
def replyOrangery (s : State) (dk token : Nat) (fatal : Bool) : State :=
  match (s.domain dk).rel with
  | none => s
  | some r => match r.tokens.find? (fun x => x.2 == token) with
    | none => s
    | some x =>
      let s1 := s.updRel dk (fun r => { r with tokens := r.tokens.filter (· != x) })
      if fatal then setFwd s1 dk x.1 .skipped else s1

/-- A reply for a path that waits at the pager. -/
def replyPath (s : State) (r : PathRef) (token : Nat) (fatal : Bool) (f : Slot → Slot) : State :=
  match s.slot? r with
  | none => s
  | some sl =>
    if sl.wait = .fetch token ∨ sl.wait = .spill token then
      s.updSlot r (fun sl => let x : Slot := { sl with wait := .ready }; if fatal then f x else x)
    else s

/-- The fault of a FATAL reply about the spill area: as for the warp's own access (R198). -/
def replySpill (s : State) (r : PathRef) (token : Nat) (code : BitVec 8) (va : DWord) (fatal : Bool) : State :=
  let s1 := replyPath s r token false id
  if fatal then
    match s1.slot? r with
    | some sl => if sl.live then raiseDeferred s1 r.bid r.wi
        { code := code, kind := 2, pc := sl.path.pc, lanes := sl.path.mask, addr := va, tag := 0, lane := lowLane sl.path.mask } else s1
    | none => s1
  else s1

/-- The record read of a `glaunch`: retried, or its fault is raised at the `glaunch` when the path next may issue (R433). -/
def replyRecord (s : State) (r : PathRef) (token : Nat) (code : BitVec 8) (fatal : Bool) : State :=
  match s.slot? r with
  | none => s
  | some sl =>
    match sl.wait with
    | .record tag _ => s.updPend tag (fun p =>
        if p.aux.get? 1 = some (BitVec.ofNat 64 token) then
          { p with aux := if fatal then (Tab.erase 1 p.aux).set 2 (code.setWidth 64) else Tab.erase 1 p.aux }
        else p)
    | _ => s

/-- FLTREPLY: a token without a match is ignored (R104). -/
def fltReply (s : State) (dk : Nat) (v : Word) : State :=
  let token := v.toNat % 2 ^ 31
  let fatal := v.getLsbD 31
  match (s.domain dk).waiters.get? token with
  | none => s
  | some who =>
    let s1 := s.updDomain dk (fun d => { d with waiters := Tab.erase token d.waiters })
    match who with
    | .logEnt _ => replyEntry s1 token fatal
    | .fetch bid wi slot code => replyPath s1 { bid := bid, wi := wi, slot := slot } token fatal (fun sl => { sl with fetchFault := some code })
    | .spill bid wi slot code va => replySpill s1 { bid := bid, wi := wi, slot := slot } token code va fatal
    | .record bid wi slot code => replyRecord s1 { bid := bid, wi := wi, slot := slot } token code fatal
    | .engine bk eng cmd => engReply s1 bk eng cmd fatal
    | .orangery d => replyOrangery s1 d token fatal
    | .lodge d q code => replyLodge s1 d q token code fatal
    | .comp gid => (match s1.grid? gid with
        | none => s1
        | some g =>
          let s2 := s1.updGrid gid (fun g => { g with compToken := none })
          if fatal = false then complete s2 gid
          else if g.compPart = 1 then completeFrom 4 (s2.updGrid gid (fun g => { g with compPart := 2 })) gid
          else { s2 with grids := s2.grids.filter (fun g => g.gid != gid) })
    | .hint gid => s1.updGrid gid (fun g => match g.hintToken with
        | some (_, page) => { g with hintToken := none, hintLost := if fatal then g.hintLost ++ [page] else g.hintLost }
        | none => g)

/-- FLTREPLY (R60, R104). -/
def execFltreply (s : State) : Host.Outcome State Fault Refusal := event (fun a s => fltReply s a.k a.v) s

end Sys2Proof.Machine
end

