-- ==== Sys2Proof/Machine/Aperture.lean ====
section
/-!
DEFINITION. The control aperture (R95-R109, R235, R257, R259, R265, R267): every register's read and write, by offset, and the accesses
that reach it (R96, R98).
-/

namespace Sys2Proof.Machine

/-! ### Words -/

def loWord (x : DWord) : Word := x.setWidth 32
def hiWord (x : DWord) : Word := (x >>> 32).setWidth 32
def withLo (x : DWord) (v : Word) : DWord := hiWord x ++ v
def withHi (x : DWord) (v : Word) : DWord := v ++ loWord x
def wordOf (n : Nat) : Word := BitVec.ofNat 32 n
def boolWord (b : Bool) : Word := if b then 1 else 0
/-- The half of a 64-bit register that an offset names: the low one when `o` is 0. -/
def halfOf (x : DWord) (o : Nat) : Word := if o = 0 then loWord x else hiWord x
def putHalf (x : DWord) (o : Nat) (v : Word) : DWord := if o = 0 then withLo x v else withHi x v

/-- The world of a writer, and whether it is the Lodge boot firmware (R96, R107). -/
def originSecure : Origin → Bool
  | .host => false
  | .firmware s | .device s => s
def originFirmware : Origin → Bool
  | .firmware _ => true
  | _ => false

/-! ### The core block (R99, R101, R259, R267) -/

def coreid (s : State) (ck : Nat) : Word :=
  let dk := dkOfCk ck
  wordOf (slotOfCk ck + 64 * domOf dk + 4096 * ((s.wafer (waferOf dk)).number % 16) + (if coreOn s dk (slotOfCk ck) then 65536 else 0))

/-- The status word of a range-lock entry. -/
def rlockStat (s : State) (ck : Nat) (l : RLock) : Word :=
  let pos := (blocksOn s ck).findIdx (fun b => b.bid == l.bid)
  wordOf (1 + (if l.write then 2 else 0) + 4 * (pos % 16) + 64 * (l.source % 16) + 1024 * (l.warp % 64))

def Perf.init : Perf := { sel := 0, cnt := 0 }
def Brk.init : Brk := { addr := 0, en := false, secok := false }

/-- A word of the core block. -/
def coreRead (s : State) (ck off : Nat) (secure : Bool) : Word :=
  let c := s.core ck
  if off = 0 then coreid s ck
  else if off = 8 then boolWord c.schedmode
  else if 0x100 ≤ off ∧ off < 0x300 then
    (match c.locks.get? ((off - 0x100) / 32) with
      | none => 0
      | some l => match off % 32 with
        | 0x00 => rlockStat s ck l
        | 0x08 => wordOf l.lo
        | 0x0C => wordOf (l.lo / 2 ^ 32)
        | 0x10 => wordOf l.hi
        | 0x14 => wordOf (l.hi / 2 ^ 32)
        | _ => 0)
  else if 0x300 ≤ off ∧ off < 0x340 then
    (let p := c.perfs.get .init ((off - 0x300) / 16)
     match off % 16 with
      | 0 => (if secure then p.sel else p.sel &&& 0x7FF).setWidth 32
      | 8 => loWord p.cnt
      | 12 => hiWord p.cnt
      | _ => 0)
  else if 0x340 ≤ off ∧ off < 0x380 then
    (let b := c.brks.get .init ((off - 0x340) / 16)
     match off % 16 with
      | 0 => loWord b.addr
      | 4 => hiWord b.addr
      | 8 => wordOf ((if b.en then 1 else 0) + (if b.secok && secure then 2 else 0))
      | _ => 0)
  else 0

/-- SCHEDMODE is written: in force at once while no user block is resident on the core, else when the core next holds no block (R40,
R94). -/
def schedWrite (s : State) (ck : Nat) (v : Word) : State :=
  if (blocksOn s ck).all (fun b => b.lrec.privileged) then s.updCore ck (fun c => { c with schedmode := v.getLsbD 0, schedPending := none })
  else s.updCore ck (fun c => { c with schedPending := some (v.getLsbD 0) })

def State.updPerf (s : State) (ck n : Nat) (f : Perf → Perf) : State :=
  s.updCore ck (fun c => { c with perfs := c.perfs.set n (f (c.perfs.get .init n)) })
def State.updBrk (s : State) (ck n : Nat) (f : Brk → Brk) : State :=
  s.updCore ck (fun c => { c with brks := c.brks.set n (f (c.brks.get .init n)) })

/-- The bits [56:1] of a breakpoint's address. -/
def brkMask : DWord := 0x01FFFFFFFFFFFFFE

/-- A word of the core block written. -/
def coreWrite (s : State) (ck off : Nat) (v : Word) (secure : Bool) : State :=
  if off = 8 then schedWrite s ck v
  else if 0x300 ≤ off ∧ off < 0x340 then
    (let n := (off - 0x300) / 16
     match off % 16 with
      | 0 => s.updPerf ck n (fun p => { p with sel := if secure then v.setWidth 12 else (p.sel &&& 0x800) ||| (v.setWidth 12 &&& 0x7FF) })
      | 8 => s.updPerf ck n (fun p => { p with cnt := withLo p.cnt v })
      | 12 => s.updPerf ck n (fun p => { p with cnt := withHi p.cnt v })
      | _ => s)
  else if 0x340 ≤ off ∧ off < 0x380 then
    (let n := (off - 0x340) / 16
     match off % 16 with
      | 0 => s.updBrk ck n (fun b => { b with addr := withLo b.addr v &&& brkMask })
      | 4 => s.updBrk ck n (fun b => { b with addr := withHi b.addr v &&& brkMask })
      | 8 => s.updBrk ck n (fun b => { b with en := v.getLsbD 0, secok := if secure then v.getLsbD 1 else b.secok })
      | _ => s)
  else s

/-! ### The bay block (R99, R100) -/

/-- Whether a bay has an enabled core. -/
def bayOn (s : State) (bk : Nat) : Bool := (slotsOf s (bk / 8)).any (fun x => x / 8 == bk % 8)

def bayRead (s : State) (bk off : Nat) : Word :=
  let b := s.bay bk
  match off with
  | 0x0 => wordOf b.slewUp
  | 0x4 => wordOf b.slewDown
  | 0x8 => b.ramplo
  | 0xC => wordOf b.ramphi
  | 0x10 => wordOf (b.duties.foldl (· + ·) 0 + 256 * rotorOf s bk)
  | _ => 0

/-- Each RT field, at most 8 (R100). -/
def clampRamp (v : Word) : Word :=
  wordOf ((List.range 8).foldl (fun n i => n + min 8 (bitsOf v.toNat (4 * i + 3) (4 * i)) * 2 ^ (4 * i)) 0)

/-- SLEWUP, SLEWDOWN and RAMPLO are written: in force from the next step on (R100). -/
def slewWrite (s : State) (bk : Nat) (up : Bool) (v : Word) : State :=
  let n := v.toNat % 128
  if n = 0 ∨ 64 < n then s
  else s.updBay bk (fun b => if up then { b with nextUp := some n } else { b with nextDown := some n })
def rampWrite (s : State) (bk : Nat) (v : Word) : State := s.updBay bk (fun b => { b with nextRamplo := some (clampRamp v) })

def bayWrite (s : State) (bk off : Nat) (v : Word) : State :=
  match off with
  | 0x0 => slewWrite s bk true v
  | 0x4 => slewWrite s bk false v
  | 0x8 => rampWrite s bk v
  | _ => s

/-! ### The domain block (R102-R106, R235, R257, R265) -/

/-- One of the five registers of a memory queue (R103). -/
def ringRead (q : RingQ) (o : Nat) : Word :=
  match o with
  | 0x0 => loWord q.base
  | 0x4 => hiWord q.base
  | 0x8 => wordOf q.log
  | 0xC => q.prod
  | _ => q.cons
def ringWrite (q : RingQ) (o : Nat) (v : Word) : RingQ :=
  match o with
  | 0x0 => if q.prod = q.cons then { q with base := withLo q.base (v &&& 0xFFFFF000) } else q
  | 0x4 => if q.prod = q.cons then { q with base := withHi q.base v } else q
  | 0x8 => if q.prod = q.cons then { q with log := v.toNat % 32 } else q
  | 0x10 => { q with cons := v }
  | _ => q

/-- The block that DBGIDX selects. -/
def debugSel (d : Domain) : Option Saved := (d.dbgHeld[d.dbgidx]?).bind (fun b => d.saved.find? (fun v => v.blk.bid == b))

/-- The page lock that MIGPAGE shows: the oldest held. -/
def migPage (d : Domain) (o : Nat) : Word :=
  match d.pageLocks with
  | [] => 0
  | l :: _ =>
    let pa := l.1 % 2 ^ 52
    if o = 0 then wordOf (1 + (if l.2.1 = 2 ^ 16 then 0 else 2) + bitsOf pa 31 16 * 65536) else wordOf (bitsOf pa 40 32)

/-- Blocks queued at an Arbor, saturating. -/
def queuedBlocks (s : State) (dk : Nat) : Nat := min 65535 (((s.domain dk).units.map (unitSize s dk)).foldl (· + ·) 0)

/-- A word of the domain block. -/
def domainRead (s : State) (dk off : Nat) : Word :=
  let d := s.domain dk
  let q := queuesOn s dk
  if 0x30 ≤ off ∧ off ≤ 0x40 then ringRead d.hotq (off - 0x30)
  else if 0x50 ≤ off ∧ off ≤ 0x60 then ringRead d.fltq (off - 0x50)
  else if 0x200 ≤ off ∧ off < 0x240 ∧ off ≠ 0x22C then d.counters.get 0 ((off - 0x200) / 4)
  else match off with
    | 0x000 => wordOf (domOf dk + 64 * coreCount s dk +
        65536 * (List.range Config.bays).foldl (fun n b => if bayOn s (mkBk dk b) then n + 2 ^ b else n) 0)
    | 0x004 => boolWord d.hold
    | 0x008 => wordOf (freeCount s dk % 64 + 65536 * queuedBlocks s dk)
    | 0x010 | 0x014 => halfOf d.saveBase (off - 0x010)
    | 0x018 => wordOf d.savePages
    | 0x020 => wordOf (d.visitor + (if d.splitBusy.isSome then 2 ^ 31 else 0))
    | 0x024 => wordOf d.dir.length
    | 0x028 => d.hotthresh.setWidth 32
    | 0x070 => wordOf ((if d.migs.any (fun m => decide (1 ≤ m.phase)) then 1 else 0) + 256 * min 255 (d.migs.filter (fun m => m.phase == 0)).length)
    | 0x074 | 0x078 => migPage d (off - 0x074)
    | 0x080 | 0x084 => halfOf d.relset (off - 0x080)
    | 0x08C => wordOf ((if d.relBusy then 1 else 0) + (if d.relDone then 2 else 0) + (if d.relErr then 4 else 0) + (if d.relSwept then 8 else 0))
    | 0x090 | 0x094 => halfOf d.relsweep (off - 0x090)
    | 0x0A0 => wordOf d.dbgHeld.length
    | 0x0A4 => wordOf d.dbgidx
    | 0x0A8 | 0x0AC => (match debugSel d with | some v => halfOf (BitVec.ofNat 64 v.recPa) (off - 0x0A8) | none => 0)
    | 0x0C0 | 0x0C4 => if q then halfOf d.qtab (off - 0x0C0) else 0
    | 0x0CC => if q then wordOf ((if d.qbusy.isSome then 1 else 0) + 256 * mappedCount d) else 0
    | 0x0D0 | 0x0D4 => if q then halfOf d.inwin (off - 0x0D0) else 0
    | 0x0D8 => if q then wordOf d.inwinLog else 0
    | 0x0E4 => wordOf ((if d.dirrd.isSome then 1 else 0) + (if d.dirHit then 2 else 0))
    | 0x0F0 | 0x0F4 | 0x0F8 | 0x0FC => d.dirent.extractLsb' (8 * (off - 0x0F0)) 32
    | _ => 0

/-- ARBPRE: pre-emption of every block on a core slot (R102). -/
def arbpre (s : State) (dk : Nat) (v : Word) : State := askCore s (mkCk dk (v.toNat % 64)) 0x80 (fun _ => true)

/-- DBGCMD RELEASE and DISCARD of the selected block (R106). -/
def debugEnd (s : State) (dk : Nat) (discard secure : Bool) : State :=
  match debugSel (s.domain dk) with
  | none => s
  | some v =>
    if v.blk.world && !secure then s
    else
      let s1 := if discard then dropSaved s dk v (fun c => { c with discarded := c.discarded + 1 })
        else s.updDomain dk (fun d => { d with dbgHeld := d.dbgHeld.filter (· != v.blk.bid) })
      requeue s1 dk v.key
/-- DBGCMD BREAK: DEBUG_BREAK of every block on a core slot. -/
def debugSlot (s : State) (dk slot : Nat) (secure : Bool) : State :=
  askCore s (mkCk dk slot) 0x82 (fun b => secure || !b.world)

/-- DBGCMD. -/
def dbgcmd (s : State) (dk : Nat) (v : Word) (secure : Bool) : State :=
  match v.toNat % 4 with
  | 1 => debugEnd s dk false secure
  | 2 => debugEnd s dk true secure
  | 3 => debugSlot s dk (bitsOf v.toNat 13 8) secure
  | _ => s

/-- RELCMD: one bit at a time (R105). -/
def relcmd (s : State) (dk : Nat) (v : Word) (secure : Bool) : State :=
  match v.toNat % 8 with
  | 1 => relStart s dk secure
  | 2 => relRetire s dk
  | 4 => sweepStart s dk secure
  | _ => s

/-- QCMD. -/
def qcmdWrite (s : State) (dk : Nat) (v : Word) : State :=
  match bitsOf v.toNat 9 8 with
  | 0 => qcmd s dk (v.toNat % 256) 0
  | 1 => qcmd s dk (v.toNat % 256) 1
  | _ => s

/-- A word of the domain block written. -/
def domainWrite (s : State) (dk off : Nat) (v : Word) (secure : Bool) : State :=
  let d := s.domain dk
  let q := queuesOn s dk
  let upd (f : Domain → Domain) : State := s.updDomain dk f
  if 0x30 ≤ off ∧ off ≤ 0x40 then upd (fun d => { d with hotq := ringWrite d.hotq (off - 0x30) v })
  else if 0x50 ≤ off ∧ off ≤ 0x60 then upd (fun d => { d with fltq := ringWrite d.fltq (off - 0x50) v })
  else match off with
    | 0x004 => upd (fun d => { d with hold := v.getLsbD 0 })
    | 0x00C => arbpre s dk v
    | 0x010 => if d.saves = [] then upd (fun d => { d with saveBase := withLo d.saveBase (v &&& 0xFFFFF000) }) else s
    | 0x014 => if d.saves = [] then upd (fun d => { d with saveBase := withHi d.saveBase v }) else s
    | 0x018 => if d.saves = [] then upd (fun d => { d with savePages := v.toNat % 2 ^ 20 }) else s
    | 0x020 => splitStart s dk v
    | 0x028 => upd (fun d => { d with hotthresh := v.setWidth 16 })
    | 0x068 => fltReply s dk v
    | 0x080 => if d.relBusy then s else upd (fun d => { d with relset := withLo d.relset (v &&& 0xFFFFFFC0) })
    | 0x084 => if d.relBusy then s else upd (fun d => { d with relset := withHi d.relset v })
    | 0x088 => relcmd s dk v secure
    | 0x08C => upd (fun d => { d with relDone := d.relDone && !v.getLsbD 1, relErr := d.relErr && !v.getLsbD 2, relSwept := d.relSwept && !v.getLsbD 3 })
    | 0x090 => upd (fun d => { d with relsweep := withLo d.relsweep (v &&& 0xFFFFFFF0) })
    | 0x094 => upd (fun d => { d with relsweep := withHi d.relsweep v })
    | 0x0A4 => upd (fun d => { d with dbgidx := v.toNat % 65536 })
    | 0x0B0 => dbgcmd s dk v secure
    | 0x0C0 => if q && mappedCount d == 0 then upd (fun d => { d with qtab := withLo d.qtab (v &&& 0xFFFFF000) }) else s
    | 0x0C4 => if q && mappedCount d == 0 then upd (fun d => { d with qtab := withHi d.qtab v }) else s
    | 0x0C8 => qcmdWrite s dk v
    | 0x0D0 => if q then upd (fun d => { d with inwin := withLo d.inwin (v &&& 0xC0000000) }) else s
    | 0x0D4 => if q then upd (fun d => { d with inwin := withHi d.inwin v }) else s
    | 0x0D8 => if q then upd (fun d => { d with inwinLog := v.toNat % 64 }) else s
    | 0x0E0 => dirLookup s dk v
    | 0x240 => clearCounters s dk v
    | _ => s

/-! ### The wafer registers (R107, R108) -/

/-- The heap registers: world, whether the limit, and the half. -/
def heapReg (off : Nat) : Nat × Bool × Nat := ((off - 0x40) / 16, 8 ≤ off % 16, off % 8)

/-- A word of the wafer registers. -/
def waferRead (s : State) (w off : Nat) (secure : Bool) : Word :=
  let x := s.wafer w
  if 0x40 ≤ off ∧ off < 0x60 then
    (let (k, lim, h) := heapReg off
     if k = 1 ∧ secure = false then 0 else halfOf ((if lim then x.heapLimit else x.heapBase).get 0 k) h)
  else match off with
    | 0x000 => wordOf (x.number + 65536 * waferCores s w)
    | 0x004 => wordOf x.preemptgap
    | 0x008 => boolWord x.pergHold
    | 0x00C => boolWord x.pavHold
    | 0x010 => x.podmap.setWidth 32
    | 0x020 | 0x024 => halfOf x.topobase (off - 0x020)
    | 0x028 | 0x02C => halfOf x.capbase (off - 0x028)
    | 0x030 | 0x034 => halfOf x.hostwin (off - 0x030)
    | 0x038 => boolWord x.hostwinEn
    | 0x060 => (x.phase.get 0 0).setWidth 32
    | 0x064 => (x.phase.get 0 1).setWidth 32
    | _ => 0

/-- A word of the wafer registers written. "Firmware" fields take only the boot firmware's writes. -/
def waferWrite (s : State) (orig : Origin) (w off : Nat) (v : Word) : State :=
  let x := s.wafer w
  let upd (f : Wafer → Wafer) : State := s.updWafer w f
  let fw (t : State) : State := if originFirmware orig then t else s
  if 0x40 ≤ off ∧ off < 0x60 then
    (let (k, lim, h) := heapReg off
     if k = 1 ∧ originSecure orig = false then s
     else upd (fun x => if lim then { x with heapLimit := x.heapLimit.set k (putHalf (x.heapLimit.get 0 k) h v) }
                        else { x with heapBase := x.heapBase.set k (putHalf (x.heapBase.get 0 k) h v) }))
  else match off with
    | 0x000 => fw (upd (fun x => { x with number := v.toNat % 16 }))
    | 0x004 => if v.toNat % 64 = 0 then s else upd (fun x => { x with preemptgap := v.toNat % 64 })
    | 0x008 => upd (fun x => { x with pergHold := v.getLsbD 0 })
    | 0x00C => upd (fun x => { x with pavHold := v.getLsbD 0 })
    | 0x010 => fw (upd (fun x => { x with podmap := v.setWidth 16 }))
    | 0x020 => fw (topobaseWrite s w v)
    | 0x024 => fw (upd (fun x => { x with topobase := withHi x.topobase v }))
    | 0x028 => fw (upd (fun x => { x with capbase := withLo x.capbase (v &&& 0xFFFFF000) }))
    | 0x02C => fw (upd (fun x => { x with capbase := withHi x.capbase v }))
    | 0x030 => if x.hostwinEn then s else upd (fun x => { x with hostwin := withLo x.hostwin (v &&& 0xF0000000) })
    | 0x034 => if x.hostwinEn then s else upd (fun x => { x with hostwin := withHi x.hostwin v })
    | 0x038 => upd (fun x => { x with hostwinEn := v.getLsbD 0 })
    | _ => s

/-! ### The whole aperture (R96, R97) -/

/-- What an aperture offset names. -/
inductive ApUnit where
  | wafer (off : Nat)
  | domain (d off : Nat)
  | bay (d b off : Nat)
  | core (d sl off : Nat)
  | notify (q off : Nat)
  | none
  deriving DecidableEq, Repr

def apUnit (o : Nat) : ApUnit :=
  if o < 0x100000 then .wafer o
  else if 0x1000000 ≤ o ∧ o < 0x1000000 + 56 * 0x100000 then
    (let d := (o - 0x1000000) / 0x100000
     let r := o % 0x100000
     if r < 0x10000 then .domain d r
     else if r < 0x17000 then .bay d ((r - 0x10000) / 0x1000) (r % 0x1000)
     else if 0x20000 ≤ r ∧ r < 0x20000 + 56 * 0x400 then .core d ((r - 0x20000) / 0x400) (r % 0x400)
     else .none)
  else if 0x5000000 ≤ o ∧ o < 0x5400000 then .notify ((o - 0x5000000) / 0x1000) (o % 0x1000)
  else .none

/-- Whether an offset is a register marked secure, which a non-secure access may not touch (R96). -/
def apSecure (o : Nat) : Bool := decide (0x50 ≤ o ∧ o < 0x60)

/-- A word of the aperture; unassigned offsets and the blocks of a fused-out core or bay read zero. -/
def apRead (s : State) (w o : Nat) (secure : Bool) : Word :=
  if apSecure o && !secure then 0
  else match apUnit o with
  | .wafer off => waferRead s w off secure
  | .domain d off => domainRead s (mkDk w d) off
  | .bay d b off => if bayOn s (mkBk (mkDk w d) b) then bayRead s (mkBk (mkDk w d) b) off else 0
  | .core d sl off => if coreOn s (mkDk w d) sl then coreRead s (mkCk (mkDk w d) sl) off secure else 0
  | _ => 0

/-- A word of the aperture written, entering at a host port, port 0 for device code; the second part says that device code receives
WORLD. -/
def apWrite (s : State) (orig : Origin) (port w o : Nat) (v : Word) : State × Bool :=
  if apSecure o && !originSecure orig then (s, true)
  else match apUnit o with
    | .wafer off => (waferWrite s orig w off v, false)
    | .domain d off => (domainWrite s (mkDk w d) off v (originSecure orig), false)
    | .bay d b off => (if bayOn s (mkBk (mkDk w d) b) then bayWrite s (mkBk (mkDk w d) b) off v else s, false)
    | .core d sl off => (if coreOn s (mkDk w d) sl then coreWrite s (mkCk (mkDk w d) sl) off v (originSecure orig) else s, false)
    | .notify q off => if off = 0 then notify s (mkDk w (hostDomains.getD port 0)) q v (originSecure orig) else (s, false)
    | .none => (s, false)

/-! ### The meanings -/

/-- SCHEDMODE_WRITE (R94, R40). -/
def execSchedmodeWrite (s : State) : Host.Outcome State Fault Refusal :=
  event (fun a s => if coreOn s (dkOfCk a.k) (slotOfCk a.k) then schedWrite s a.k a.v else s) s
/-- SLEWUP (R99, R100). -/
def execSlewup (s : State) : Host.Outcome State Fault Refusal :=
  event (fun a s => if bayOn s a.k then slewWrite s a.k true a.v else s) s
/-- SLEWDOWN (R99, R100). -/
def execSlewdown (s : State) : Host.Outcome State Fault Refusal :=
  event (fun a s => if bayOn s a.k then slewWrite s a.k false a.v else s) s
/-- RAMPLO (R99, R100). -/
def execRamplo (s : State) : Host.Outcome State Fault Refusal := event (fun a s => if bayOn s a.k then rampWrite s a.k a.v else s) s
/-- ARBPRE (R43, R102). -/
def execArbpre (s : State) : Host.Outcome State Fault Refusal := event (fun a s => arbpre s a.k a.v) s
/-- DBGCMD_RELEASE (R106). -/
def execDbgcmdRelease (s : State) : Host.Outcome State Fault Refusal := event (fun a s => debugEnd s a.k false a.flag) s
/-- DBGCMD_DISCARD (R106). -/
def execDbgcmdDiscard (s : State) : Host.Outcome State Fault Refusal := event (fun a s => debugEnd s a.k true a.flag) s
/-- DBGCMD_BREAK (R106). -/
def execDbgcmdBreak (s : State) : Host.Outcome State Fault Refusal := event (fun a s => debugSlot s a.k a.i a.flag) s

end Sys2Proof.Machine
end

