-- ==== Sys2Proof/Machine/Bridge.lean ====
section
/-!
DEFINITION. The host-port bridges: owner-56 accesses of the cores (R113, R124, R242, R391) and inbound accesses of the host and its peers
(R243, R475).
-/

namespace Sys2Proof.Machine

/-! ### Owner-56 accesses -/

/-- Whether the bridge performs a read-modify-write: integer `add`, `xchg`, `cas` (R124). -/
def bridgeRmw (k : ReqKind) : Bool :=
  match k with
  | .rmw op | .red op => rmwOf op == .add || rmwOf op == .xchg || rmwOf op == .cas
  | _ => true

/-- An access to the control aperture, in the issuing warp's world (R96). -/
def bridgeRegister (s : State) (r : Req) (o : Nat) : State :=
  let w := waferOf (dkOfCk r.core)
  match r.kind with
  | .load => if apSecure o && !r.secure then faultReq s r codeWorld false
      else answerReq s r ((apRead s w o r.secure).setWidth 128) []
  | .store =>
    let x := apWrite s (.device r.secure) 0 w o (r.data.setWidth 32)
    if x.2 then faultReq x.1 r codeWorld false else ackReq x.1 r
  | .rmw _ | .red _ => faultReq s r codeAtomicClass false
  | k => if k.byHeader then faultReq s r codeHeapClass false else answerReq s r 0 []

/-- An access to host memory or a peer, under the leaf of D0's table. -/
def bridgeMemory (s : State) (r : Req) : State :=
  let dk := mkDk (waferOf (dkOfCk r.core)) 0
  match findLeaf s dk (offsetOf r.target) true with
  | (none, s1) => faultReq s1 r codeNoPage true
  | (some l, s1) =>
    match useLeaf s1 dk (offsetOf r.target) true l r.access r.priv r.secure with
    | (.error e, s2) => faultReq s2 { r with attr := { r.attr with size := l.size } } e (e == codePerm || e == codeNoPage)
    | (.ok x, s2) =>
      let q : Req := { r with pa := x.addr, attr := x.attr }
      if r.kind.byHeader then faultReq s2 q codeHeapClass false
      else if bridgeRmw r.kind = false then faultReq s2 q codeAtomicClass false
      else
        let old := natOfBytes (memRead s2.mem x.addr r.size)
        match r.kind with
        | .store =>
          if r.pieces = [] then ackReq (s2.storeBytes x.addr (bytesOfNat r.size r.data.toNat)) q
          else ackReq (r.pieces.foldl (fun s p => s.storeBytes (x.addr / 128 * 128 + p.off) p.bytes) s2) q
        | .rmw op | .red op =>
          let n := rmwNew (rmwOf op) r.size false (BitVec.ofNat 64 old) r.cmp (r.data.setWidth 64)
          doneReq (s2.storeBytes x.addr (bytesOfNat r.size n.1.toNat)) q (BitVec.ofNat 128 old)
        | _ => answerReq s2 q (BitVec.ofNat 128 old) []

/-- BRIDGE_ACCESS: the access's point at its bridge. -/
def bridgeAccess (s : State) (id : Nat) : State :=
  match s.req? id with
  | none => s
  | some r =>
    if r.stage = .bridge then
      (match apertureOff r.target with
        | some o => bridgeRegister s r o
        | none => bridgeMemory s r)
    else s

/-! ### Inbound accesses (R243, R475) -/

/-- Pieces of at most 8 bytes, aligned, ascending: offset in the run and length. -/
def inboundPieces : Nat → Nat → Nat → Nat → List (Nat × Nat)
  | 0, _, _, _ => []
  | fuel + 1, a, done, n =>
    if n ≤ done then []
    else
      let k := min (n - done) (8 - (a + done) % 8)
      (done, k) :: inboundPieces fuel a (done + k) n

/-- Where a piece lies, for a non-secure user access; an access that cannot be made, or one that waits for snoops. -/
def inboundPlace (s : State) (w : Nat) (va : DWord) (n : Nat) (acc : Access) : Option Nat × State × Bool :=
  let (o, off) := translator w va
  if ownerBad va ∨ ownerOf va = 62 ∨ (apertureOff va).isSome then (none, s, false)
  else if heldAtOwner s o off then (none, s, true)
  else match translate s w va acc false false with
    | (.error _, s1) => (none, s1, false)
    | (.ok p, s1) =>
      if p.host then (some p.addr, s1, false)
      else if p.attr.cls = 1 ∨ frameSecure s1 p.addr ∨ (acc = .read ∧ s1.poisoned p.addr n = true) then (none, s1, false)
      else if lockHoldsRun s1 p.addr n acc.writes then (none, s1, true)
      else if winNeeds s1 p.addr n acc.writes ≠ [] then
        (none, addSnoops s1 (p.addr / 2 ^ 52 % 16) (winNeeds s1 p.addr n acc.writes) acc.writes, true)
      else (some p.addr, s1, false)

/-- Every piece placed, before any is performed. -/
def inboundPlaces (w : Nat) (va : DWord) (acc : Access) (ps : List (Nat × Nat)) (s : State) : Option (List (Nat × Nat × Nat)) × State × Bool :=
  ps.foldl (fun (a : Option (List (Nat × Nat × Nat)) × State × Bool) p =>
    match a with
    | (none, s, b) => (none, s, b)
    | (some l, s, _) => match inboundPlace s w (va + BitVec.ofNat 64 p.1) p.2 acc with
      | (some x, s1, b) => (some (l ++ [(p.1, p.2, x)]), s1, b)
      | (none, s1, b) => (none, s1, b)) (some [], s, false)

/-- A read of a port is completed. -/
def portDone (s : State) (dk : Nat) (a : PortAcc) (c : PortCpl) : State :=
  if a.write then s else s.updDomain dk (fun d => { d with cpls := d.cpls ++ [c] })

/-- A read or a posted write through BAR2, at INWIN plus its offset; whether it has been dealt with. One outside the window, or while it
is off, is an Unsupported Request; one that meets a fault is dropped, or completed with Completer Abort, and counted. -/
def bar2Try (s : State) (dk : Nat) (a : PortAcc) : State × Bool :=
  let d := s.domain dk
  let n := a.bytes.length
  if d.inwinLog < 30 ∨ 46 < d.inwinLog ∨ 2 ^ d.inwinLog < a.off + n then (portDone s dk a .unsupported, true)
  else
    let va := d.inwin + BitVec.ofNat 64 a.off
    match inboundPlaces (waferOf dk) va (if a.write then .write else .read) (inboundPieces (n + 1) (vaddr va) 0 n) s with
    | (some l, s1, _) =>
      if a.write then (l.foldl (fun s p => unitPut s p.2.2 ((a.bytes.drop p.1).take p.2.1)) s1, true)
      else
        let x := l.foldl (fun (x : List Byte × State) p => let y := placeRead x.2 p.2.2 p.2.1; (x.1 ++ y.1, y.2)) ([], s1)
        (portDone x.2 dk a (.data x.1), true)
    | (none, s1, true) => (s1, false)
    | (none, s1, false) => (portDone (countErr s1 dk 10) dk a .abort, true)

/-- A register access of the host through BAR0: one of another width than 32 bits, or not aligned, has no effect but to be counted, and a
read is completed with Completer Abort (R95, R96). -/
def bar0Do (s : State) (dk : Nat) (a : PortAcc) : State :=
  if a.bytes.length ≠ 4 ∨ a.off % 4 ≠ 0 then portDone (countErr s dk 10) dk a .abort
  else if a.write then (apWrite s .host ((portOf dk).getD 0) (waferOf dk) a.off (BitVec.ofNat 32 (natOfBytes a.bytes))).1
  else portDone s dk a (.data (bytesOfNat 4 (apRead s (waferOf dk) a.off false).toNat))

/-- An access of a port tried; whether it has been dealt with. -/
def portTry (s : State) (dk : Nat) (a : PortAcc) : State × Bool := if a.bar0 then (bar0Do s dk a, true) else bar2Try s dk a

/-- The accesses that wait at a port, tried in order: none goes on past a posted write that waits (R243). -/
def portServe (s : State) (dk : Nat) : State :=
  let x := (s.domain dk).portq.foldl (fun (x : State × List PortAcc × Bool) a =>
    if x.2.2 then (x.1, x.2.1 ++ [a], true)
    else match portTry x.1 dk a with
      | (s1, true) => (s1, x.2.1, false)
      | (s1, false) => (s1, x.2.1 ++ [a], a.write)) (s, [], false)
  x.1.updDomain dk (fun d => { d with portq := x.2.1 })

/-- An access reaches a host port. -/
def portAccept (s : State) (dk : Nat) (a : PortAcc) : State :=
  if (portOf dk).isNone then s
  else if (s.domain dk).portq = [] then
    match portTry s dk a with
    | (s1, true) => s1
    | (s1, false) => s1.updDomain dk (fun d => { d with portq := [a] })
  else portServe (s.updDomain dk (fun d => { d with portq := d.portq ++ [a] })) dk

/-- INBOUND_ACCESS: a read or a posted write through BAR2. -/
def inbound (s : State) (dk : Nat) (write : Bool) (off : Nat) (bs : List Byte) : State :=
  portAccept s dk { bar0 := false, write := write, off := off, bytes := bs }

/-- REGISTER_WRITE: a write through BAR0, with a width of its own where bytes are given, by firmware, or by device code (R96). -/
def registerWrite (s : State) (orig : Origin) (port w o : Nat) (v : Word) (bs : List Byte) : State :=
  match orig with
  | .host => portAccept s (mkDk w (hostDomains.getD port 0))
      { bar0 := true, write := true, off := o, bytes := if bs = [] then bytesOfNat 4 v.toNat else bs }
  | _ => if o % 4 ≠ 0 then s else (apWrite s orig port w o v).1

/-! ### The meanings -/

/-- BRIDGE_ACCESS (R242, R113, R124). -/
def execBridgeAccess (s : State) : Host.Outcome State Fault Refusal := event (fun a s => bridgeAccess s a.k) s
/-- REGISTER_WRITE (R96, R98). -/
def execRegisterWrite (s : State) : Host.Outcome State Fault Refusal :=
  event (fun a s => registerWrite s a.orig (if a.orig = .host then a.j % 4 else 0) a.k a.i a.v a.data) s
/-- INBOUND_ACCESS (R243, R475). -/
def execInboundAccess (s : State) : Host.Outcome State Fault Refusal := event (fun a s => inbound s a.k a.flag a.i a.data) s

end Sys2Proof.Machine
end

