-- ==== Sys2Proof/Machine/System.lean ====
section
/-!
DEFINITION. Launch, synchronisation and system instructions (R426-R441, R446-R448): barriers, first-lane broadcast, grids, the
warp-visible control and status registers, return from a handler, change of world, instruction-cache locks, halt, counters.
-/

namespace Sys2Proof.Machine

/-! ### Barriers (R427-R430) -/

/-- The bits of warp `w` in a barrier word. -/
def barArrived (x : DWord) (w : Nat) : Bool := x.getLsbD w
def barPassed (x : DWord) (w : Nat) : Bool := x.getLsbD (32 + w)
/-- The word after an arrival of warp `w`, and after its passage. -/
def barEnter (x : DWord) (w : Nat) : DWord := (x &&& ~~~(1#64 <<< (32 + w))) ||| (1#64 <<< w)
def barLeave (x : DWord) (w : Nat) : DWord := x &&& ~~~(1#64 <<< (32 + w))

/-- The shape of a barrier instruction: `gang` forms have B = 0, the others a number 0-15 (R317). -/
def barShape (gang : Bool) (f : F32) : Shape :=
  { opcodeBad := f.d != 0 || f.a != 0 || (if gang then f.b != 0 else decide (15 < f.b.toNat)), fields := [], gov := false }

/-- A named barrier or the gang barrier: its word in a block, the word changed, and its completion test. -/
structure BarUnit where
  gang : Bool
  n : Nat
  deriving DecidableEq, Repr

def BarUnit.word (u : BarUnit) (b : Block) : DWord := if u.gang then b.gbar else b.bars.get 0 u.n
def BarUnit.put (u : BarUnit) (b : Block) (x : DWord) : Block :=
  if u.gang then { b with gbar := x } else { b with bars := b.bars.set u.n x }
def BarUnit.test (u : BarUnit) (s : State) (b : Block) : State :=
  if u.gang then testGbar s b.gangId else s.updBlock b.bid (fun b => testBar b u.n)
def BarUnit.wait (u : BarUnit) : Wait := if u.gang then .gbar else .bar u.n

/-- BARRIER_STATE: a number at or above BARRIERS (R193), or a word that `bad` rejects (R428). -/
def barPre (u : BarUnit) (bad : DWord → Nat → Bool) : Ctx → State → Option Flt := fun c _ =>
  if (u.gang = false ∧ c.blk.lrec.barriers ≤ u.n) ∨ bad (u.word c.blk) c.ref.wi = true then some (plainFault c codeBarrier) else none

/-- What an arrival waits for as a release (R65, R138, R166): memory effects held in the log and the warp's earlier accesses; for a gang
every earlier access of the block. -/
def barHeld (u : BarUnit) (c : Ctx) (s : State) : Bool := fenceWaits (if u.gang then .domain else .block) c s

/-- The arrive row (R428). -/
def barArriveEff (u : BarUnit) (c : Ctx) (s : State) : Res :=
  if barHeld u c s then .wait (.retry false)
  else .own (u.test ((advance c s).updBlock c.ref.bid (fun b => u.put b (barEnter (u.word b) c.ref.wi))) c.blk)

/-- The wait row (R428, R429). -/
def barWaitEff (u : BarUnit) (c : Ctx) (s : State) : Res :=
  if barArrived (u.word c.blk) c.ref.wi then .hold s u.wait
  else .done (s.updBlock c.ref.bid (fun b => u.put b (barLeave (u.word b) c.ref.wi)))

/-- The arrive row and then the wait row: the path waits, and the test may let it go on at once. -/
def barSyncEff (u : BarUnit) (c : Ctx) (s : State) : Res :=
  if barHeld u c s then .wait (.retry false)
  else
    let s1 := s.updBlock c.ref.bid (fun b => u.put b (barEnter (u.word b) c.ref.wi))
    .own (u.test (s1.updSlot c.ref (fun sl => { sl with path := { sl.path with pc := c.fpc }, wait := u.wait })) c.blk)

/-- `bar.reset`: PASSED := 0, with ARRIVED 0. -/
def barResetEff (u : BarUnit) (c : Ctx) (s : State) : Res := .done (s.updBlock c.ref.bid (fun b => u.put b 0))

def barOf (f : F32) : BarUnit := { gang := false, n := f.b.toNat }
def gangBar : BarUnit := { gang := true, n := 0 }

/-- A warp whose bits are both 0 has nothing to wait for. -/
def barIdle (x : DWord) (w : Nat) : Bool := !barArrived x w && !barPassed x w

def barArriveIssue (i : Instr) (u : BarUnit) (f : F32) (s : State) : Host.Outcome State Fault Refusal :=
  issue i (barShape u.gang f) (barPre u barArrived) (barArriveEff u) s
def barWaitIssue (i : Instr) (u : BarUnit) (f : F32) (s : State) : Host.Outcome State Fault Refusal :=
  issue i (barShape u.gang f) (barPre u barIdle) (barWaitEff u) s
def barSyncIssue (i : Instr) (u : BarUnit) (f : F32) (s : State) : Host.Outcome State Fault Refusal :=
  issue i (barShape u.gang f) (barPre u barArrived) (barSyncEff u) s
def barResetIssue (i : Instr) (u : BarUnit) (f : F32) (s : State) : Host.Outcome State Fault Refusal :=
  issue i (barShape u.gang f) (barPre u (fun x _ => arrivedOf x != 0)) (barResetEff u) s

/-! ### Shapes of the L64 forms (R426) -/

def kPair (x : Opd) (zeroOk dst strict : Bool) : Field := { opd := x, role := .kgroup zeroOk, words := 2, dst := dst, strict := strict }
def aUni (f : FmtA) : Field := { opd := opd9 f.a, role := .usrc, strict := f.strict.getLsbD 0 }

/-- A sub-format A form that uses D, A or B, with the given fields. -/
def sysA (f : FmtA) (useD useA useB priv : Bool) (fields : List Field) : Shape :=
  { opcodeBad := badA f useD useA useB false false false false || f.ty != 0, fields := fields, priv := priv, gov := false }

/-- `lfirst.bc` (R431). -/
def lfirstBcEff (f : FmtA) (c : Ctx) (s : State) : Res :=
  let x : Word := if c.em = 0 then 0 else read32 c.blk c.warp c.ref.wi (opd9 f.a) (lowLane c.em)
  .done (writeK c (opd9 f.d) 1 (x.setWidth 128) s)
/-- The shape of `lfirstBc`. -/
def lfirstBcShape (f : FmtA) : Shape :=
  sysA f true true false false [udstFld (opd9 f.d) 1, { opd := opd9 f.a, role := .vsrc, strict := f.strict.getLsbD 0 }]

def lfirstBcIssue (i : Instr) (f : FmtA) (s : State) :
    Host.Outcome State Fault Refusal :=
  issue i (lfirstBcShape f)
    noPre (lfirstBcEff f) s

/-! ### `glaunch` (R433) -/

/-- MISALIGN, OWNER_BAD and the other precise faults of the record's address. -/
def recordPre (x : Opd) : Ctx → State → Option Flt := fun c s =>
  let va := pairVal c x
  (laneCodes s c.blk va 128 false true c.warp.priv).foldl (fun m e =>
    lowerFault m (some { code := e, lanes := c.m, addr := va, pc := c.fpc })) none

/-- The first stage: the path waits while the record is read. -/
def glaunchEff (x : Opd) (c : Ctx) (s : State) : Res :=
  let (t, s1) := addPend s { basePend c with kind := .record, need := 0, aux := [(0, pairVal c x)] }
  .hold s1 (.record t none)

/-- What the record's read meets. -/
inductive RecAns where
  | bytes (bs : List Byte)
  | log (code : BitVec 8)
  | bad (code : BitVec 8)
  | busy
  deriving DecidableEq, Repr

/-- The 128 bytes of a launch record, as one strong read of a warp. R193 places the record in class-0 memory and names no outcome for
another: a record on a class-2 or class-3 page, or in the slice, is read as a load would read it (log 71). -/
def recordRead (s : State) (b : Block) (w : Warp) (va : DWord) : RecAns × State :=
  let wf := waferOf (dkOfCk b.core)
  if ownerOf va = 62 then
    (match sliceOff b (offsetOf va) with | some o => .bytes (memRead b.slice o 128) | none => .bad codeScratch, s)
  else if ownerOf va = 61 ∧ podReach s wf (podWafer va) = false then (.bad codeLinkDown, s)
  else
    let (dk, off) := translator wf va
    if heldAtOwner s dk off then (.busy, s)
    else match translate s wf va .read w.priv w.secure with
      | (.error e, s1) => (if e = codeNoPage ∨ e = codePerm then .log e else .bad e, s1)
      | (.ok x, s1) =>
        if x.host then (.bytes (memRead s1.mem x.addr 128), s1)
        else if x.attr.cls = 1 then (.bad codeHeapClass, s1)
        else if frameSecure s1 x.addr ≠ w.secure then (.bad codeWorld, s1)
        else if winNeeds s1 x.addr 128 false ≠ [] then
          (.busy, addSnoops s1 (x.addr / 2 ^ 52 % 16) (winNeeds s1 x.addr 128 false) false)
        else if s1.poisoned x.addr 128 then (.bad codeEcc, s1)
        else let (bs, s2) := s1.unitRead x.addr 128; (.bytes bs, s2)

/-- Whether the read may be performed: the warp's earlier strong reads and acquires, and the core's earlier accesses and
buffered stores of the line, are done (R160, R169). -/
def recordReady (s : State) (b : Block) (p : Pend) (va : DWord) : Bool :=
  !(s.core b.core).wbHas (vlineOf va) &&
  !s.reqs.any (fun q => q.core == b.core && decide (q.id < p.tag) && q.stage.isOpen && q.kind != .prefetch &&
    (vlineOf q.va == vlineOf va || (q.threads.any (fun t => t.1 == p.bid && t.2.1 == p.wi) && (q.acqWide || (q.strong && q.kind.reads))))) &&
  !lanes32.any (fun l => loggedBefore s p.tag (p.bid, p.wi, l, p.tag))

/-- Whether a waiting path could issue now: no handler in the other slot, no halt, no full log. -/
def mayGoOn (b : Block) (w : Warp) (slot : Nat) : Bool :=
  !w.done && w.logWait.isEmpty && (!w.inTrap || slot == w.trapSlot) &&
  (match b.phase with | .running => true | .wantSave _ => true | _ => false)

/-- The second stage: the instruction issues, D becomes empty, and the launch sets out for its root. -/
def recordLeaves (s : State) (r : PathRef) (b : Block) (w : Warp) (p : Pend) (va : DWord) (bs : List Byte) : State :=
  let d := dstOf (opd9 (p.enc.extractLsb' 11 9)) 2
  if d.regs'.any w.isEmpty then s
  else
    let t := s.nextId
    let l : Launch := { tok := t, bytes := bs, addr := va, dk := dkOfCk b.core, secure := w.secure, priv := w.priv,
                        scope := some ((p.enc.extractLsb' 2 9).toNat - 0x150), tag := some p.tag,
                        path := some (r.bid, r.wi, (match w.slots[r.slot]? with | some sl => sl.path.mask | none => 0)), queue := none,
                        reject := false }
    let s1 : State := { s with launches := s.launches ++ [l], nextId := t + 1 }
    let s2 := (s1.send (.launch t)).updPend p.tag (fun p => { p with kind := .launch, dst := d, need := 1, aux := [] })
    s2.updWarp r.bid r.wi (fun w => (w.markEmpty d.regs').goOn r.slot 8)

/-- GLAUNCH_ISSUE: the record is read; the instruction issues, waits at the pager or raises its fault. -/
def recordIssue (s : State) (r : PathRef) : State :=
  match s.block? r.bid, s.warp? r.bid r.wi, s.slot? r with
  | some b, some w, some sl =>
    (match sl.wait with
    | .record tag _ =>
      (match s.pend? tag with
      | none => s
      | some p =>
        let va := p.aux.get 0 0
        let flt (e : BitVec 8) : Flt := { code := e, lanes := sl.path.mask, addr := va, pc := p.pc }
        if mayGoOn b w r.slot = false ∨ (p.aux.get? 1).isSome = true ∨ recordReady s b p va = false then s
        else match p.aux.get? 2 with
          | some e => takeFault (s.dropPend tag) r (flt (e.setWidth 8))
          | none => match recordRead s b w va with
            | (.busy, s1) => s1
            | (.bad e, s1) => takeFault (s1.dropPend tag) r (flt e)
            | (.log e, s1) =>
              let (t, s2) := sendRecord s1 (faultDk (waferOf (dkOfCk b.core)) va) (warpRecord b w va e 0 0xFF sl.path.mask)
                (.record r.bid r.wi r.slot e)
              s2.updPend tag (fun p => { p with aux := p.aux.set 1 (BitVec.ofNat 64 t) })
            | (.bytes bs, s1) =>
              if w.secure = false ∧ 56 ≤ (parseLaunch bs).prio then takeFault (s1.dropPend tag) r (flt codeWorld)
              else recordLeaves s1 r b w p va bs)
    | _ => s)
  | _, _, _ => s

/-- The shape of `glaunch`. -/
def glaunchShape (f : FmtA) : Shape :=
  sysA f true true false false [kPair (opd9 f.d) true true false, kPair (opd9 f.a) false false (f.strict.getLsbD 0)]

def glaunchIssue (i : Instr) (f : FmtA) (s : State) :
    Host.Outcome State Fault Refusal :=
  issue i (glaunchShape f)
    (recordPre (opd9 f.a)) (glaunchEff (opd9 f.a)) s

/-! ### Grids (R434-R437) -/

/-- `gcancel`: the request leaves the core; one that the root would drop does nothing. -/
def gcancelEff (a : Opd) (c : Ctx) (s : State) : Res :=
  match s.grid? (pairVal c a).toNat with
  | some g => if g.lrec.world && !c.warp.secure then .done s else .done (s.send (.cancel g.gid g.rootLvl g.rootKey))
  | none => .done s
/-- The shape of `gcancel`. -/
def gcancelShape (f : FmtA) : Shape :=
  sysA f false true false false [kPair (opd9 f.a) false false (f.strict.getLsbD 0)]

def gcancelIssue (i : Instr) (f : FmtA) (s : State) :
    Host.Outcome State Fault Refusal :=
  issue i (gcancelShape f) noPre (gcancelEff (opd9 f.a)) s

/-- `gpoll`. -/
def gpollEff (d : Opd) (c : Ctx) (s : State) : Res :=
  match d with
  | .p n => .done (if c.em = 0 then s else writePred c (.p n) (fun _ => c.blk.cancel) s)
  | _ => .done (writeK c d 1 (if c.blk.cancel then 1 else 0) s)
/-- The shape of `gpoll`. -/
def gpollShape (f : FmtA) : Shape :=
  sysA f true false false false [{ opd := opd9 f.d, role := .udstOrPred, dst := true }]

def gpollIssue (i : Instr) (f : FmtA) (s : State) :
    Host.Outcome State Fault Refusal :=
  issue i (gpollShape f) noPre (gpollEff (opd9 f.d)) s

/-- The count that `gstat` selects, at the Arbor of the core's present domain. -/
def gstatCount (s : State) (c : Ctx) (sel : Nat) : Nat :=
  match s.grid? c.blk.gid with
  | none => 0
  | some g =>
    let x := g.arbors.get .zero (dkOfCk c.blk.core)
    match sel with | 0 => x.dealt | 1 => x.started | 2 => x.retired | _ => x.discarded
/-- The shape of `gstat`. -/
def gstatShape (f : FmtA) : Shape :=
  { opcodeBad := badA f true false false false true false false || f.ty != 0 || decide (3 < f.c.toNat),
            fields := [kPair (opd9 f.d) false true false], gov := false }

def gstatIssue (i : Instr) (f : FmtA) (s : State) :
    Host.Outcome State Fault Refusal :=
  issue i (gstatShape f) noPre
    (fun c s => .done (arriveUni c .reg (dstOf (opd9 f.d) 2) [(0, BitVec.ofNat 128 (gstatCount s c f.c.toNat))] s).2) s

/-- `ghint`: a domain that a later offer may take, or none. -/
def ghintEff (a : Opd) (c : Ctx) (s : State) : Res :=
  let x := uniVal c a
  let d := x.toNat % 64
  let ok := x.getLsbD 6 && decide (d < 56) && (s.domain (mkDk (waferOf (dkOfCk c.blk.core)) d)).up && c.blk.lrec.scope != 0
  .done (s.updBlock c.ref.bid (fun b => { b with hint := if ok then some d else none }))
/-- The shape of `ghint`. -/
def ghintShape (f : FmtA) : Shape :=
  sysA f false true false false [aUni f]

def ghintIssue (i : Instr) (f : FmtA) (s : State) :
    Host.Outcome State Fault Refusal :=
  issue i (ghintShape f) noPre (ghintEff (opd9 f.a)) s

/-- The fault that `gfault` passes on. -/
def gfaultOf (c : Ctx) (x : Word) : Flt :=
  let n := x.toNat % 256
  let code : BitVec 8 := if 0x01 ≤ n ∧ n ≤ 0x16 then BitVec.ofNat 8 n else codeTrap
  let k := c.warp.csr
  if c.warp.inTrap then
    { code := code, kind := (k.faultcode.extractLsb' 8 2).toNat, lanes := k.faultlanes, addr := k.faultaddr, pc := k.faultpc }
  else { code := code, lanes := c.em, addr := 0, pc := c.pc }
/-- The shape of `gfault`. -/
def gfaultShape (f : FmtA) : Shape :=
  sysA f false true false false [aUni f]

def gfaultIssue (i : Instr) (f : FmtA) (s : State) :
    Host.Outcome State Fault Refusal :=
  issue i (gfaultShape f) noPre
    (fun c s => .own (recordFault s c.ref.bid c.ref.wi (gfaultOf c (uniVal c (opd9 f.a))))) s

/-- The shape of `gid`. -/
def gidShape (f : FmtA) : Shape :=
  sysA f true false false false [kPair (opd9 f.d) false true false]

/-- `gid`. -/
def gidIssue (i : Instr) (f : FmtA) (s : State) :
    Host.Outcome State Fault Refusal :=
  issue i (gidShape f) noPre
    (fun c s => .done (writeK c (opd9 f.d) 2 (BitVec.ofNat 128 c.blk.gid) s)) s

/-! ### Control and status registers (R82-R94, R438, R439) -/

/-- The numbers below 0x40 that name a register (R82). -/
def csrListed (n : Nat) : Bool := decide (n ≤ 0x0E) || [0x10, 0x12, 0x13, 0x14, 0x15, 0x18, 0x19, 0x1C].contains n

def Warp.withCsr (w : Warp) (f : Csr → Csr) : Warp := { w with csr := f w.csr }

/-- A 64-bit register read in halves with a latch (R84): the low half latches the high one. -/
def csrLatched (x : DWord) (high : Bool) (latch : Option Word) (set : Option Word → Csr → Csr) : Word × (Csr → Csr) :=
  if high then (latch.getD (hiWord x), id) else (loWord x, set (some (hiWord x)))

/-- A register below 0x40 as a read by the warp finds it, and what the read does to the latches (R82, R84, R91-R94). -/
def csrValue (s : State) (c : Ctx) (n : Nat) : Word × (Csr → Csr) :=
  let wf := s.wafer (waferOf (dkOfCk c.blk.core))
  let k := c.warp.csr
  let world := worldNum c.warp.secure
  match n with
  | 0x0C => (boolWord c.blk.cancel ||| (boolWord c.blk.lrec.kill <<< 1), id)
  | 0x0D => (wordOf (c.blk.ilockedBytes + (if c.blk.ilockShort then 65536 else 0)), id)
  | 0x12 => csrLatched (wf.heapBase.get 0 world) false k.heapBaseLatch (fun l k => { k with heapBaseLatch := l })
  | 0x13 => csrLatched (wf.heapBase.get 0 world) true k.heapBaseLatch (fun l k => { k with heapBaseLatch := l })
  | 0x14 => csrLatched (wf.heapLimit.get 0 world) false k.heapLimitLatch (fun l k => { k with heapLimitLatch := l })
  | 0x15 => csrLatched (wf.heapLimit.get 0 world) true k.heapLimitLatch (fun l k => { k with heapLimitLatch := l })
  | 0x18 => csrLatched (coreCycle s c.blk.core) false k.cycleLatch (fun l k => { k with cycleLatch := l })
  | 0x19 => csrLatched (coreCycle s c.blk.core) true k.cycleLatch (fun l k => { k with cycleLatch := l })
  | 0x1C => (boolWord (s.core c.blk.core).schedmode, id)
  | n => (csrImage s c.blk c.warp n, id)
where
  coreCycle (s : State) (ck : Nat) : DWord := BitVec.ofNat 64 s.clock + (s.core ck).cycleBase

/-- A read of any number: the value and the state with the latches as the read leaves them. -/
def csrRead (s : State) (c : Ctx) (n : Nat) : Word × State :=
  if n < 0x40 then
    if n = 0x10 then
      let (g, s1) := goodColour s c.blk.core c.warp.secure
      (g.setWidth 32, s1)
    else
      let (x, f) := csrValue s c n
      (x, s.updWarp c.ref.bid c.ref.wi (fun w => w.withCsr f))
  else (coreRead s c.blk.core (4 * (n - 0x40)) c.warp.secure, s)

/-- KEEP goes with any write of FAULTPC or FAULTPCH (R304). -/
def Warp.dropKeep (w : Warp) : Warp := { w with slots := w.slots.map (fun sl => { sl with susp := sl.susp &&& 0x7FFF }) }

/-- The registers of the warp that software may write, with their writable bits (R82, R87, R89). -/
def csrPut (n : Nat) (x : Word) (w : Warp) : Warp :=
  match n with
  | 0x01 => w.withCsr (fun k => { k with fpmode := x &&& 0x7FF })
  | 0x02 => w.withCsr (fun k => { k with faultcode := x &&& 0x3FF })
  | 0x04 => (w.withCsr (fun k => { k with faultpc := withLo k.faultpc x })).dropKeep
  | 0x05 => (w.withCsr (fun k => { k with faultpc := withHi k.faultpc x })).dropKeep
  | 0x0E => w.withCsr (fun k => { k with faultem := x })
  | _ => w

/-- A write of any number. -/
def csrWrite (s : State) (c : Ctx) (n : Nat) (x : Word) : State :=
  if n = 0x1C then schedWrite s c.blk.core x
  else if n < 0x40 then s.updWarp c.ref.bid c.ref.wi (csrPut n x)
  else coreWrite s c.blk.core (4 * (n - 0x40)) x c.warp.secure

/-- The number that IMM32 names. -/
def csrNum (f : FmtB) : Nat := (f.imm.extractLsb' 0 16).toNat

/-- The shape of a register access: an unlisted number is ILLEGAL_OPERAND, one of the aperture and a write of SCHEDMODE are
PRIV in user mode, one beyond the aperture is ILLEGAL_OPERAND in privileged mode (R83, R438). -/
def csrShape (f : FmtB) (write priv : Bool) : Shape :=
  let n := csrNum f
  let bad := (decide (n < 0x40) && !csrListed n) || (decide (0x140 ≤ n) && priv)
  { opcodeBad := (f.imm.extractLsb' 16 16) != 0 || f.ty != 0 || (if write then f.d != 0 else f.a != 0),
    fields := (if bad then [({ opd := .rsv, role := .usrc } : Field)] else []) ++
              (if write then [({ opd := opd9 f.a, role := .vusrc } : Field)] else [udstFld (opd9 f.d) 1]),
    priv := decide (0x40 ≤ n) || (write && n == 0x1C), gov := false }

/-- Whether the issuing warp is privileged. -/
def curPriv (i : Instr) (s : State) : Bool := match ctx? i s with | some c => c.warp.priv | none => false

/-- The source of a register write (R439). -/
def csrSource (f : FmtB) (c : Ctx) : Word := read32 c.blk c.warp c.ref.wi (opd9 f.a) (lowLane c.em)

/-- An access to the executing core's block is one of the aperture, and waits for the warp's earlier ones (R95, R96). -/
def csrHeld (f : FmtB) (c : Ctx) (s : State) : Bool := decide (0x40 ≤ csrNum f) && apertureOpen s c.ref.bid c.ref.wi s.nextId

def csrrIssue (i : Instr) (f : FmtB) (s : State) : Host.Outcome State Fault Refusal :=
  issue i (csrShape f false (curPriv i s)) noPre
    (fun c s =>
      if csrHeld f c s then .wait (.retry false) else
      let (x, s1) := csrRead s c (csrNum f)
      .done (arriveUni c .reg (dstOf (opd9 f.d) 1) [(0, x.setWidth 128)] s1).2) s

/-- `csrw`, `csrs` and `csrc`: `g` gives the new value of the old one and x. -/
def csrwIssue (i : Instr) (reads : Bool) (g : Word → Word → Word) (f : FmtB) (s : State) : Host.Outcome State Fault Refusal :=
  issue i (csrShape f true (curPriv i s)) noPre
    (fun c s =>
      if csrHeld f c s then .wait (.retry false) else
      let (old, s1) := if reads then csrRead s c (csrNum f) else (0, s)
      .done (csrWrite s1 c (csrNum f) (g old (csrSource f c)))) s

/-! ### Return from a handler (R440) -/

/-- The path goes on at FAULTPC with the lanes of FAULTEM it still holds, the suspended reach in force if KEEP is set. -/
def trapReturn (w : Warp) (slot : Nat) (em : Word) : Warp :=
  let t := w.csr.faultpc &&& ~~~1#64
  let w1 := leaveLoops (w.withCsr (fun k => { k with status := setBit k.status 0 false })) t
  { w1 with slots := w1.slots.modify slot (fun sl =>
      { sl with path := { sl.path with pc := t, mask := em }, susp := 0,
                reach := if sl.susp.getLsbD 15 then sl.susp &&& 0x7FFF else 0 }) }

def tretEff (c : Ctx) (s : State) : Res :=
  let em := c.warp.csr.faultem &&& c.em
  if c.warp.inTrap = false then .done s
  else if c.warp.heldFx then .wait (.retry false)
  else if em = 0 then
    if otherPath c.warp c.ref.slot then
      withSpill c 0 c.warp.spill.length s (fun s1 => .own (endLanes s1 c.ref.bid c.ref.wi c.em))
    else .own (endLanes s c.ref.bid c.ref.wi c.em)
  else .own ((s.updWarp c.ref.bid c.ref.wi (fun w =>
      { trapReturn w c.ref.slot em with exited := w.exited ||| (c.em &&& ~~~em) })).undefL c.ref.bid c.ref.wi)

/-- The shape of `tret`. -/
def tretShape (f : FmtA) : Shape :=
  sysA f false false false false []

def tretIssue (i : Instr) (f : FmtA) (s : State) :
    Host.Outcome State Fault Refusal :=
  issue i (tretShape f) noPre tretEff s

/-! ### `wswitch` (R441) -/

/-- Whether everything a warp has started is complete: accesses, log, matrix operations, engine commands. -/
def warpQuiet (s : State) (c : Ctx) : Bool :=
  !fenceWaits .system c s && c.warp.logCount == 0 &&
  !s.reqs.any (fun q => q.kind != .prefetch && q.kind != .fetch && q.threads.any (fun t => t.1 == c.ref.bid && t.2.1 == c.ref.wi)) &&
  !(s.core c.blk.core).matq.any (fun m => m.bid == c.ref.bid && m.wi == c.ref.wi) && engLeft s c.warp.engCmds == 0

def wswitchPre (a : Opd) : Ctx → State → Option Flt := fun c _ =>
  if (uniVal c a).getLsbD 0 && !c.blk.lrec.world then some (plainFault c codeWorld) else none

def wswitchEff (a : Opd) (c : Ctx) (s : State) : Res :=
  if warpQuiet s c then
    .done ((acquireL1 s c.blk.core).updWarp c.ref.bid c.ref.wi (fun w =>
      w.withCsr (fun k => { k with status := setBit k.status 1 ((uniVal c a).getLsbD 0) })))
  else .wait (.retry false)

/-- The shape of `wswitch`. -/
def wswitchShape (f : FmtA) : Shape :=
  sysA f false true false true [aUni f]

def wswitchIssue (i : Instr) (f : FmtA) (s : State) :
    Host.Outcome State Fault Refusal :=
  issue i (wswitchShape f) (wswitchPre (opd9 f.a)) (wswitchEff (opd9 f.a)) s

/-! ### The instruction cache (R446) -/

/-- `ilock`: the range is listed and its lines are locked. -/
def ilockEff (d a b : Opd) (c : Ctx) (s : State) : Res :=
  let bid := c.ref.bid
  let lo := vaddr (pairVal c a)
  let n := (uniVal c b).toNat
  if 8 ≤ c.blk.ilocks.length then .done (writeK c d 1 0 (s.updBlock bid (fun b => { b with ilockShort := true })))
  else
    let vls := codeLines lo n
    let (s1, again) := lockLines s c.blk.core bid vls c.warp.secure c.warp.priv
    if again then .hold s1 (.retry false)
    else
      let got := lockedOf (s1.core c.blk.core) bid vls
      let s2 := noteLocked (s1.updBlock bid (fun b => { b with ilocks := b.ilocks ++ [(lo, n)], ilockShort := decide (got < vls.length) })) bid
      .done (writeK c d 1 (BitVec.ofNat 128 (128 * got)) s2)

/-- Whether two ranges share a line: a range is every line that holds a byte of it (R446). -/
def rangesMeet (x y : Nat × Nat) : Bool :=
  decide (0 < x.2) && decide (0 < y.2) && decide (x.1 / 128 ≤ (y.1 + y.2 - 1) / 128) && decide (y.1 / 128 ≤ (x.1 + x.2 - 1) / 128)

/-- `iunlock`: the listed ranges that overlap go; with A and B both zero, every one. -/
def iunlockEff (d a b : Opd) (c : Ctx) (s : State) : Res :=
  let bid := c.ref.bid
  let all := a == .zero && b == .zero
  let gone (r : Nat × Nat) : Bool := all || rangesMeet (vaddr (pairVal c a), (uniVal c b).toNat) r
  let kept := c.blk.ilocks.filter (fun r => !gone r)
  let s1 := s.updCore c.blk.core (fun k => k.unlockLines bid (fun vl => !kept.any (fun r => (codeLines r.1 r.2).contains vl)))
  let s2 := noteLocked (s1.updBlock bid (fun b => { b with ilocks := kept })) bid
  let n := match s2.block? bid with | some b => b.ilockedBytes | none => 0
  .done (writeK c d 1 (BitVec.ofNat 128 n) s2)

/-- `iprefetch`: the lines of the first 64 KiB of the range that can be fetched. -/
def iprefetchEff (a b : Opd) (c : Ctx) (s : State) : Res :=
  let vls := codeLines (vaddr (pairVal c a)) (min (uniVal c b).toNat 65536)
  .done (vls.foldl (fun s vl => (bringLine s c.blk.core (lineVa vl) c.warp.secure c.warp.priv).1) s)

/-- The shape of `iprefetch`. -/
def iprefetchShape (f : FmtA) : Shape :=
  sysA f false true true false [aPair f, bUni f]

/-- The shape of `iunlock`. -/
def iunlockShape (f : FmtA) : Shape :=
  sysA f true true true false
      [udstFld (opd9 f.d) 1, kPair (opd9 f.a) true false (f.strict.getLsbD 0), bUni f]

/-- The shape of `ilock`. -/
def ilockShape (f : FmtA) : Shape :=
  sysA f true true true false [udstFld (opd9 f.d) 1, aPair f, bUni f]

def ilockIssue (i : Instr) (f : FmtA) (s : State) :
    Host.Outcome State Fault Refusal :=
  issue i (ilockShape f) noPre (ilockEff (opd9 f.d) (opd9 f.a) (opd9 f.b)) s
def iunlockIssue (i : Instr) (f : FmtA) (s : State) :
    Host.Outcome State Fault Refusal :=
  issue i (iunlockShape f) noPre
    (iunlockEff (opd9 f.d) (opd9 f.a) (opd9 f.b)) s
def iprefetchIssue (i : Instr) (f : FmtA) (s : State) :
    Host.Outcome State Fault Refusal :=
  issue i (iprefetchShape f) noPre (iprefetchEff (opd9 f.a) (opd9 f.b)) s

/-! ### Halt and counters (R447, R448) -/

/-- The shape of `perf`. -/
def perfShape (f : FmtA) : Shape :=
  sysA f true true false false [kPair (opd9 f.d) false true false, aUni f]

/-- The shape of `halt`. -/
def haltShape (f : FmtA) : Shape :=
  sysA f false false false true []

def haltIssue (i : Instr) (f : FmtA) (s : State) :
    Host.Outcome State Fault Refusal :=
  issue i (haltShape f) noPre (fun c s => .own (debugBreak (advance c s) c.ref)) s

def perfIssue (i : Instr) (f : FmtA) (s : State) :
    Host.Outcome State Fault Refusal :=
  issue i (perfShape f) noPre
    (fun c s =>
      let p := (s.core c.blk.core).perfs.get .init ((uniVal c (opd9 f.a)).toNat % 4)
      .done (arriveUni c .reg (dstOf (opd9 f.d) 2) [(0, p.cnt.setWidth 128)] s).2) s

/-! ### The meanings -/

/-- GLAUNCH_ISSUE (R433). -/
def execGlaunchIssue (s : State) : Host.Outcome State Fault Refusal :=
  event (fun a s => recordIssue s { bid := a.k, wi := a.i, slot := a.j }) s
/-- `bar.arrive` (R427, R428). -/
def execBarArrive (s : State) : Host.Outcome State Fault Refusal := withL32 s (fun f => barArriveIssue .barArrive (barOf f) f s)
/-- `bar.wait` (R427, R428). -/
def execBarWait (s : State) : Host.Outcome State Fault Refusal := withL32 s (fun f => barWaitIssue .barWait (barOf f) f s)
/-- `bar.sync` (R427, R428). -/
def execBarSync (s : State) : Host.Outcome State Fault Refusal := withL32 s (fun f => barSyncIssue .barSync (barOf f) f s)
/-- `bar.reset` (R427, R428). -/
def execBarReset (s : State) : Host.Outcome State Fault Refusal := withL32 s (fun f => barResetIssue .barReset (barOf f) f s)
/-- `gbar` (R430). -/
def execGbar (s : State) : Host.Outcome State Fault Refusal := withL32 s (fun f => barSyncIssue .gbar gangBar f s)
/-- `gbar.arrive` (R430). -/
def execGbarArrive (s : State) : Host.Outcome State Fault Refusal := withL32 s (fun f => barArriveIssue .gbarArrive gangBar f s)
/-- `gbar.wait` (R430). -/
def execGbarWait (s : State) : Host.Outcome State Fault Refusal := withL32 s (fun f => barWaitIssue .gbarWait gangBar f s)
/-- `lfirst.bc` (R431). -/
def execLfirstBc (s : State) : Host.Outcome State Fault Refusal := withA s (fun f => lfirstBcIssue .lfirstBc f s)
/-- `glaunch.domain` (R433). -/
def execGlaunchDomain (s : State) : Host.Outcome State Fault Refusal := withA s (fun f => glaunchIssue .glaunchDomain f s)
/-- `glaunch.wafer` (R433). -/
def execGlaunchWafer (s : State) : Host.Outcome State Fault Refusal := withA s (fun f => glaunchIssue .glaunchWafer f s)
/-- `glaunch.pod` (R433). -/
def execGlaunchPod (s : State) : Host.Outcome State Fault Refusal := withA s (fun f => glaunchIssue .glaunchPod f s)
/-- `gcancel` (R434). -/
def execGcancel (s : State) : Host.Outcome State Fault Refusal := withA s (fun f => gcancelIssue .gcancel f s)
/-- `gpoll` (R435). -/
def execGpoll (s : State) : Host.Outcome State Fault Refusal := withA s (fun f => gpollIssue .gpoll f s)
/-- `gstat` (R435). -/
def execGstat (s : State) : Host.Outcome State Fault Refusal := withA s (fun f => gstatIssue .gstat f s)
/-- `ghint` (R436). -/
def execGhint (s : State) : Host.Outcome State Fault Refusal := withA s (fun f => ghintIssue .ghint f s)
/-- `gfault` (R437). -/
def execGfault (s : State) : Host.Outcome State Fault Refusal := withA s (fun f => gfaultIssue .gfault f s)
/-- `gid` (R435). -/
def execGid (s : State) : Host.Outcome State Fault Refusal := withA s (fun f => gidIssue .gid f s)
/-- `csrr` (R438, R439). -/
def execCsrr (s : State) : Host.Outcome State Fault Refusal := withB s (fun f => csrrIssue .csrr f s)
/-- `csrw` (R438, R439). -/
def execCsrw (s : State) : Host.Outcome State Fault Refusal := withB s (fun f => csrwIssue .csrw false (fun _ x => x) f s)
/-- `csrs` (R438, R439). -/
def execCsrs (s : State) : Host.Outcome State Fault Refusal := withB s (fun f => csrwIssue .csrs true (fun o x => o ||| x) f s)
/-- `csrc` (R438, R439). -/
def execCsrc (s : State) : Host.Outcome State Fault Refusal := withB s (fun f => csrwIssue .csrc true (fun o x => o &&& ~~~x) f s)
/-- `tret` (R440). -/
def execTret (s : State) : Host.Outcome State Fault Refusal := withA s (fun f => tretIssue .tret f s)
/-- `wswitch` (R441). -/
def execWswitch (s : State) : Host.Outcome State Fault Refusal := withA s (fun f => wswitchIssue .wswitch f s)
/-- `ilock` (R446). -/
def execIlock (s : State) : Host.Outcome State Fault Refusal := withA s (fun f => ilockIssue .ilock f s)
/-- `iunlock` (R446). -/
def execIunlock (s : State) : Host.Outcome State Fault Refusal := withA s (fun f => iunlockIssue .iunlock f s)
/-- `iprefetch` (R446). -/
def execIprefetch (s : State) : Host.Outcome State Fault Refusal := withA s (fun f => iprefetchIssue .iprefetch f s)
/-- `halt` (R447). -/
def execHalt (s : State) : Host.Outcome State Fault Refusal := withA s (fun f => haltIssue .halt f s)
/-- `perf` (R448). -/
def execPerf (s : State) : Host.Outcome State Fault Refusal := withA s (fun f => perfIssue .perf f s)

end Sys2Proof.Machine
end

