-- ==== Sys2Proof/Machine/Bringup.lean ====
section
/-!
DEFINITION. Bring-up and reduced service (R489, R490, R493-R496), attestation (R491, R492), power loss, and the Safelight's step
boundary with the end of reduced service (R225, R494).
-/

namespace Sys2Proof.Machine

/-! ### Firmware verification (R489, R490) -/

/-- Whether a domain's boot ROM accepts its image: the signature verifies, and the version is not below the fused minimum. -/
def verified (s : State) (dk : Nat) : Bool :=
  (s.domain dk).fwOk && decide ((s.wafer (waferOf dk)).minVersion ≤ (s.domain dk).fwVersion)

/-! ### What D0's firmware builds (R248-R250, R261, R262) -/

/-- A number's bytes. -/
def le (n x : Nat) : List Byte := bytesOfNat n x

/-- The bays of a domain that have an enabled core, one bit each. -/
def bayBits (s : State) (dk : Nat) : Nat :=
  (List.range Config.bays).foldl (fun n b => if bayOn s (mkBk dk b) then n + 2 ^ b else n) 0

/-- A domain entry of the topology table; `own` holds firmware's ROOT, SFTBASE, HOTBASE and HOSTROOT. -/
def domEntry (s : State) (w d : Nat) (own : List Byte) : List Byte :=
  let dk := mkDk w d
  le 1 d ++ le 1 (coreCount s dk) ++ le 1 (bayBits s dk) ++ le 1 0 ++ le 8 (s.domain dk).mask.toNat ++ le 4 0 ++
  le 8 (fld own (24 * d) 8) ++ le 8 (fld own (24 * d + 8) 8) ++ le 8 (fld own (24 * d + 16) 8) ++
  le 8 (if d = 0 then fld own (24 * Config.domains) 8 else 0) ++ le 16 0

/-- The topology table as firmware first writes it: no domain up, no link usable, every distance that of R18. -/
def topoImage (s : State) (w : Nat) (own : List Byte) : List Byte :=
  le 4 1 ++ le 4 0 ++ le 1 w ++ le 1 0 ++ le 2 (waferCores s w) ++ le 4 0 ++ le 8 0 ++ le 40 0 ++
  (List.range Config.domains).flatMap (fun d => domEntry s w d own) ++
  (List.range 32).flatMap (fun n => le 2 0 ++ le 1 (if ((s.wafer w).links.get .init n).present then 1 else 0) ++ le 13 0) ++
  le (8192 - 0x1040) 0

/-- The header of a capability entry. -/
def capHead (id len next : Nat) : List Byte := le 2 id ++ le 1 1 ++ le 1 0 ++ le 2 len ++ le 2 next

/-- The capability list: DEVICE, PODLINKS, HEAP, CXLWIN, NUMFMT, PAIR and EXPRESS (R262); the feature level is 3 (R453). -/
def capImage (s : State) (w : Nat) : List Byte :=
  capHead 1 32 0x20 ++ le 2 0x3357 ++ le 1 3 ++ le 1 w ++ le 2 (waferCores s w) ++ le 2 900 ++ le 8 (2 ^ 63) ++ le 8 0 ++
  capHead 2 16 0x30 ++ le 2 0 ++ le 2 (s.wafer w).podmap.toNat ++ le 4 0 ++
  capHead 3 16 0x40 ++ le 1 16 ++ le 1 4 ++ le 1 255 ++ le 1 16 ++ le 4 0 ++
  capHead 4 16 0x50 ++ le 1 0 ++ le 1 28 ++ le 6 0 ++
  capHead 5 16 0x60 ++ le 1 7 ++ le 7 0 ++
  capHead 6 8 0x68 ++
  capHead 7 16 0 ++ le 1 3 ++ le 1 64 ++ le 6 0

/-- POWER_ON: the wafer has power; when D0's image verifies, its firmware writes the table and the list, at the places and with the
table pointers that the event names, and every unit loads the table (log 11). -/
def powerOn (s : State) (w topo cap : Nat) (own : List Byte) : State :=
  if (s.wafer w).powered ∨ Config.wafers ≤ w then s
  else
    let s1 := s.updWafer w (fun x => { x with powered := true, reduced := true, rotorBase := s.safelightSteps })
    if verified s1 (mkDk w 0) = false then s1
    else
      let place (n : Nat) : DWord := BitVec.ofNat 64 (4096 * n % 2 ^ 35)
      let s2 := s1.updWafer w (fun x => { x with number := w, topobase := place topo, capbase := place cap })
      let s3 := s2.unitWrite (topoAddr s2 w 0) (topoImage s2 w own)
      let s4 := s3.unitWrite (devAddr w (s3.wafer w).capbase.toNat) (capImage s3 w)
      topoReload s4 w

/-! ### Domains come up (R493, R495) -/

/-- The hotness backing table zeroed (R254). -/
def zeroHot (s : State) (dk : Nat) : State :=
  let s1 := s.updDomain dk (fun d => { d with hot := [] })
  match hotTable s dk with
  | none => s1
  | some a =>
    let inTab (x : Nat) : Bool := decide (a ≤ x) && decide (x < a + 2 ^ 26)
    { s1 with mem := s1.mem.filter (fun c => !inTab c.1), poison := s1.poison.filter (fun p => !inTab (32 * p)) }

/-- DOMAIN_UP: a verified domain, D0 before the others, sets its UP bit, writes DEVICE.STATE and publishes its free-core count. -/
def domainUp (s : State) (dk : Nat) : State :=
  let w := waferOf dk
  if (s.wafer w).powered = false ∨ Config.domains ≤ domOf dk ∨ (s.domain dk).up = true ∨ verified s dk = false ∨
      (domOf dk ≠ 0 ∧ (s.domain (mkDk w 0)).up = false) then s
  else
    let s1 := (zeroHot s dk).updDomain dk (fun d => { d with up := true, replicas := fetchReplicas s w })
    let s2 := topoWrite s1 w 0x10 (bytesOfNat 8 (upWord s1 w))
    (writeState s2 w).send (.publish dk (freeCount s2 dk))

/-! ### Reduced service (R494, R496) -/

/-- Whether reduced service ends at this step boundary: every domain is up, and firmware does not hold it. -/
def reducedOver (s : State) (w : Nat) : Bool :=
  let x := s.wafer w
  x.powered && x.reduced && !x.heldReduced && (domainsOf w).all (fun dk => (s.domain dk).up)

/-- A wafer enters or leaves reduced service: STATUS.REDUCED, the duty cap, DEVICE.STATE and then the clock field. -/
def setReduced (s : State) (w : Nat) (r : Bool) : State :=
  writeClock (writeState (s.updWafer w (fun x => { x with reduced := r })) w) w

/-- REDUCED_SERVICE_END, for every wafer whose turn has come. -/
def reducedEnd (s : State) : State :=
  s.wafers.foldl (fun (t : State) (e : Nat × Wafer) => if reducedOver t e.1 then setReduced t e.1 false else t) s

/-- SAFELIGHT_STEP, at a boundary of the grid of 4 cc (R225, R226). -/
def safelightTurn (s : State) : State := if safelightDue s then safelightStep (reducedEnd s) else s

/-- OUTSIDE_RATED_CONDITIONS: firmware may hold the device in reduced service, or end the hold. -/
def outsideRated (s : State) (w : Nat) (hold : Bool) : State :=
  let s1 := s.updWafer w (fun x => { x with heldReduced := hold })
  if (s.wafer w).powered && hold then (if (s.wafer w).reduced then s1 else setReduced s1 w true) else s1

/-! ### Attestation (R491, R492) -/

/-- Signatures over the life of the part. -/
def otpLimit : Nat := 2 ^ 20

/-- Whether the responder answers: D0's Lodge serves the mailbox of host port 0. -/
def spdmOn (s : State) (w : Nat) : Bool := (s.wafer w).powered && (s.domain (mkDk w 0)).up

/-- An answer: its code, the facts of R492, and what else the message carries (log 12). -/
def spdmAnswer (s : State) (w code : Nat) (facts : List Byte) : State :=
  if spdmOn s w then
    s.updWafer w (fun x => { x with spdmLog := x.spdmLog ++ [(code, facts ++ Config.spdmBytes code x.spdmLog.length)] })
  else s

/-- The error UnsupportedRequest. -/
def spdmRefuse (s : State) (w : Nat) : State :=
  if spdmOn s w then s.updWafer w (fun x => { x with spdmLog := x.spdmLog ++ [(0x7F, [0x07])] }) else s

/-- A signed answer: the next index is read, the counter passes it, and only then is the answer with that index released; with every
index used the request is refused. -/
def spdmSigned (s : State) (w code : Nat) (facts : List Byte) : State :=
  let i := (s.wafer w).otpIndex
  if spdmOn s w = false then s
  else if otpLimit ≤ i then spdmRefuse s w
  else spdmAnswer (s.updWafer w (fun x => { x with otpIndex := i + 1 })) w code (facts ++ bytesOfNat 4 i)

/-- The measurements: the ROM version, each domain's firmware hash and security version, the fused enabled set. -/
def measurements (s : State) (w : Nat) : List Byte :=
  Config.firmwareHash 64 0 ++ (domainsOf w).flatMap (fun dk =>
    Config.firmwareHash (domOf dk) (s.domain dk).fwVersion ++ bytesOfNat 4 (s.domain dk).fwVersion.toNat ++
    bytesOfNat 7 (s.domain dk).mask.toNat)

/-! ### Firmware update and power loss (R490, R491) -/

/-- FIRMWARE_UPDATE: an image that verifies on every up domain is taken there, and then the fused minimum rises to its version. -/
def firmwareUpdate (s : State) (w : Nat) (ver : Word) (ok : Bool) : State :=
  let ups := (domainsOf w).filter (fun dk => (s.domain dk).up)
  if (s.wafer w).powered ∧ ok = true ∧ (s.wafer w).minVersion ≤ ver ∧ ups ≠ [] then
    (ups.foldl (fun s dk => s.updDomain dk (fun d => { d with fwVersion := ver })) s).updWafer w (fun x => { x with minVersion := ver })
  else s

/-- What stands on a wafer, by the keys of units. -/
def onWafer (w dk : Nat) : Bool := waferOf dk == w

/-- The unit of a wafer that a message goes to or comes from. -/
def msgOnWafer (s : State) (w : Nat) : MsgBody → Bool
  | .grant pl dk .. | .probe pl dk .. | .answer pl dk .. | .writeback pl dk .. => onWafer w dk || onWafer w (homeOf (128 * pl))
  | .launch t | .reply t _ => s.launches.any (fun l => l.tok == t && onWafer w l.dk)
  | .unit _ _ _ dk _ | .publish dk _ | .offer _ _ _ dk _ | .ack dk _ | .qinval _ dk _ => onWafer w dk
  | .cancel _ lvl key => if lvl = 0 then onWafer w key else key == w

/-- A domain after power loss: fused facts and the image in flash remain. -/
def Domain.dark (d : Domain) : Domain := { Domain.init with mask := d.mask, fwOk := d.fwOk, fwVersion := d.fwVersion }
/-- A wafer after power loss: fuses, the one-time-programmable counters and the fused-out links remain. -/
def Wafer.dark (x : Wafer) : Wafer :=
  { Wafer.init with otpIndex := x.otpIndex, minVersion := x.minVersion,
                    links := x.links.map (fun e => (e.1, { PodLink.init with present := e.2.present })) }

/-- POWER_LOSS: everything that is held only while powered is lost. -/
def powerLoss (s : State) (w : Nat) : State :=
  let bids := (s.blocks.filter (fun b => onWafer w (dkOfCk b.core))).map (·.bid)
  let lost (a : Nat) : Bool := decide (a < 2 ^ 60) && a / 2 ^ 52 == w
  { s with
    wafers := s.wafers.map (fun e => if e.1 = w then (e.1, e.2.dark) else e),
    domains := s.domains.map (fun e => if onWafer w e.1 then (e.1, e.2.dark) else e),
    bays := s.bays.filter (fun e => !onWafer w (e.1 / 8)),
    cores := s.cores.filter (fun e => !onWafer w (dkOfCk e.1)),
    blocks := s.blocks.filter (fun b => !bids.contains b.bid),
    grids := s.grids.filter (fun g => !(if g.rootLvl = 0 then onWafer w g.rootKey else g.rootKey == w)),
    mem := s.mem.filter (fun c => !lost c.1), poison := s.poison.filter (fun p => !lost (32 * p)),
    reqs := s.reqs.filter (fun r => !onWafer w (dkOfCk r.core)), pends := s.pends.filter (fun p => !bids.contains p.bid),
    msgs := s.msgs.filter (fun m => !msgOnWafer s w m.body), launches := s.launches.filter (fun l => !onWafer w l.dk),
    unitOps := s.unitOps.filter (fun u => !onWafer w u.dk) }

/-! ### The meanings -/

/-- POWER_ON (R489, R493). -/
def execPowerOn (s : State) : Host.Outcome State Fault Refusal := event (fun a s => powerOn s a.k a.i a.j a.data) s
/-- DOMAIN_UP (R489, R493, R495). -/
def execDomainUp (s : State) : Host.Outcome State Fault Refusal := event (fun a s => domainUp s a.k) s
/-- SAFELIGHT_STEP (R225, R494). -/
def execSafelightStep (s : State) : Host.Outcome State Fault Refusal := event (fun _ s => safelightTurn s) s
/-- SPDM_GET_VERSION (R492): version 1.3. -/
def execSpdmGetVersion (s : State) : Host.Outcome State Fault Refusal := event (fun a s => spdmAnswer s a.k 0x04 [0x13]) s
/-- SPDM_GET_CAPABILITIES (R492). -/
def execSpdmGetCapabilities (s : State) : Host.Outcome State Fault Refusal := event (fun a s => spdmAnswer s a.k 0x61 []) s
/-- SPDM_NEGOTIATE_ALGORITHMS (R492): the base hash SHA3-256; the signature algorithm is an extended one. -/
def execSpdmNegotiateAlgorithms (s : State) : Host.Outcome State Fault Refusal := event (fun a s => spdmAnswer s a.k 0x63 [0x08]) s
/-- SPDM_GET_DIGESTS (R492). -/
def execSpdmGetDigests (s : State) : Host.Outcome State Fault Refusal := event (fun a s => spdmAnswer s a.k 0x01 []) s
/-- SPDM_GET_CERTIFICATE (R492). -/
def execSpdmGetCertificate (s : State) : Host.Outcome State Fault Refusal := event (fun a s => spdmAnswer s a.k 0x02 []) s
/-- SPDM_CHALLENGE (R491, R492). -/
def execSpdmChallenge (s : State) : Host.Outcome State Fault Refusal := event (fun a s => spdmSigned s a.k 0x03 []) s
/-- SPDM_GET_MEASUREMENTS (R491, R492): signed where the request asks for it. -/
def execSpdmGetMeasurements (s : State) : Host.Outcome State Fault Refusal :=
  event (fun a s => if a.flag then spdmSigned s a.k 0x60 (measurements s a.k) else spdmAnswer s a.k 0x60 (measurements s a.k)) s
/-- SPDM_UNSUPPORTED (R492). -/
def execSpdmUnsupported (s : State) : Host.Outcome State Fault Refusal := event (fun a s => spdmRefuse s a.k) s
/-- POWER_LOSS (R491). -/
def execPowerLoss (s : State) : Host.Outcome State Fault Refusal := event (fun a s => powerLoss s a.k) s
/-- OUTSIDE_RATED_CONDITIONS (R496). -/
def execOutsideRatedConditions (s : State) : Host.Outcome State Fault Refusal := event (fun a s => outsideRated s a.k a.flag) s
/-- FIRMWARE_UPDATE (R490). -/
def execFirmwareUpdate (s : State) : Host.Outcome State Fault Refusal :=
  event (fun a s => firmwareUpdate s a.k (BitVec.ofNat 32 a.i) a.flag) s

end Sys2Proof.Machine
end

