-- ==== Sys2Proof/Machine/Control.lean ====
section
/-!
DEFINITION. The meanings of the predicate, control, prefix and cross-lane instructions (R302-R305, R338-R355,
R370-R374), one definition each.
-/

namespace Sys2Proof.Machine

/-- `pand`: AND of predicates (R338). -/
def execPand (s : State) : Host.Outcome State Fault Refusal :=
  withA s (fun f => predIssue .pand true (fun a b => a && b) f s)

/-- `por`: OR of predicates (R338). -/
def execPor (s : State) : Host.Outcome State Fault Refusal :=
  withA s (fun f => predIssue .por true (fun a b => a || b) f s)

/-- `pxor`: exclusive or of predicates (R338). -/
def execPxor (s : State) : Host.Outcome State Fault Refusal :=
  withA s (fun f => predIssue .pxor true (fun a b => a != b) f s)

/-- `pandn`: AND NOT of predicates (R338). -/
def execPandn (s : State) : Host.Outcome State Fault Refusal :=
  withA s (fun f => predIssue .pandn true (fun a b => a && !b) f s)

/-- `pnot`: NOT of predicates (R338). -/
def execPnot (s : State) : Host.Outcome State Fault Refusal :=
  withA s (fun f => predIssue .pnot false (fun a _ => !a) f s)

/-- `pmov`: copy of predicates (R338). -/
def execPmov (s : State) : Host.Outcome State Fault Refusal :=
  withA s (fun f => predIssue .pmov false (fun a _ => a) f s)

/-- `pset` (R338). -/
def execPset (s : State) : Host.Outcome State Fault Refusal :=
  withA s (fun f => psetIssue .pset f s)

/-- `pget` (R338). -/
def execPget (s : State) : Host.Outcome State Fault Refusal :=
  withA s (fun f => pgetIssue .pget f s)

/-- `nop` (R350). -/
def execNop (s : State) : Host.Outcome State Fault Refusal :=
  withL32 s (fun f => issue .nop (ctlL f false) noPre (fun _ s => .done s) s)

/-- `exit` (R346, R216). -/
def execExit (s : State) : Host.Outcome State Fault Refusal :=
  withL32 s (fun f => issue .exit (ctlL f false) noPre exitEff s)

/-- `join` (R215). -/
def execJoin (s : State) : Host.Outcome State Fault Refusal :=
  withL32 s (fun f => issue .join (ctlL f false) noPre joinEff s)

/-- `ret` (R345). -/
def execRet (s : State) : Host.Outcome State Fault Refusal :=
  withL32 s (fun f => retIssue .ret f s)

/-- `yield` (R347). -/
def execYield (s : State) : Host.Outcome State Fault Refusal :=
  withL32 s (fun f => issue .yield (ctlL f false) noPre yieldEff s)

/-- `trap`, codes 0-63 (R349). -/
def execTrapL32 (s : State) : Host.Outcome State Fault Refusal :=
  withL32 s (fun f => issue .trapL32 (ctlL f true) noPre (fun c _ => .fault (trapFault c (f.b.setWidth 64))) s)

/-- `bra` (R342, R214). -/
def execBra (s : State) : Host.Outcome State Fault Refusal :=
  withB s (fun f => braIssue .bra f s)

/-- `bra.u` (R343). -/
def execBraU (s : State) : Host.Outcome State Fault Refusal :=
  withB s (fun f => braUniform .braU .usrc (testU f) f s)

/-- `bra.any` (R343). -/
def execBraAny (s : State) : Host.Outcome State Fault Refusal :=
  withB s (fun f => braUniform .braAny .pred (testAny f) f s)

/-- `bra.all` (R343). -/
def execBraAll (s : State) : Host.Outcome State Fault Refusal :=
  withB s (fun f => braUniform .braAll .pred (testAll f) f s)

/-- `bra.idx` (R344). -/
def execBraIdx (s : State) : Host.Outcome State Fault Refusal :=
  withA s (fun f => braIdxIssue .braIdx f s)

/-- `call` (R345). -/
def execCall (s : State) : Host.Outcome State Fault Refusal :=
  withB s (fun f => callIssue .call f s)

/-- `call.idx` (R345). -/
def execCallIdx (s : State) : Host.Outcome State Fault Refusal :=
  withA s (fun f => callIdxIssue .callIdx f s)

/-- `loop` (R351). -/
def execLoop (s : State) : Host.Outcome State Fault Refusal :=
  withB s (fun f => loopIssue .loop f s)

/-- `lcmov` (R355). -/
def execLcmov (s : State) : Host.Outcome State Fault Refusal :=
  withA s (fun f => lcmovIssue .lcmov f s)

/-- `sleep` (R348). -/
def execSleep (s : State) : Host.Outcome State Fault Refusal :=
  withB s (fun f => issue .sleep (ctlB f false true false [usrcFld (opd9 f.a) false]) noPre (sleepEff f) s)

/-- `trap`, codes up to 2^32 - 1 (R349). -/
def execTrap (s : State) : Host.Outcome State Fault Refusal :=
  withB s (fun f => issue .trap (ctlB f false false false []) noPre
    (fun c _ => .fault (trapFault c (f.imm.setWidth 64))) s)

/-- `pblk` (R302-R304). -/
def execPblk (s : State) : Host.Outcome State Fault Refusal :=
  match s.ops with | .pblk f => pblkIssue .pblk f s | _ => .fault .noIssuingPath

/-- `ordp` (R305). -/
def execOrdp (s : State) : Host.Outcome State Fault Refusal :=
  match s.ops with | .ordp f => ordpIssue .ordp f s | _ => .fault .noIssuingPath

/-- Lane read (R371). -/
def execLrdAt (s : State) : Host.Outcome State Fault Refusal :=
  withA s (fun f => lrdIssue .lrdAt 0 f s)

/-- Lane read (R371). -/
def execLrdFlip (s : State) : Host.Outcome State Fault Refusal :=
  withA s (fun f => lrdIssue .lrdFlip 1 f s)

/-- Lane read (R371). -/
def execLrdOff (s : State) : Host.Outcome State Fault Refusal :=
  withA s (fun f => lrdIssue .lrdOff 2 f s)

/-- Lane read (R371). -/
def execLrdRot (s : State) : Host.Outcome State Fault Refusal :=
  withA s (fun f => lrdIssue .lrdRot 3 f s)

/-- `alike` (R372). -/
def execAlike (s : State) : Host.Outcome State Fault Refusal :=
  withA s (fun f => alikeIssue .alike f s)

/-- `lany` (R372). -/
def execLany (s : State) : Host.Outcome State Fault Refusal :=
  withA s (fun f => lanyIssue .lany false f s)

/-- `lall` (R372). -/
def execLall (s : State) : Host.Outcome State Fault Refusal :=
  withA s (fun f => lanyIssue .lall true f s)

/-- `lmask` (R372). -/
def execLmask (s : State) : Host.Outcome State Fault Refusal :=
  withA s (fun f => lmaskIssue .lmask f s)

/-- `lfirst` (R372). -/
def execLfirst (s : State) : Host.Outcome State Fault Refusal :=
  withA s (fun f => lfirstIssue .lfirst f s)

/-- `lred` (R374). -/
def execLred (s : State) : Host.Outcome State Fault Refusal :=
  withA s (fun f => redIssue .lred false f s)

/-- `lscan` (R374). -/
def execLscan (s : State) : Host.Outcome State Fault Refusal :=
  withA s (fun f => redIssue .lscan true f s)

/-- `lcount` (R372). -/
def execLcount (s : State) : Host.Outcome State Fault Refusal :=
  withA s (fun f => lcountIssue .lcount f s)

end Sys2Proof.Machine
end

