-- ==== Sys2Proof/Machine/Approx.lean ====
section
/-!
DEFINITION. The approximate functions (R364). The exact value is computed to more bits than any bound asks for; the
results the bound allows form a run of neighbouring FP32 values, and `Config.approx` picks one of them (log 9).
-/

namespace Sys2Proof.Machine

/-- The approximate functions. -/
inductive AFun where
  | rcp | rsq | exp2 | log2 | sin | cos | tanh
  deriving DecidableEq, Repr

/-- The number a function has for `Config.approx`. -/
def AFun.num : AFun → Nat
  | .rcp => 0 | .rsq => 1 | .exp2 => 2 | .log2 => 3 | .sin => 4 | .cos => 5 | .tanh => 6

/-- Constants in fixed point: ln 2 and log2 e over 2^96, 2π over 2^128. -/
def fxLn2 : Nat := 0xb17217f7d1cf79abc9e3b398
def fxLog2e : Nat := 0x171547652b82fe1777d0ffda0
def fxTwoPi : Nat := 0x6487ed5110b4611a62633145c06e0e689

/-- Terms of a power series: t^k / k! over 2^96, the sign of each term given by `sg`, from term `k` on. -/
def series (sg : Nat → Int) (t : Nat) : Nat → Nat → Nat → Int
  | 0, _, _ => 0
  | fuel + 1, k, term => sg k * term + series sg t fuel (k + 1) (term * t / 2 ^ 96 / (k + 1))

/-- 2^f over 2^96 for a fraction f over 2^96. -/
def pow2Fx (f : Nat) : Nat := (series (fun _ => 1) (f * fxLn2 / 2 ^ 96) 30 0 (2 ^ 96)).toNat

/-- The fraction bits of log2 y for y in [1, 2) over 2^128, bit by bit. -/
def log2Bits : Nat → Nat → Nat → Nat
  | 0, _, acc => acc
  | n + 1, y, acc =>
    let y2 := y * y / 2 ^ 128
    if 2 ^ 129 ≤ y2 then log2Bits n (y2 / 2) (2 * acc + 1) else log2Bits n y2 (2 * acc)

/-- A finite magnitude in fixed point over 2^p, truncated. -/
def toFx (p : Nat) (m : Nat) (e : Int) : Nat := (roundMag .rtz false m (e + p)).1

/-- A FP32 value as an integer that orders as the values do. -/
def ordOf (x : Nat) : Int := if x.testBit 31 then -((x % 2 ^ 31 : Nat) : Int) else x
/-- The pattern of such an integer. -/
def ofOrd (x : Int) : Nat := if x < 0 then 2 ^ 31 + x.natAbs else x.natAbs

/-- The first FP32 value at or above m × 2^e, or at or below it. -/
def ordBound (md : RMode) (m e : Int) : Int :=
  if m = 0 then 0 else ordOf (roundFloat .f32 md (decide (m < 0)) m.natAbs e).1

/-- One of the FP32 values in [(m − b) × 2^e, (m + b) × 2^e]; the nearest bound where none lies inside. -/
def pickIn (fn : AFun) (ftz : Bool) (x : Nat) (m b e : Int) : Nat :=
  let lo := ordBound .rup (m - b) e
  let hi := ordBound .rdn (m + b) e
  if hi < lo then ofOrd lo
  else ofOrd (lo + (Config.approx fn.num ftz (BitVec.ofNat 32 x) % ((hi - lo).toNat + 1) : Nat))

/-- A result within `u` ulp of ±m × 2^e, where m has more than 40 bits and an error below 16 units. -/
def pickUlp (fn : AFun) (ftz : Bool) (x : Nat) (u : Nat) (neg : Bool) (m : Nat) (e : Int) : Nat :=
  pickIn fn ftz x (if neg then -(m : Int) else m) (u * 2 ^ (Nat.log2 m - 23) + 16) e

/-- A result within 2^-p of v over 2^96, whose error is below 2^16 units. -/
def pickAbs (fn : AFun) (ftz : Bool) (x : Nat) (p : Nat) (v : Int) : Nat := pickIn fn ftz x v (2 ^ (96 - p) + 2 ^ 16) (-96)

/-- 2^x for x = ±m × 2^e, as a magnitude and exponent. -/
def exp2Val (neg : Bool) (m : Nat) (e : Int) : Nat × Int :=
  let fx : Int := toFx 96 m e
  let v := if neg then -fx else fx
  (pow2Fx (v % 2 ^ 96).toNat, v / 2 ^ 96 - 96)

/-- sin x or cos x over 2^96, for |x| at most 2^16. -/
def trigFx (cos : Bool) (neg : Bool) (m : Nat) (e : Int) : Int :=
  let r := toFx 128 m e % fxTwoPi / 2 ^ 32
  let sg (k : Nat) : Int :=
    if cos then (if k % 2 = 1 then 0 else if k % 4 = 0 then 1 else -1)
    else (if k % 2 = 0 then 0 else if k % 4 = 1 then 1 else -1)
  let v := series sg r 60 0 (2 ^ 96)
  if neg && !cos then -v else v

/-- tanh |x| over 2^96. -/
def tanhFx (m : Nat) (e : Int) : Nat :=
  let y := toFx 96 m e * 2 * fxLog2e / 2 ^ 96
  let p := pow2Fx (y % 2 ^ 96) * 2 ^ (y / 2 ^ 96)
  (p - 2 ^ 96) * 2 ^ 96 / (p + 2 ^ 96)

/-- Signed zero, infinity and one as FP32 patterns. -/
def f32Zero (neg : Bool) : Nat := Fmt.signed .f32 neg 0
def f32Inf (neg : Bool) : Nat := Fmt.signed .f32 neg 0x7F800000
def f32One (neg : Bool) : Nat := Fmt.signed .f32 neg 0x3F800000
def f32Nan : Nat := 0x7FC00000

/-- A magnitude above the largest finite value: R364 states no result, which is that value or the infinity, of the
operand's sign (log 9). -/
def beyond (fn : AFun) (ftz : Bool) (x : Nat) (neg : Bool) : Nat :=
  f32Inf neg - Config.approx fn.num ftz (BitVec.ofNat 32 x) % 2

/-- The result for a nonzero finite operand. -/
def approxFin (fn : AFun) (ftz : Bool) (x : Nat) (neg : Bool) (m : Nat) (e : Int) : Nat × Word :=
  let ex : Int := e + Nat.log2 m
  match fn with
  | .rcp =>
    if 126 < ex ∨ (ex = 126 ∧ m ≠ 2 ^ Nat.log2 m) then (f32Zero neg, 0)
    else if ex < -128 ∨ (ex = -128 ∧ m = 2 ^ Nat.log2 m) then (beyond .rcp ftz x neg, 0)
    else (pickUlp .rcp ftz x 1 neg (2 ^ 96 / m) (-96 - e), 0)
  | .rsq =>
    if neg then (f32Nan, flNV)
    else
      let (m1, e1) := if e % 2 = 0 then (m, e) else (2 * m, e - 1)
      (pickUlp .rsq ftz x 2 false (sqrtBits (2 ^ 160 / m1) 81 0) ((-160 - e1) / 2), 0)
  | .exp2 =>
    if !neg && decide (7 ≤ ex) then (f32Inf false, 0)
    else if neg ∧ (126 < (toFx 96 m e) / 2 ^ 96 ∨ (toFx 96 m e / 2 ^ 96 = 126 ∧ toFx 96 m e % 2 ^ 96 ≠ 0)) then
      (f32Zero false, 0)
    else if (roundMag .rtz false m e).2 then
      let (v, q) := exp2Val neg m e
      (pickUlp .exp2 ftz x 2 false v q, 0)
    else
      let n : Int := (roundMag .rtz false m e).1
      (((if neg then 127 - n else 127 + n).toNat) * 2 ^ 23, 0)
  | .log2 =>
    if neg then (f32Nan, flNV)
    else if m = 2 ^ Nat.log2 m ∧ -126 ≤ ex then ((roundTo .f32 .rne false (ofIntVal ex)).1, 0)
    else
      let y := m * 2 ^ 128 / 2 ^ Nat.log2 m
      let v : Int := ex * 2 ^ 96 + (log2Bits 80 y 0 * 2 ^ 16 : Nat)
      if ex = -1 ∨ ex = 0 then (pickAbs .log2 ftz x 22 v, 0)
      else (pickUlp .log2 ftz x 2 (decide (v < 0)) v.natAbs (-96), 0)
  | .sin | .cos =>
    if 16 < ex ∨ (ex = 16 ∧ m ≠ 2 ^ Nat.log2 m) then (pickIn fn ftz x 0 1 0, 0)
    else (pickAbs fn ftz x 20 (trigFx (fn == .cos) neg m e), 0)
  | .tanh =>
    if 9 * 2 ^ 96 ≤ toFx 96 m e then (f32One neg, 0)
    else
      let v : Int := tanhFx m e
      let v' := if neg then -v else v
      if ex < 0 then (pickAbs .tanh ftz x 21 v', 0)
      else (pickUlp .tanh ftz x 2 neg v.natAbs (-96), 0)

/-- An approximate function of a FP32 pattern, with FTZ (R280, R364): only NV and DZ are set. -/
def approx32 (fn : AFun) (ftz : Bool) (x : Nat) : Nat × Word :=
  let r := match Fmt.f32.src ftz x with
    | .nan s => (f32Nan, flIf s flNV)
    | .inf n =>
      match fn with
      | .rcp => (f32Zero n, 0)
      | .rsq => if n then (f32Nan, flNV) else (f32Zero false, 0)
      | .exp2 => if n then (f32Zero false, 0) else (f32Inf false, 0)
      | .log2 => if n then (f32Nan, flNV) else (f32Inf false, 0)
      | .sin | .cos => (f32Nan, flNV)
      | .tanh => (f32One n, 0)
    | .fin n 0 _ =>
      match fn with
      | .rcp | .rsq => (f32Inf n, flDZ)
      | .exp2 | .cos => (f32One false, 0)
      | .log2 => (f32Inf true, flDZ)
      | .sin | .tanh => (f32Zero n, 0)
    | .fin n m e => approxFin fn ftz x n m e
  ((flush .f32 ftz (r.1, 0)).1, r.2)

/-- An approximate function in one of the types of R356: a 16-bit form widens exactly, applies the FP32 function and
rounds once (R364). -/
def approxFmt (fn : AFun) (f : Fmt) (ftz : Bool) (x : Nat) : Nat × Word :=
  if f = .f32 then approx32 fn ftz x
  else
    let w := (roundTo .f32 .rne false (f.src ftz x)).1
    let r := approx32 fn ftz w
    let fl := flIf (f.val x).isSnan flNV
    ((roundTo f .rne ftz (Fmt.f32.val r.1)).1, r.2 ||| fl)

end Sys2Proof.Machine
end

