-- ==== Sys2Proof/Machine/FloatOps.lean ====
section
/-!
DEFINITION. What the floating-point operations and the conversions compute (R356-R369), as lane operations.
-/

namespace Sys2Proof.Machine

/-- A type of class F: the element format and how many elements a lane holds (R356, R357). -/
structure FTy where
  fmt : Fmt
  n : Nat
  deriving DecidableEq, Repr

/-- The types of class F (R297). -/
def floatTy (x : BitVec 3) : Option FTy :=
  match x.toNat with
  | 0 => some ⟨.f32, 1⟩ | 1 => some ⟨.f16, 1⟩ | 2 => some ⟨.bf16, 1⟩ | 3 => some ⟨.f16, 2⟩ | 4 => some ⟨.bf16, 2⟩
  | _ => none

/-- The types `.f32`, `.f16` and `.bf16`. -/
def scalarTy (x : BitVec 3) : Option FTy := (floatTy x).bind (fun t => if t.n = 1 then some t else none)

def tyF32 : FTy := ⟨.f32, 1⟩

/-- FPMODE.FTZ and the mode of FPMODE.RMODE (R87). -/
def ftzOf (fp : Word) : Bool := fp.getLsbD 8
def rmodeReg (fp : Word) : RMode := rmodeOf (fp.toNat / 2 ^ 9 % 4)
/-- The rounding mode of an RND field 0-4: 4 takes FPMODE.RMODE (R298). -/
def rmodeFld (rnd : BitVec 3) (fp : Word) : RMode := if rnd = 4 then rmodeReg fp else rmodeOf rnd.toNat

/-- Element `j` of a lane (R357). -/
def elemOf (t : FTy) (x : DWord) (j : Nat) : Nat := x.toNat / 2 ^ (t.fmt.bits * j) % 2 ^ t.fmt.bits

/-- An operation on the elements of a lane, their results put side by side and their flags joined (R357). -/
def elemwise (t : FTy) (g : Nat → Nat × Word) : DWord × Word :=
  let rs := (List.range t.n).map (fun j => ((g j).1 * 2 ^ (t.fmt.bits * j), (g j).2))
  (BitVec.ofNat 64 (rs.foldl (fun s r => s + r.1) 0), rs.foldl (fun s r => s ||| r.2) 0)

/-- A two-operand arithmetic form: the exact result rounded once (R359). -/
def lopF2 (t : FTy) (md : Word → RMode) (g : RMode → FVal → FVal → FVal × Word) : LaneOp :=
  { bW := 1, f := fun fp a b _ => elemwise t (fun j =>
      let z := ftzOf fp
      let r := g (md fp) (t.fmt.src z (elemOf t a j)) (t.fmt.src z (elemOf t b j))
      let q := roundTo t.fmt (md fp) z r.1
      (q.1, r.2 ||| q.2)) }

def lopFadd (t : FTy) (md : Word → RMode) : LaneOp := lopF2 t md fAdd
def lopFsub (t : FTy) (md : Word → RMode) : LaneOp := lopF2 t md (fun m a b => fAdd m a b.negate)
def lopFmul (t : FTy) (md : Word → RMode) : LaneOp := lopF2 t md (fun _ a b => fMul a b)
def lopFdiv (t : FTy) (md : Word → RMode) : LaneOp := { lopF2 t md (fun _ a b => fDiv a b) with long := true }
def lopFmin (t : FTy) : LaneOp := lopF2 t (fun _ => .rne) (fun _ a b => fMinMax false a b)
def lopFmax (t : FTy) : LaneOp := lopF2 t (fun _ => .rne) (fun _ a b => fMinMax true a b)

/-- a × b + c with one rounding (R359). -/
def lopFfma (t : FTy) (md : Word → RMode) : LaneOp :=
  { bW := 1, cW := 1, f := fun fp a b c => elemwise t (fun j =>
      let z := ftzOf fp
      let v (x : DWord) := t.fmt.src z (elemOf t x j)
      let r := fFma (md fp) (v a) (v b) (v c)
      let q := roundTo t.fmt (md fp) z r.1
      (q.1, r.2 ||| q.2)) }

/-- A one-operand form. -/
def lopF1 (t : FTy) (g : Word → Nat → Nat × Word) : LaneOp :=
  { f := fun fp a _ _ => elemwise t (fun j => g fp (elemOf t a j)) }

def lopFsqrt (t : FTy) (md : Word → RMode) : LaneOp :=
  { lopF1 t (fun fp x =>
      let r := fSqrt (t.fmt.src (ftzOf fp) x)
      let q := roundTo t.fmt (md fp) (ftzOf fp) r.1
      (q.1, r.2 ||| q.2)) with long := true }

/-- Sign operations: a NaN gives the canonical NaN without a flag (R360). -/
def lopFsign (t : FTy) (g : Bool → Bool) : LaneOp :=
  lopF1 t (fun fp x =>
    match t.fmt.src (ftzOf fp) x with
    | .nan _ => (t.fmt.nan.getD 0, 0)
    | .inf n => ((roundTo t.fmt .rne false (.inf (g n))).1, 0)
    | .fin n m e => ((roundTo t.fmt .rne false (.fin (g n) m e)).1, 0))
def lopFabs (t : FTy) : LaneOp := lopFsign t (fun _ => false)
def lopFneg (t : FTy) : LaneOp := lopFsign t (fun n => !n)

/-- The comparisons of R361; `quiet` ones set NV only for a signalling NaN. -/
def lopFcmp (t : FTy) (quiet onNan : Bool) (g : FVal → FVal → Bool) : LaneOp :=
  { bW := 1, dPred := true, f := fun fp a b _ =>
      let x := t.fmt.src (ftzOf fp) (elemOf t a 0)
      let y := t.fmt.src (ftzOf fp) (elemOf t b 0)
      if x.isNan || y.isNan then
        (if onNan then 1 else 0, flIf (!quiet || x.isSnan || y.isSnan) flNV)
      else (if g x y then 1 else 0, 0) }
def lopFcmpEq (t : FTy) : LaneOp := lopFcmp t true false fEq
def lopFcmpNe (t : FTy) : LaneOp := lopFcmp t true true (fun x y => !fEq x y)
def lopFcmpLt (t : FTy) : LaneOp := lopFcmp t false false fLt
def lopFcmpLe (t : FTy) : LaneOp := lopFcmp t false false (fun x y => !fLt y x)
def lopFcmpGt (t : FTy) : LaneOp := lopFcmp t false false (fun x y => fLt y x)
def lopFcmpGe (t : FTy) : LaneOp := lopFcmp t false false (fun x y => !fLt x y)
def lopFcmpUn (t : FTy) : LaneOp := lopFcmp t true true (fun _ _ => false)

/-- `fsel`: `sel` of the type's width (R362). -/
def lopFsel (t : FTy) : LaneOp :=
  { bW := 1, cW := 1, cPred := true, f := fun _ a b c =>
      ((VTy.mk (t.fmt.bits * t.n) false).store (if c.getLsbD 0 then a else b), 0) }

/-- The class of a pattern, from its own bits (R362). -/
def fclassOf (f : Fmt) (x : Nat) : Nat :=
  match f.val x with
  | .nan true => 8
  | .nan false => 9
  | .inf n => if n then 0 else 7
  | .fin n 0 _ => if n then 3 else 4
  | .fin n _ _ => if f.subnormal x then (if n then 2 else 5) else (if n then 1 else 6)
def lopFclass (t : FTy) : LaneOp := { f := fun _ a _ _ => (BitVec.ofNat 64 (2 ^ fclassOf t.fmt (elemOf t a 0)), 0) }

/-- An approximate function (R364). -/
def lopApprox (fn : AFun) (t : FTy) : LaneOp := lopF1 t (fun fp x => approxFmt fn t.fmt (ftzOf fp) x)

/-! ### Conversions (R366-R369) -/

/-- What a conversion reads or writes. -/
inductive CFmt where
  | flt (f : Fmt)
  | e8m0
  | int (t : VTy)
  | pair (f : Fmt)
  deriving DecidableEq, Repr

/-- The source formats by their codes (R366). -/
def cvtSrc (c : Nat) : Option CFmt :=
  match c with
  | 0 => some (.flt .f32) | 1 => some (.flt .f16) | 2 => some (.flt .bf16) | 3 => some (.pair .f16)
  | 4 => some (.pair .bf16) | 5 => some (.flt .e4m3) | 6 => some (.flt .e5m2) | 7 => some (.flt .e2m3)
  | 8 => some (.flt .e3m2) | 9 => some (.flt .e2m1) | 10 => some (.flt .t8) | 11 => some (.flt .t6) | 12 => some .e8m0
  | _ => if 16 ≤ c ∧ c ≤ 23 then some (.int (intTy (BitVec.ofNat 3 (c - 16)))) else none

/-- Whether FTZ may flush in a conversion: both sides among FP32, FP16, BF16 and integers (R280, R368). -/
def CFmt.wide : CFmt → Bool
  | .flt f | .pair f => f.ieee
  | .int _ => true
  | .e8m0 => false

/-- The value of a conversion's source element. -/
def CFmt.value (k : CFmt) (ftz : Bool) (x : DWord) (j : Nat) : FVal :=
  match k with
  | .flt f => f.src ftz (x.toNat % 2 ^ f.bits)
  | .pair f => f.src ftz (x.toNat / 2 ^ (16 * j) % 2 ^ 16)
  | .e8m0 => e8m0Val (x.toNat % 256)
  | .int t => ofIntVal (t.val x)

/-- One element rounded into the destination. -/
def CFmt.put (k : CFmt) (md : RMode) (ftz : Bool) (v : FVal) : DWord × Word :=
  match k with
  | .flt f | .pair f => let r := roundTo f md ftz v; (BitVec.ofNat 64 r.1, r.2)
  | .e8m0 => let r := roundE8m0 md v; (BitVec.ofNat 64 r.1, r.2)
  | .int t => roundInt t md v

/-- Words of a format (R72). -/
def CFmt.words : CFmt → Nat
  | .int t => t.words
  | _ => 1

/-- The conversion as a lane operation: with SR, b supplies the random bits (R276, R368). -/
def lopCvt (src dst : CFmt) (rnd : BitVec 3) : LaneOp :=
  let n := match dst with | .pair _ => 2 | _ => 1
  { dW := dst.words, aW := src.words, bW := if rnd = 5 then 1 else 0, f := fun fp a b _ =>
      let z := ftzOf fp && src.wide && dst.wide
      let one (j : Nat) : DWord × Word :=
        let md := if rnd = 5 then RMode.sr (b.toNat / 2 ^ (16 * j) % 2 ^ 16) else rmodeFld rnd fp
        dst.put md z (src.value z a j)
      if n = 2 then ((one 0).1 ||| ((one 1).1 <<< 16), (one 0).2 ||| (one 1).2) else one 0 }

/-- A conversion where R367 allows it: source and rounding by the destination. -/
def cvtOf (dst : CFmt) (srcOk : Nat → Bool) (sr : Bool) (f : FmtA) : Option LaneOp :=
  let c := f.c.toNat
  match cvtSrc c with
  | some src => if srcOk c && decide (src ≠ dst) && (decide (f.rnd.toNat ≤ 4) || (f.rnd == 5 && sr)) then
      some (lopCvt src dst f.rnd) else none
  | none => none

/-- `cvt` to FP32, FP16, BF16 or packed 16-bit (R367). -/
def lopCvtFloat (f : FmtA) : Option LaneOp :=
  let ok (c : Nat) := c != 3 && c != 4
  match f.ty.toNat with
  | 0 => cvtOf (.flt .f32) ok false f
  | 1 => cvtOf (.flt .f16) ok true f
  | 2 => cvtOf (.flt .bf16) ok true f
  | 3 => cvtOf (.pair .f16) (· == 4) true f
  | 4 => cvtOf (.pair .bf16) (· == 3) true f
  | _ => none

/-- `cvt` to a narrow float (R367). -/
def lopCvtNarrow (f : FmtA) : Option LaneOp :=
  let ok (c : Nat) := c != 3 && c != 4 && c != 12
  match f.ty.toNat with
  | 0 => cvtOf (.flt .e4m3) ok true f
  | 1 => cvtOf (.flt .e5m2) ok true f
  | 2 => cvtOf (.flt .e2m3) ok true f
  | 3 => cvtOf (.flt .e3m2) ok true f
  | 4 => cvtOf (.flt .e2m1) ok true f
  | 5 => cvtOf (.flt .t8) ok true f
  | 6 => cvtOf (.flt .t6) ok true f
  | _ => none

/-- The float sources of a conversion to an integer or to E8M0 (R367). -/
def cvtFloatSrc (c : Nat) : Bool := c != 3 && c != 4 && decide (c ≤ 11)

/-- `cvt` to an integer (R367). -/
def lopCvtInt (f : FmtA) : Option LaneOp := cvtOf (.int (intTy f.ty)) cvtFloatSrc false f

/-- `cvt` to E8M0 (R367). -/
def lopCvtE8m0 (f : FmtA) : Option LaneOp := if f.ty = 0 then cvtOf .e8m0 cvtFloatSrc false f else none

/-- The element formats of `cvt.pk` and `cvt.upk` with the greatest position of each (R369). -/
def pkFmt (ty : BitVec 3) : Option (Fmt × Nat × Nat) :=
  match ty.toNat with
  | 0 => some (.f16, 0, 1) | 1 => some (.bf16, 0, 1) | 2 => some (.e4m3, 1, 3) | 3 => some (.e5m2, 1, 3)
  | 4 => some (.t8, 1, 3) | 5 => some (.e2m1, 3, 7) | _ => none

/-- `cvt.pk`: two elements placed in d, whose other bits stay; d is the third source (R369). -/
def lopCvtPk (f : FmtA) : Option LaneOp :=
  match pkFmt f.ty with
  | some (g, mx, _) =>
    if f.c.toNat ≤ mx ∧ f.rnd.toNat ≤ 4 then
      some { bW := 1, cW := 1, f := fun fp a b d =>
        let z := ftzOf fp && g.ieee
        let md := rmodeFld f.rnd fp
        let x := roundTo g md z (Fmt.f32.src z (a.toNat % 2 ^ 32))
        let y := roundTo g md z (Fmt.f32.src z (b.toNat % 2 ^ 32))
        let w := 2 * g.bits
        let sh := w * f.c.toNat
        let mask : DWord := BitVec.ofNat 64 ((2 ^ w - 1) * 2 ^ sh)
        ((d &&& ~~~mask) ||| BitVec.ofNat 64 ((y.1 * 2 ^ g.bits + x.1) * 2 ^ sh), x.2 ||| y.2) }
    else none
  | none => none

/-- `cvt.upk`: one element as FP32, NV for a signalling NaN (R369). -/
def lopCvtUpk (f : FmtA) : Option LaneOp :=
  match pkFmt f.ty with
  | some (g, _, mx) =>
    if f.c.toNat ≤ mx ∧ f.rnd = 0 then
      some { f := fun fp a _ _ =>
        let v := g.src (ftzOf fp && g.ieee) (a.toNat / 2 ^ (g.bits * f.c.toNat) % 2 ^ g.bits)
        (BitVec.ofNat 64 (roundTo .f32 .rne (ftzOf fp && g.ieee) v).1, flIf v.isSnan flNV) }
    else none
  | none => none

end Sys2Proof.Machine
end

