-- ==== Sys2Proof/Machine/Float.lean ====
section
/-!
DEFINITION. The meanings of the floating-point instructions and the conversions (R356-R369).
-/

namespace Sys2Proof.Machine

/-- S16 float form, rounded by FPMODE.RMODE (R290). -/
def execS16FaddF32 (s : State) : Host.Outcome State Fault Refusal :=
  withS16 s (fun f => lane16 .s16FaddF32 true (lopFadd tyF32 rmodeReg) f s)

/-- S16 float form, rounded by FPMODE.RMODE (R290). -/
def execS16FsubF32 (s : State) : Host.Outcome State Fault Refusal :=
  withS16 s (fun f => lane16 .s16FsubF32 true (lopFsub tyF32 rmodeReg) f s)

/-- S16 float form, rounded by FPMODE.RMODE (R290). -/
def execS16FmulF32 (s : State) : Host.Outcome State Fault Refusal :=
  withS16 s (fun f => lane16 .s16FmulF32 true (lopFmul tyF32 rmodeReg) f s)

/-- S16 `fmac.f32`: d + s × l, l as it stood (R290). -/
def execS16FmacF32 (s : State) : Host.Outcome State Fault Refusal :=
  withS16 s (fun f =>
    laneAcc .s16FmacF32 (lopFfma tyF32 rmodeReg) { d := .v f.d.toNat, a := opdS true f.s, b := .l } s)

/-- S16 float form, rounded by FPMODE.RMODE (R290). -/
def execS16FminF32 (s : State) : Host.Outcome State Fault Refusal :=
  withS16 s (fun f => lane16 .s16FminF32 true (lopFmin tyF32) f s)

/-- S16 float form, rounded by FPMODE.RMODE (R290). -/
def execS16FmaxF32 (s : State) : Host.Outcome State Fault Refusal :=
  withS16 s (fun f => lane16 .s16FmaxF32 true (lopFmax tyF32) f s)

/-- L32 float form (R365). -/
def execFaddF32L32 (s : State) : Host.Outcome State Fault Refusal :=
  withL32 s (fun f => laneDab .faddF32L32 (lopFadd tyF32 rmodeReg) f s)

/-- L32 float form (R365). -/
def execFsubF32L32 (s : State) : Host.Outcome State Fault Refusal :=
  withL32 s (fun f => laneDab .fsubF32L32 (lopFsub tyF32 rmodeReg) f s)

/-- L32 float form (R365). -/
def execFmulF32L32 (s : State) : Host.Outcome State Fault Refusal :=
  withL32 s (fun f => laneDab .fmulF32L32 (lopFmul tyF32 rmodeReg) f s)

/-- L32 float form (R365). -/
def execFminF32L32 (s : State) : Host.Outcome State Fault Refusal :=
  withL32 s (fun f => laneDab .fminF32L32 (lopFmin tyF32) f s)

/-- L32 float form (R365). -/
def execFmaxF32L32 (s : State) : Host.Outcome State Fault Refusal :=
  withL32 s (fun f => laneDab .fmaxF32L32 (lopFmax tyF32) f s)

/-- `fmac.f32`: d + a × b with one rounding (R365). -/
def execFmacF32L32 (s : State) : Host.Outcome State Fault Refusal :=
  withL32 s (fun f => laneAcc .fmacF32L32 (lopFfma tyF32 rmodeReg) (opndsDab f) s)

/-- L64 form (R356, R359). -/
def execFadd (s : State) : Host.Outcome State Fault Refusal :=
  withA s (fun f => laneR .fadd ((floatTy f.ty).map (fun t => lopFadd t (rmodeFld f.rnd))) true f s)

/-- L64 form (R356, R359). -/
def execFsub (s : State) : Host.Outcome State Fault Refusal :=
  withA s (fun f => laneR .fsub ((floatTy f.ty).map (fun t => lopFsub t (rmodeFld f.rnd))) true f s)

/-- L64 form (R356, R359). -/
def execFmul (s : State) : Host.Outcome State Fault Refusal :=
  withA s (fun f => laneR .fmul ((floatTy f.ty).map (fun t => lopFmul t (rmodeFld f.rnd))) true f s)

/-- L64 form (R356, R359). -/
def execFfma (s : State) : Host.Outcome State Fault Refusal :=
  withA s (fun f => laneR .ffma ((floatTy f.ty).map (fun t => lopFfma t (rmodeFld f.rnd))) true f s)

/-- L64 form (R356, R360). -/
def execFmin (s : State) : Host.Outcome State Fault Refusal :=
  withA s (fun f => laneA .fmin ((floatTy f.ty).map lopFmin) true f s)

/-- L64 form (R356, R360). -/
def execFmax (s : State) : Host.Outcome State Fault Refusal :=
  withA s (fun f => laneA .fmax ((floatTy f.ty).map lopFmax) true f s)

/-- L64 form (R356, R360). -/
def execFabs (s : State) : Host.Outcome State Fault Refusal :=
  withA s (fun f => laneA .fabs ((floatTy f.ty).map lopFabs) false f s)

/-- L64 form (R356, R360). -/
def execFneg (s : State) : Host.Outcome State Fault Refusal :=
  withA s (fun f => laneA .fneg ((floatTy f.ty).map lopFneg) false f s)

/-- L64 form (R356, R361). -/
def execFcmpEq (s : State) : Host.Outcome State Fault Refusal :=
  withA s (fun f => laneA .fcmpEq ((scalarTy f.ty).map lopFcmpEq) true f s)

/-- L64 form (R356, R361). -/
def execFcmpNe (s : State) : Host.Outcome State Fault Refusal :=
  withA s (fun f => laneA .fcmpNe ((scalarTy f.ty).map lopFcmpNe) true f s)

/-- L64 form (R356, R361). -/
def execFcmpLt (s : State) : Host.Outcome State Fault Refusal :=
  withA s (fun f => laneA .fcmpLt ((scalarTy f.ty).map lopFcmpLt) true f s)

/-- L64 form (R356, R361). -/
def execFcmpLe (s : State) : Host.Outcome State Fault Refusal :=
  withA s (fun f => laneA .fcmpLe ((scalarTy f.ty).map lopFcmpLe) true f s)

/-- L64 form (R356, R361). -/
def execFcmpGt (s : State) : Host.Outcome State Fault Refusal :=
  withA s (fun f => laneA .fcmpGt ((scalarTy f.ty).map lopFcmpGt) true f s)

/-- L64 form (R356, R361). -/
def execFcmpGe (s : State) : Host.Outcome State Fault Refusal :=
  withA s (fun f => laneA .fcmpGe ((scalarTy f.ty).map lopFcmpGe) true f s)

/-- L64 form (R356, R361). -/
def execFcmpUn (s : State) : Host.Outcome State Fault Refusal :=
  withA s (fun f => laneA .fcmpUn ((scalarTy f.ty).map lopFcmpUn) true f s)

/-- L64 form (R356, R362). -/
def execFsel (s : State) : Host.Outcome State Fault Refusal :=
  withA s (fun f => laneA .fsel ((floatTy f.ty).map lopFsel) true f s)

/-- L64 form (R356, R362). -/
def execFclass (s : State) : Host.Outcome State Fault Refusal :=
  withA s (fun f => laneA .fclass ((scalarTy f.ty).map lopFclass) false f s)

/-- L64 form (R356, R363). -/
def execFdiv (s : State) : Host.Outcome State Fault Refusal :=
  withA s (fun f => laneR .fdiv ((scalarTy f.ty).map (fun t => lopFdiv t (rmodeFld f.rnd))) true f s)

/-- L64 form (R356, R363). -/
def execFsqrt (s : State) : Host.Outcome State Fault Refusal :=
  withA s (fun f => laneR .fsqrt ((scalarTy f.ty).map (fun t => lopFsqrt t (rmodeFld f.rnd))) false f s)

/-- L64 form (R356, R364). -/
def execFrcp (s : State) : Host.Outcome State Fault Refusal :=
  withA s (fun f => laneA .frcp ((scalarTy f.ty).map (lopApprox .rcp)) false f s)

/-- L64 form (R356, R364). -/
def execFrsq (s : State) : Host.Outcome State Fault Refusal :=
  withA s (fun f => laneA .frsq ((scalarTy f.ty).map (lopApprox .rsq)) false f s)

/-- L64 form (R356, R364). -/
def execFexp2 (s : State) : Host.Outcome State Fault Refusal :=
  withA s (fun f => laneA .fexp2 ((scalarTy f.ty).map (lopApprox .exp2)) false f s)

/-- L64 form (R356, R364). -/
def execFlog2 (s : State) : Host.Outcome State Fault Refusal :=
  withA s (fun f => laneA .flog2 ((scalarTy f.ty).map (lopApprox .log2)) false f s)

/-- L64 form (R356, R364). -/
def execFsin (s : State) : Host.Outcome State Fault Refusal :=
  withA s (fun f => laneA .fsin ((scalarTy f.ty).map (lopApprox .sin)) false f s)

/-- L64 form (R356, R364). -/
def execFcos (s : State) : Host.Outcome State Fault Refusal :=
  withA s (fun f => laneA .fcos ((scalarTy f.ty).map (lopApprox .cos)) false f s)

/-- L64 form (R356, R364). -/
def execFtanh (s : State) : Host.Outcome State Fault Refusal :=
  withA s (fun f => laneA .ftanh ((scalarTy f.ty).map (lopApprox .tanh)) false f s)

/-- Conversion (R366-R369). -/
def execCvtFloat (s : State) : Host.Outcome State Fault Refusal :=
  withA s (fun f => laneCvt .cvtFloat (lopCvtFloat f) false f s)

/-- Conversion (R366-R369). -/
def execCvtNarrow (s : State) : Host.Outcome State Fault Refusal :=
  withA s (fun f => laneCvt .cvtNarrow (lopCvtNarrow f) false f s)

/-- Conversion (R366-R369). -/
def execCvtInt (s : State) : Host.Outcome State Fault Refusal :=
  withA s (fun f => laneCvt .cvtInt (lopCvtInt f) false f s)

/-- Conversion (R366-R369). -/
def execCvtE8m0 (s : State) : Host.Outcome State Fault Refusal :=
  withA s (fun f => laneCvt .cvtE8m0 (lopCvtE8m0 f) false f s)

/-- Conversion (R366-R369). -/
def execCvtPk (s : State) : Host.Outcome State Fault Refusal :=
  withA s (fun f => laneCvt .cvtPk (lopCvtPk f) true f s)

/-- Conversion (R366-R369). -/
def execCvtUpk (s : State) : Host.Outcome State Fault Refusal :=
  withA s (fun f => laneCvt .cvtUpk (lopCvtUpk f) false f s)

/-- Sub-format B, the immediate of R294 as b (R365). -/
def execFaddImm (s : State) : Host.Outcome State Fault Refusal :=
  withB s (fun f => laneB .faddImm ((floatTy f.ty).map (fun t => lopFadd t rmodeReg)) f s)

/-- Sub-format B, the immediate of R294 as b (R365). -/
def execFmulImm (s : State) : Host.Outcome State Fault Refusal :=
  withB s (fun f => laneB .fmulImm ((floatTy f.ty).map (fun t => lopFmul t rmodeReg)) f s)

/-- `ffma d, a, imm`: a × imm + d (R365). -/
def execFfmaImm (s : State) : Host.Outcome State Fault Refusal :=
  withB s (fun f =>
    match floatTy f.ty with
    | some t => laneAcc .ffmaImm (lopFfma t rmodeReg) (opndsB f) s
    | none => issue .ffmaImm (badShape true) noPre noEff s)

end Sys2Proof.Machine
end

