-- ==== Sys2Proof/Machine/IntOps.lean ====
section
/-!
DEFINITION. What the integer, logic, shift, compare and move operations compute (R326-R336), as lane operations.
-/

namespace Sys2Proof.Machine

/-- A binary operation on exact numbers, wrapped into the type (R326). -/
def lopBin (t : VTy) (g : Int → Int → Int) : LaneOp :=
  { dW := t.words, aW := t.words, bW := t.words, f := fun _ a b _ => (t.wrap (g (t.val a) (t.val b)), 0) }

/-- A ternary operation on exact numbers (R326). -/
def lopTer (t : VTy) (g : Int → Int → Int → Int) : LaneOp :=
  { dW := t.words, aW := t.words, bW := t.words, cW := t.words,
    f := fun _ a b c => (t.wrap (g (t.val a) (t.val b) (t.val c)), 0) }

def lopAdd (t : VTy) : LaneOp := lopBin t (· + ·)
def lopSub (t : VTy) : LaneOp := lopBin t (· - ·)
def lopMulLo (t : VTy) : LaneOp := lopBin t (· * ·)
/-- The high half of the exact product: an arithmetic shift for `.i`, a logical one for `.n` (R326). -/
def lopMulHi (t : VTy) : LaneOp := lopBin t (fun a b => a * b / 2 ^ t.bits)
def lopMadLo (t : VTy) : LaneOp := lopTer t (fun a b c => a * b + c)
def lopMadHi (t : VTy) : LaneOp := lopTer t (fun a b c => a * b / 2 ^ t.bits + c)

/-- The type of twice the width (R327). -/
def VTy.dbl (t : VTy) : VTy := { t with bits := 2 * t.bits }

/-- The exact product in 2n bits; not for 64-bit types (R327). -/
def lopMulFull (t : VTy) : Option LaneOp :=
  if t.bits = 64 then none
  else some { dW := t.dbl.words, aW := 1, bW := 1, f := fun _ a b _ => (t.dbl.wrap (t.val a * t.val b), 0) }
def lopMadFull (t : VTy) : Option LaneOp :=
  if t.bits = 64 then none
  else some { dW := t.dbl.words, aW := 1, bW := 1, cW := t.dbl.words,
              f := fun _ a b c => (t.dbl.wrap (t.val a * t.val b + t.dbl.val c), 0) }

/-- Quotient and remainder with the corners of R328. -/
def divRem (t : VTy) (a b : Int) : Int × Int :=
  if b = 0 then (-1, a)
  else if t.signed ∧ a = t.lo ∧ b = -1 then (t.lo, 0)
  else (a.tdiv b, a - a.tdiv b * b)
def lopDiv (t : VTy) : LaneOp := { lopBin t (fun a b => (divRem t a b).1) with long := true }
def lopRem (t : VTy) : LaneOp := { lopBin t (fun a b => (divRem t a b).2) with long := true }

def lopMin (t : VTy) : LaneOp := lopBin t (fun a b => if a ≤ b then a else b)
def lopMax (t : VTy) : LaneOp := lopBin t (fun a b => if b ≤ a then a else b)

/-- A unary operation on exact numbers. -/
def lopUn (t : VTy) (g : Int → Int) : LaneOp :=
  { dW := t.words, aW := t.words, f := fun _ a _ _ => (t.wrap (g (t.val a)), 0) }
def lopAbs (t : VTy) : LaneOp := lopUn t (fun a => if a < 0 then -a else a)
def lopNeg (t : VTy) : LaneOp := lopUn t (fun a => -a)

/-- Saturating forms: ISAT where a lane was limited (R329). -/
def lopSat (t : VTy) (g : Int → Int → Int) : LaneOp :=
  { dW := t.words, aW := t.words, bW := t.words, f := fun _ a b _ =>
      let r := g (t.val a) (t.val b)
      (t.wrap (t.clamp r), flIf (t.clamp r != r) flISAT) }
def lopAddSat (t : VTy) : LaneOp := lopSat t (· + ·)
def lopSubSat (t : VTy) : LaneOp := lopSat t (· - ·)

/-! ### Logic, shifts and bit fields (R330-R333) -/

/-- A binary operation on raw bits. -/
def lopBits (t : VTy) (g : DWord → DWord → DWord) : LaneOp :=
  { dW := t.words, aW := t.words, bW := t.words, f := fun _ a b _ => (t.store (g a b), 0) }
def lopAnd (t : VTy) : LaneOp := lopBits t (· &&& ·)
def lopOr (t : VTy) : LaneOp := lopBits t (· ||| ·)
def lopXor (t : VTy) : LaneOp := lopBits t (· ^^^ ·)
def lopAndn (t : VTy) : LaneOp := lopBits t (fun a b => a &&& ~~~b)
def lopNot (t : VTy) : LaneOp := { dW := t.words, aW := t.words, f := fun _ a _ _ => (t.store (~~~a), 0) }

/-- The shift amount: the whole 32-bit value of b, unsigned (R331). -/
def shiftAmt (b : DWord) : Nat := b.toNat % 2 ^ 32

/-- A shift or rotation: a of the type, b a 32-bit amount. -/
def lopShift (t : VTy) (g : Int → Nat → Int) : LaneOp :=
  { dW := t.words, aW := t.words, bW := 1, f := fun _ a b _ => (t.wrap (g (t.val a) (shiftAmt b)), 0) }
/-- Shift left: 0 for an amount of n or more. -/
def lopShl (t : VTy) : LaneOp := lopShift t (fun a n => if t.bits ≤ n then 0 else a * 2 ^ n)
/-- Shift right: logical for `.n`, arithmetic for `.i`, filled for an amount of n or more. -/
def lopShr (t : VTy) : LaneOp := lopShift t (fun a n => a / 2 ^ (min n t.bits))
def lopRotl (t : VTy) : LaneOp :=
  lopShift t (fun a n => let k := n % t.bits; a * 2 ^ k + a / 2 ^ (t.bits - k))
def lopRotr (t : VTy) : LaneOp :=
  lopShift t (fun a n => let k := n % t.bits; a / 2 ^ k + a * 2 ^ (t.bits - k))

/-- Position and length of a field control (R332). -/
def fieldCtl (t : VTy) (x : DWord) : Nat × Nat :=
  let pos := min (x.toNat % 256) t.bits
  (pos, min (x.toNat / 256 % 256) (t.bits - pos))

/-- Bit-field extract (R332). -/
def lopBfe (t : VTy) : LaneOp :=
  { dW := t.words, aW := t.words, bW := 1, f := fun _ a b _ =>
      let (pos, len) := fieldCtl t b
      (if len = 0 then 0 else t.wrap ((VTy.mk len t.signed).val (BitVec.ofNat 64 (t.nat a / 2 ^ pos))), 0) }
/-- Bit-field insert (R332). -/
def lopBfi (t : VTy) : LaneOp :=
  { dW := t.words, aW := t.words, bW := t.words, cW := 1, f := fun _ a b c =>
      let (pos, len) := fieldCtl t c
      let mask : DWord := BitVec.ofNat 64 ((2 ^ len - 1) * 2 ^ pos)
      (t.store ((a &&& ~~~mask) ||| ((b <<< pos) &&& mask)), 0) }

/-- Counts of bits: the destination is one register whatever the type (R333). -/
def lopCount (t : VTy) (g : Nat → Nat) : LaneOp :=
  { dW := 1, aW := t.words, f := fun _ a _ _ => (BitVec.ofNat 64 (g (t.nat a)), 0) }
def lopPopc (t : VTy) : LaneOp := lopCount t (fun a => ((List.range t.bits).filter a.testBit).length)
def lopClz (t : VTy) : LaneOp := lopCount t (fun a => if a = 0 then t.bits else t.bits - 1 - Nat.log2 a)
def lopCtz (t : VTy) : LaneOp := lopCount t (fun a => ((List.range t.bits).find? a.testBit).getD t.bits)
/-- The n bits reversed (R333). -/
def lopBrev (t : VTy) : LaneOp :=
  { dW := t.words, aW := t.words, f := fun _ a _ _ =>
      (t.store (BitVec.ofNat 64 ((List.range t.bits).foldl
        (fun r i => if a.getLsbD i then r + 2 ^ (t.bits - 1 - i) else r) 0)), 0) }

/-! ### Compare, select, move, address (R334-R336) -/

/-- A comparison sets a predicate (R334). -/
def lopCmp (t : VTy) (g : Int → Int → Bool) : LaneOp :=
  { dW := 1, aW := t.words, bW := t.words, dPred := true,
    f := fun _ a b _ => (if g (t.val a) (t.val b) then 1 else 0, 0) }
def lopCmpEq (t : VTy) : LaneOp := lopCmp t (fun a b => decide (a = b))
def lopCmpNe (t : VTy) : LaneOp := lopCmp t (fun a b => decide (a ≠ b))
def lopCmpLt (t : VTy) : LaneOp := lopCmp t (fun a b => decide (a < b))
def lopCmpLe (t : VTy) : LaneOp := lopCmp t (fun a b => decide (a ≤ b))
def lopCmpGt (t : VTy) : LaneOp := lopCmp t (fun a b => decide (b < a))
def lopCmpGe (t : VTy) : LaneOp := lopCmp t (fun a b => decide (b ≤ a))

/-- a where the predicate C is 1, else b (R335). -/
def lopSel (t : VTy) : LaneOp :=
  { dW := t.words, aW := t.words, bW := t.words, cW := 1, cPred := true,
    f := fun _ a b c => (t.store (if c.getLsbD 0 then a else b), 0) }
def lopMov (t : VTy) : LaneOp := { dW := t.words, aW := t.words, f := fun _ a _ _ => (t.store a, 0) }
/-- The operand b as a result: `movi` (R337). -/
def lopMovi (t : VTy) : LaneOp := { dW := t.words, aW := 0, bW := t.words, f := fun _ _ b _ => (t.store b, 0) }

/-- Address computation, `.b32` and `.b64` only (R336). -/
def lopLea (t : VTy) : Option LaneOp :=
  if t.bits < 32 then none
  else some { dW := t.words, aW := t.words, bW := 1, cW := 1, f := fun _ a b c =>
    let x : DWord := if t.bits = 64 then (b.setWidth 32).signExtend 64 else b
    (t.store (a + (x <<< (c.toNat % t.bits))), 0) }
/-- `lea d, a, imm` computes a + imm (R337). -/
def lopLeaImm (t : VTy) : Option LaneOp :=
  if t.bits < 32 then none else some (lopBits t (· + ·))

/-- The signed types only: `abs` and `neg` (R321). -/
def signedOnly (t : VTy) (op : LaneOp) : Option LaneOp := if t.signed then some op else none

end Sys2Proof.Machine
end

