-- ==== Sys2Proof/Machine/Integer.lean ====
section
/-!
DEFINITION. The meanings of the integer instructions: S16, L32 and L64 (R290, R321-R337).
-/

namespace Sys2Proof.Machine

/-- S16 `add.i32` (R290). -/
def execS16AddI32 (s : State) : Host.Outcome State Fault Refusal :=
  withS16 s (fun f => lane16 .s16AddI32 false (lopAdd tyI32) f s)

/-- S16 `sub.i32` (R290). -/
def execS16SubI32 (s : State) : Host.Outcome State Fault Refusal :=
  withS16 s (fun f => lane16 .s16SubI32 false (lopSub tyI32) f s)

/-- S16 `mov` (R290). -/
def execS16Mov (s : State) : Host.Outcome State Fault Refusal :=
  withS16 s (fun f => lane16 .s16Mov false (lopMovi tyN32) f s)

/-- S16 `and.b32` (R290). -/
def execS16AndB32 (s : State) : Host.Outcome State Fault Refusal :=
  withS16 s (fun f => lane16 .s16AndB32 false (lopAnd tyN32) f s)

/-- S16 `or.b32` (R290). -/
def execS16OrB32 (s : State) : Host.Outcome State Fault Refusal :=
  withS16 s (fun f => lane16 .s16OrB32 false (lopOr tyN32) f s)

/-- S16 `xor.b32` (R290). -/
def execS16XorB32 (s : State) : Host.Outcome State Fault Refusal :=
  withS16 s (fun f => lane16 .s16XorB32 false (lopXor tyN32) f s)

/-- S16 `shl.b32` (R290). -/
def execS16ShlB32 (s : State) : Host.Outcome State Fault Refusal :=
  withS16 s (fun f => lane16 .s16ShlB32 false (lopShl tyN32) f s)

/-- S16 `shr.n32` (R290). -/
def execS16ShrN32 (s : State) : Host.Outcome State Fault Refusal :=
  withS16 s (fun f => lane16 .s16ShrN32 false (lopShr tyN32) f s)

/-- S16 `min.i32` (R290). -/
def execS16MinI32 (s : State) : Host.Outcome State Fault Refusal :=
  withS16 s (fun f => lane16 .s16MinI32 false (lopMin tyI32) f s)

/-- S16 `max.i32` (R290). -/
def execS16MaxI32 (s : State) : Host.Outcome State Fault Refusal :=
  withS16 s (fun f => lane16 .s16MaxI32 false (lopMax tyI32) f s)

/-- L32 form of the register operands (R321, R326). -/
def execAddI32L32 (s : State) : Host.Outcome State Fault Refusal :=
  withL32 s (fun f => laneDab .addI32L32 (lopAdd tyI32) f s)

/-- L32 form of the register operands (R321, R326). -/
def execSubI32L32 (s : State) : Host.Outcome State Fault Refusal :=
  withL32 s (fun f => laneDab .subI32L32 (lopSub tyI32) f s)

/-- L32 form of the register operands (R321, R326). -/
def execMulLoI32L32 (s : State) : Host.Outcome State Fault Refusal :=
  withL32 s (fun f => laneDab .mulLoI32L32 (lopMulLo tyI32) f s)

/-- L32 form of the register operands (R321, R326). -/
def execMulHiI32L32 (s : State) : Host.Outcome State Fault Refusal :=
  withL32 s (fun f => laneDab .mulHiI32L32 (lopMulHi tyI32) f s)

/-- L32 form of the register operands (R321, R326). -/
def execMulHiN32L32 (s : State) : Host.Outcome State Fault Refusal :=
  withL32 s (fun f => laneDab .mulHiN32L32 (lopMulHi tyN32) f s)

/-- L32 form of the register operands (R321, R329). -/
def execMinI32L32 (s : State) : Host.Outcome State Fault Refusal :=
  withL32 s (fun f => laneDab .minI32L32 (lopMin tyI32) f s)

/-- L32 form of the register operands (R321, R329). -/
def execMaxI32L32 (s : State) : Host.Outcome State Fault Refusal :=
  withL32 s (fun f => laneDab .maxI32L32 (lopMax tyI32) f s)

/-- L32 form of the register operands (R321, R329). -/
def execMinN32L32 (s : State) : Host.Outcome State Fault Refusal :=
  withL32 s (fun f => laneDab .minN32L32 (lopMin tyN32) f s)

/-- L32 form of the register operands (R321, R329). -/
def execMaxN32L32 (s : State) : Host.Outcome State Fault Refusal :=
  withL32 s (fun f => laneDab .maxN32L32 (lopMax tyN32) f s)

/-- L32 form of the register operands (R321, R330). -/
def execAndB32L32 (s : State) : Host.Outcome State Fault Refusal :=
  withL32 s (fun f => laneDab .andB32L32 (lopAnd tyN32) f s)

/-- L32 form of the register operands (R321, R330). -/
def execOrB32L32 (s : State) : Host.Outcome State Fault Refusal :=
  withL32 s (fun f => laneDab .orB32L32 (lopOr tyN32) f s)

/-- L32 form of the register operands (R321, R330). -/
def execXorB32L32 (s : State) : Host.Outcome State Fault Refusal :=
  withL32 s (fun f => laneDab .xorB32L32 (lopXor tyN32) f s)

/-- L32 form of the register operands (R321, R331). -/
def execShlB32L32 (s : State) : Host.Outcome State Fault Refusal :=
  withL32 s (fun f => laneDab .shlB32L32 (lopShl tyN32) f s)

/-- L32 form of the register operands (R321, R331). -/
def execShrN32L32 (s : State) : Host.Outcome State Fault Refusal :=
  withL32 s (fun f => laneDab .shrN32L32 (lopShr tyN32) f s)

/-- L32 form of the register operands (R321, R331). -/
def execShrI32L32 (s : State) : Host.Outcome State Fault Refusal :=
  withL32 s (fun f => laneDab .shrI32L32 (lopShr tyI32) f s)

/-- L32 form of the register operands (R321, R331). -/
def execRotlB32L32 (s : State) : Host.Outcome State Fault Refusal :=
  withL32 s (fun f => laneDab .rotlB32L32 (lopRotl tyN32) f s)

/-- L32 form of the register operands (R321, R331). -/
def execRotrB32L32 (s : State) : Host.Outcome State Fault Refusal :=
  withL32 s (fun f => laneDab .rotrB32L32 (lopRotr tyN32) f s)

/-- L32 form of the register operands (R321, R329). -/
def execAddSatI32L32 (s : State) : Host.Outcome State Fault Refusal :=
  withL32 s (fun f => laneDab .addSatI32L32 (lopAddSat tyI32) f s)

/-- L32 form of the register operands (R321, R329). -/
def execSubSatI32L32 (s : State) : Host.Outcome State Fault Refusal :=
  withL32 s (fun f => laneDab .subSatI32L32 (lopSubSat tyI32) f s)

/-- L32 form of the register operands (R321, R335). -/
def execMovL32 (s : State) : Host.Outcome State Fault Refusal :=
  withL32 s (fun f => laneDab .movL32 (lopMov tyN32) f s)

/-- L32 form of the register operands (R321, R329). -/
def execAbsI32L32 (s : State) : Host.Outcome State Fault Refusal :=
  withL32 s (fun f => laneDab .absI32L32 (lopAbs tyI32) f s)

/-- L32 form of the register operands (R321, R329). -/
def execNegI32L32 (s : State) : Host.Outcome State Fault Refusal :=
  withL32 s (fun f => laneDab .negI32L32 (lopNeg tyI32) f s)

/-- L32 form of the register operands (R321, R330). -/
def execNotB32L32 (s : State) : Host.Outcome State Fault Refusal :=
  withL32 s (fun f => laneDab .notB32L32 (lopNot tyN32) f s)

/-- L32 form of the register operands (R321, R333). -/
def execPopcB32L32 (s : State) : Host.Outcome State Fault Refusal :=
  withL32 s (fun f => laneDab .popcB32L32 (lopPopc tyN32) f s)

/-- L32 form of the register operands (R321, R333). -/
def execClzB32L32 (s : State) : Host.Outcome State Fault Refusal :=
  withL32 s (fun f => laneDab .clzB32L32 (lopClz tyN32) f s)

/-- L32 form of the register operands (R321, R333). -/
def execCtzB32L32 (s : State) : Host.Outcome State Fault Refusal :=
  withL32 s (fun f => laneDab .ctzB32L32 (lopCtz tyN32) f s)

/-- L32 form of the register operands (R321, R333). -/
def execBrevB32L32 (s : State) : Host.Outcome State Fault Refusal :=
  withL32 s (fun f => laneDab .brevB32L32 (lopBrev tyN32) f s)

/-- L32 form with IMM7 (R292, R337). -/
def execAddI32ImmL32 (s : State) : Host.Outcome State Fault Refusal :=
  withL32 s (fun f => laneDai .addI32ImmL32 (lopAdd tyI32) f s)

/-- L32 form with IMM7 (R292, R337). -/
def execMulLoI32ImmL32 (s : State) : Host.Outcome State Fault Refusal :=
  withL32 s (fun f => laneDai .mulLoI32ImmL32 (lopMulLo tyI32) f s)

/-- L32 form with IMM7 (R292, R337). -/
def execAndB32ImmL32 (s : State) : Host.Outcome State Fault Refusal :=
  withL32 s (fun f => laneDai .andB32ImmL32 (lopAnd tyN32) f s)

/-- L32 form with IMM7 (R292, R337). -/
def execOrB32ImmL32 (s : State) : Host.Outcome State Fault Refusal :=
  withL32 s (fun f => laneDai .orB32ImmL32 (lopOr tyN32) f s)

/-- L32 form with IMM7 (R292, R337). -/
def execXorB32ImmL32 (s : State) : Host.Outcome State Fault Refusal :=
  withL32 s (fun f => laneDai .xorB32ImmL32 (lopXor tyN32) f s)

/-- L32 form with IMM7 (R292, R337). -/
def execShlB32ImmL32 (s : State) : Host.Outcome State Fault Refusal :=
  withL32 s (fun f => laneDai .shlB32ImmL32 (lopShl tyN32) f s)

/-- L32 form with IMM7 (R292, R337). -/
def execShrN32ImmL32 (s : State) : Host.Outcome State Fault Refusal :=
  withL32 s (fun f => laneDai .shrN32ImmL32 (lopShr tyN32) f s)

/-- L32 form with IMM7 (R292, R337). -/
def execShrI32ImmL32 (s : State) : Host.Outcome State Fault Refusal :=
  withL32 s (fun f => laneDai .shrI32ImmL32 (lopShr tyI32) f s)

/-- L32 form with IMM7 (R292, R337). -/
def execMinI32ImmL32 (s : State) : Host.Outcome State Fault Refusal :=
  withL32 s (fun f => laneDai .minI32ImmL32 (lopMin tyI32) f s)

/-- L32 form with IMM7 (R292, R337). -/
def execMaxI32ImmL32 (s : State) : Host.Outcome State Fault Refusal :=
  withL32 s (fun f => laneDai .maxI32ImmL32 (lopMax tyI32) f s)

/-- L32 form with IMM7 (R292, R337). -/
def execMoviL32 (s : State) : Host.Outcome State Fault Refusal :=
  withL32 s (fun f => laneDai .moviL32 (lopMovi tyN32) f s)

/-- L64 form (R321, R326). -/
def execAdd (s : State) : Host.Outcome State Fault Refusal :=
  withA s (fun f => laneA .add (some (lopAdd (intTy f.ty))) true f s)

/-- L64 form (R321, R326). -/
def execSub (s : State) : Host.Outcome State Fault Refusal :=
  withA s (fun f => laneA .sub (some (lopSub (intTy f.ty))) true f s)

/-- L64 form (R321, R326). -/
def execMulLo (s : State) : Host.Outcome State Fault Refusal :=
  withA s (fun f => laneA .mulLo (some (lopMulLo (intTy f.ty))) true f s)

/-- L64 form (R321, R326). -/
def execMulHi (s : State) : Host.Outcome State Fault Refusal :=
  withA s (fun f => laneA .mulHi (some (lopMulHi (intTy f.ty))) true f s)

/-- L64 form (R321, R326). -/
def execMadLo (s : State) : Host.Outcome State Fault Refusal :=
  withA s (fun f => laneA .madLo (some (lopMadLo (intTy f.ty))) true f s)

/-- L64 form (R321, R326). -/
def execMadHi (s : State) : Host.Outcome State Fault Refusal :=
  withA s (fun f => laneA .madHi (some (lopMadHi (intTy f.ty))) true f s)

/-- L64 form (R321, R327). -/
def execMulFull (s : State) : Host.Outcome State Fault Refusal :=
  withA s (fun f => laneA .mulFull (lopMulFull (intTy f.ty)) true f s)

/-- L64 form (R321, R327). -/
def execMadFull (s : State) : Host.Outcome State Fault Refusal :=
  withA s (fun f => laneA .madFull (lopMadFull (intTy f.ty)) true f s)

/-- L64 form (R321, R328). -/
def execDiv (s : State) : Host.Outcome State Fault Refusal :=
  withA s (fun f => laneA .div (some (lopDiv (intTy f.ty))) true f s)

/-- L64 form (R321, R328). -/
def execRem (s : State) : Host.Outcome State Fault Refusal :=
  withA s (fun f => laneA .rem (some (lopRem (intTy f.ty))) true f s)

/-- L64 form (R321, R329). -/
def execMin (s : State) : Host.Outcome State Fault Refusal :=
  withA s (fun f => laneA .min (some (lopMin (intTy f.ty))) true f s)

/-- L64 form (R321, R329). -/
def execMax (s : State) : Host.Outcome State Fault Refusal :=
  withA s (fun f => laneA .max (some (lopMax (intTy f.ty))) true f s)

/-- L64 form (R321, R329). -/
def execAbs (s : State) : Host.Outcome State Fault Refusal :=
  withA s (fun f => laneA .abs (signedOnly (intTy f.ty) (lopAbs (intTy f.ty))) false f s)

/-- L64 form (R321, R329). -/
def execNeg (s : State) : Host.Outcome State Fault Refusal :=
  withA s (fun f => laneA .neg (signedOnly (intTy f.ty) (lopNeg (intTy f.ty))) false f s)

/-- L64 form (R321, R329). -/
def execAddSat (s : State) : Host.Outcome State Fault Refusal :=
  withA s (fun f => laneA .addSat (some (lopAddSat (intTy f.ty))) true f s)

/-- L64 form (R321, R329). -/
def execSubSat (s : State) : Host.Outcome State Fault Refusal :=
  withA s (fun f => laneA .subSat (some (lopSubSat (intTy f.ty))) true f s)

/-- L64 form (R321, R330). -/
def execAnd (s : State) : Host.Outcome State Fault Refusal :=
  withA s (fun f => laneA .and ((bitTy f.ty).map lopAnd) true f s)

/-- L64 form (R321, R330). -/
def execOr (s : State) : Host.Outcome State Fault Refusal :=
  withA s (fun f => laneA .or ((bitTy f.ty).map lopOr) true f s)

/-- L64 form (R321, R330). -/
def execXor (s : State) : Host.Outcome State Fault Refusal :=
  withA s (fun f => laneA .xor ((bitTy f.ty).map lopXor) true f s)

/-- L64 form (R321, R330). -/
def execNot (s : State) : Host.Outcome State Fault Refusal :=
  withA s (fun f => laneA .not ((bitTy f.ty).map lopNot) false f s)

/-- L64 form (R321, R330). -/
def execAndn (s : State) : Host.Outcome State Fault Refusal :=
  withA s (fun f => laneA .andn ((bitTy f.ty).map lopAndn) true f s)

/-- L64 form (R321, R331). -/
def execShl (s : State) : Host.Outcome State Fault Refusal :=
  withA s (fun f => laneA .shl ((bitTy f.ty).map lopShl) true f s)

/-- L64 form (R321, R331). -/
def execRotl (s : State) : Host.Outcome State Fault Refusal :=
  withA s (fun f => laneA .rotl ((bitTy f.ty).map lopRotl) true f s)

/-- L64 form (R321, R331). -/
def execRotr (s : State) : Host.Outcome State Fault Refusal :=
  withA s (fun f => laneA .rotr ((bitTy f.ty).map lopRotr) true f s)

/-- L64 form (R321, R332). -/
def execBfi (s : State) : Host.Outcome State Fault Refusal :=
  withA s (fun f => laneA .bfi ((bitTy f.ty).map lopBfi) true f s)

/-- L64 form (R321, R333). -/
def execPopc (s : State) : Host.Outcome State Fault Refusal :=
  withA s (fun f => laneA .popc ((bitTy f.ty).map lopPopc) false f s)

/-- L64 form (R321, R333). -/
def execClz (s : State) : Host.Outcome State Fault Refusal :=
  withA s (fun f => laneA .clz ((bitTy f.ty).map lopClz) false f s)

/-- L64 form (R321, R333). -/
def execCtz (s : State) : Host.Outcome State Fault Refusal :=
  withA s (fun f => laneA .ctz ((bitTy f.ty).map lopCtz) false f s)

/-- L64 form (R321, R333). -/
def execBrev (s : State) : Host.Outcome State Fault Refusal :=
  withA s (fun f => laneA .brev ((bitTy f.ty).map lopBrev) false f s)

/-- L64 form (R321, R331). -/
def execShr (s : State) : Host.Outcome State Fault Refusal :=
  withA s (fun f => laneA .shr (some (lopShr (intTy f.ty))) true f s)

/-- L64 form (R321, R332). -/
def execBfe (s : State) : Host.Outcome State Fault Refusal :=
  withA s (fun f => laneA .bfe (some (lopBfe (intTy f.ty))) true f s)

/-- L64 form (R321, R334). -/
def execCmpEq (s : State) : Host.Outcome State Fault Refusal :=
  withA s (fun f => laneA .cmpEq (some (lopCmpEq (intTy f.ty))) true f s)

/-- L64 form (R321, R334). -/
def execCmpNe (s : State) : Host.Outcome State Fault Refusal :=
  withA s (fun f => laneA .cmpNe (some (lopCmpNe (intTy f.ty))) true f s)

/-- L64 form (R321, R334). -/
def execCmpLt (s : State) : Host.Outcome State Fault Refusal :=
  withA s (fun f => laneA .cmpLt (some (lopCmpLt (intTy f.ty))) true f s)

/-- L64 form (R321, R334). -/
def execCmpLe (s : State) : Host.Outcome State Fault Refusal :=
  withA s (fun f => laneA .cmpLe (some (lopCmpLe (intTy f.ty))) true f s)

/-- L64 form (R321, R334). -/
def execCmpGt (s : State) : Host.Outcome State Fault Refusal :=
  withA s (fun f => laneA .cmpGt (some (lopCmpGt (intTy f.ty))) true f s)

/-- L64 form (R321, R334). -/
def execCmpGe (s : State) : Host.Outcome State Fault Refusal :=
  withA s (fun f => laneA .cmpGe (some (lopCmpGe (intTy f.ty))) true f s)

/-- L64 form (R321, R335). -/
def execSel (s : State) : Host.Outcome State Fault Refusal :=
  withA s (fun f => laneA .sel ((bitTy f.ty).map lopSel) true f s)

/-- L64 form (R321, R335). -/
def execMov (s : State) : Host.Outcome State Fault Refusal :=
  withA s (fun f => laneA .mov ((bitTy f.ty).map lopMov) false f s)

/-- L64 form (R321, R336). -/
def execLea (s : State) : Host.Outcome State Fault Refusal :=
  withA s (fun f => laneA .lea ((bitTy f.ty).bind lopLea) true f s)

/-- L64 form with IMM32 (R337). -/
def execAddImm (s : State) : Host.Outcome State Fault Refusal :=
  withB s (fun f => laneB .addImm (some (lopAdd (intTy f.ty))) f s)

/-- L64 form with IMM32 (R337). -/
def execMulLoImm (s : State) : Host.Outcome State Fault Refusal :=
  withB s (fun f => laneB .mulLoImm (some (lopMulLo (intTy f.ty))) f s)

/-- L64 form with IMM32 (R337). -/
def execMinImm (s : State) : Host.Outcome State Fault Refusal :=
  withB s (fun f => laneB .minImm (some (lopMin (intTy f.ty))) f s)

/-- L64 form with IMM32 (R337). -/
def execMaxImm (s : State) : Host.Outcome State Fault Refusal :=
  withB s (fun f => laneB .maxImm (some (lopMax (intTy f.ty))) f s)

/-- L64 form with IMM32 (R337). -/
def execShrImm (s : State) : Host.Outcome State Fault Refusal :=
  withB s (fun f => laneB .shrImm (some (lopShr (intTy f.ty))) f s)

/-- L64 form with IMM32 (R337). -/
def execAndImm (s : State) : Host.Outcome State Fault Refusal :=
  withB s (fun f => laneB .andImm ((bitTy f.ty).map lopAnd) f s)

/-- L64 form with IMM32 (R337). -/
def execOrImm (s : State) : Host.Outcome State Fault Refusal :=
  withB s (fun f => laneB .orImm ((bitTy f.ty).map lopOr) f s)

/-- L64 form with IMM32 (R337). -/
def execXorImm (s : State) : Host.Outcome State Fault Refusal :=
  withB s (fun f => laneB .xorImm ((bitTy f.ty).map lopXor) f s)

/-- L64 form with IMM32 (R337). -/
def execShlImm (s : State) : Host.Outcome State Fault Refusal :=
  withB s (fun f => laneB .shlImm ((bitTy f.ty).map lopShl) f s)

/-- L64 form with IMM32 (R337). -/
def execMovi (s : State) : Host.Outcome State Fault Refusal :=
  withB s (fun f => laneB .movi ((bitTy f.ty).map lopMovi) f s)

/-- L64 form with IMM32 (R337). -/
def execLeaImm (s : State) : Host.Outcome State Fault Refusal :=
  withB s (fun f => laneB .leaImm ((bitTy f.ty).bind lopLeaImm) f s)

end Sys2Proof.Machine
end

