-- ==== Sys2Proof/Machine/Memory.lean ====
section
/-!
DEFINITION. The meanings of the memory instructions (R377-R395), one definition each.
-/

namespace Sys2Proof.Machine

/-- L32 load (R381, R382). -/
def execLdI8L32 (s : State) : Host.Outcome State Fault Refusal :=
  withL32 s (fun f => memLdL .ldI8L32 1 true f s)

/-- L32 load (R381, R382). -/
def execLdN8L32 (s : State) : Host.Outcome State Fault Refusal :=
  withL32 s (fun f => memLdL .ldN8L32 1 false f s)

/-- L32 load (R381, R382). -/
def execLdI16L32 (s : State) : Host.Outcome State Fault Refusal :=
  withL32 s (fun f => memLdL .ldI16L32 2 true f s)

/-- L32 load (R381, R382). -/
def execLdN16L32 (s : State) : Host.Outcome State Fault Refusal :=
  withL32 s (fun f => memLdL .ldN16L32 2 false f s)

/-- L32 load (R381, R382). -/
def execLdB32L32 (s : State) : Host.Outcome State Fault Refusal :=
  withL32 s (fun f => memLdL .ldB32L32 4 false f s)

/-- L32 load (R381, R382). -/
def execLdB64L32 (s : State) : Host.Outcome State Fault Refusal :=
  withL32 s (fun f => memLdL .ldB64L32 8 false f s)

/-- L32 store (R381, R382). -/
def execStB8L32 (s : State) : Host.Outcome State Fault Refusal :=
  withL32 s (fun f => memStL .stB8L32 1 f s)

/-- L32 store (R381, R382). -/
def execStB16L32 (s : State) : Host.Outcome State Fault Refusal :=
  withL32 s (fun f => memStL .stB16L32 2 f s)

/-- L32 store (R381, R382). -/
def execStB32L32 (s : State) : Host.Outcome State Fault Refusal :=
  withL32 s (fun f => memStL .stB32L32 4 f s)

/-- L32 store (R381, R382). -/
def execStB64L32 (s : State) : Host.Outcome State Fault Refusal :=
  withL32 s (fun f => memStL .stB64L32 8 f s)

/-- L32 `lds.b32` (R385). -/
def execLdsB32L32 (s : State) : Host.Outcome State Fault Refusal :=
  withL32 s (fun f => memLdsL .ldsB32L32 f s)

/-- L32 `sts.b32` (R385). -/
def execStsB32L32 (s : State) : Host.Outcome State Fault Refusal :=
  withL32 s (fun f => memStsL .stsB32L32 f s)

/-- L32 `ldk.b32` (R384). -/
def execLdkB32L32 (s : State) : Host.Outcome State Fault Refusal :=
  withL32 s (fun f => memLdkL .ldkB32L32 f s)

/-- L32 `atom` (R389-R392). -/
def execAtomAddN32L32 (s : State) : Host.Outcome State Fault Refusal :=
  withL32 s (fun f => memAtomL .atomAddN32L32 .add f s)

/-- L32 `atom` (R389-R392). -/
def execAtomMinI32L32 (s : State) : Host.Outcome State Fault Refusal :=
  withL32 s (fun f => memAtomL .atomMinI32L32 .minI f s)

/-- L32 `atom` (R389-R392). -/
def execAtomMaxI32L32 (s : State) : Host.Outcome State Fault Refusal :=
  withL32 s (fun f => memAtomL .atomMaxI32L32 .maxI f s)

/-- L32 `atom` (R389-R392). -/
def execAtomMinN32L32 (s : State) : Host.Outcome State Fault Refusal :=
  withL32 s (fun f => memAtomL .atomMinN32L32 .minN f s)

/-- L32 `atom` (R389-R392). -/
def execAtomMaxN32L32 (s : State) : Host.Outcome State Fault Refusal :=
  withL32 s (fun f => memAtomL .atomMaxN32L32 .maxN f s)

/-- L32 `atom` (R389-R392). -/
def execAtomAndB32L32 (s : State) : Host.Outcome State Fault Refusal :=
  withL32 s (fun f => memAtomL .atomAndB32L32 .and f s)

/-- L32 `atom` (R389-R392). -/
def execAtomOrB32L32 (s : State) : Host.Outcome State Fault Refusal :=
  withL32 s (fun f => memAtomL .atomOrB32L32 .or f s)

/-- L32 `atom` (R389-R392). -/
def execAtomXorB32L32 (s : State) : Host.Outcome State Fault Refusal :=
  withL32 s (fun f => memAtomL .atomXorB32L32 .xor f s)

/-- L32 `atom` (R389-R392). -/
def execAtomXchgB32L32 (s : State) : Host.Outcome State Fault Refusal :=
  withL32 s (fun f => memAtomL .atomXchgB32L32 .xchg f s)

/-- L32 `red` (R389-R392). -/
def execRedAddN32L32 (s : State) : Host.Outcome State Fault Refusal :=
  withL32 s (fun f => memRedL .redAddN32L32 .add f s)

/-- L32 `red` (R389-R392). -/
def execRedMinI32L32 (s : State) : Host.Outcome State Fault Refusal :=
  withL32 s (fun f => memRedL .redMinI32L32 .minI f s)

/-- L32 `red` (R389-R392). -/
def execRedMaxI32L32 (s : State) : Host.Outcome State Fault Refusal :=
  withL32 s (fun f => memRedL .redMaxI32L32 .maxI f s)

/-- L32 `red` (R389-R392). -/
def execRedMinN32L32 (s : State) : Host.Outcome State Fault Refusal :=
  withL32 s (fun f => memRedL .redMinN32L32 .minN f s)

/-- L32 `red` (R389-R392). -/
def execRedMaxN32L32 (s : State) : Host.Outcome State Fault Refusal :=
  withL32 s (fun f => memRedL .redMaxN32L32 .maxN f s)

/-- L32 `red` (R389-R392). -/
def execRedAndB32L32 (s : State) : Host.Outcome State Fault Refusal :=
  withL32 s (fun f => memRedL .redAndB32L32 .and f s)

/-- L32 `red` (R389-R392). -/
def execRedOrB32L32 (s : State) : Host.Outcome State Fault Refusal :=
  withL32 s (fun f => memRedL .redOrB32L32 .or f s)

/-- L32 `red` (R389-R392). -/
def execRedXorB32L32 (s : State) : Host.Outcome State Fault Refusal :=
  withL32 s (fun f => memRedL .redXorB32L32 .xor f s)

/-- `waitv.eq.b32` (R393, R394). -/
def execWaitvEqL32 (s : State) : Host.Outcome State Fault Refusal :=
  withL32 s (fun f => memWaitvL .waitvEqL32 0 f s)

/-- `waitv.ne.b32` (R393, R394). -/
def execWaitvNeL32 (s : State) : Host.Outcome State Fault Refusal :=
  withL32 s (fun f => memWaitvL .waitvNeL32 1 f s)

/-- `ld`, zero-extending (R381, R382). -/
def execLd (s : State) : Host.Outcome State Fault Refusal :=
  withC s (fun f => memLd .ld false f s)

/-- `ld`, sign-extending (R381, R382). -/
def execLdSx (s : State) : Host.Outcome State Fault Refusal :=
  withC s (fun f => memLd .ldSx true f s)

/-- `st` (R381, R382). -/
def execSt (s : State) : Host.Outcome State Fault Refusal :=
  withC s (fun f => memSt .st f s)

/-- `ldk` (R384). -/
def execLdk (s : State) : Host.Outcome State Fault Refusal :=
  withC s (fun f => memLdk .ldk f s)

/-- `lds`, zero-extending (R385). -/
def execLds (s : State) : Host.Outcome State Fault Refusal :=
  withC s (fun f => memLds .lds false f s)

/-- `lds`, sign-extending (R385). -/
def execLdsSx (s : State) : Host.Outcome State Fault Refusal :=
  withC s (fun f => memLds .ldsSx true f s)

/-- `sts` (R385). -/
def execSts (s : State) : Host.Outcome State Fault Refusal :=
  withC s (fun f => memSts .sts f s)

/-- `stm` (R386, R137). -/
def execStm (s : State) : Host.Outcome State Fault Refusal :=
  withC s (fun f => memStm .stm f s)

/-- `prefetch` (R387). -/
def execPrefetch (s : State) : Host.Outcome State Fault Refusal :=
  withC s (fun f => memPrefetch .prefetch f s)

/-- `cwb` (R388). -/
def execCwb (s : State) : Host.Outcome State Fault Refusal :=
  withC s (fun f => memRange .cwb 6 f s)

/-- `cinv` (R388). -/
def execCinv (s : State) : Host.Outcome State Fault Refusal :=
  withC s (fun f => memRange .cinv 7 f s)

/-- `cflush` (R388). -/
def execCflush (s : State) : Host.Outcome State Fault Refusal :=
  withC s (fun f => memRange .cflush 8 f s)

/-- `waitv` (R393, R394). -/
def execWaitv (s : State) : Host.Outcome State Fault Refusal :=
  withC s (fun f => memWaitv .waitv f s)

/-- `atom` (R389-R392). -/
def execAtomAdd (s : State) : Host.Outcome State Fault Refusal :=
  withC s (fun f => memAtom .atomAdd .add f s)

/-- `atom` (R389-R392). -/
def execAtomFadd (s : State) : Host.Outcome State Fault Refusal :=
  withC s (fun f => memAtom .atomFadd .fadd f s)

/-- `atom` (R389-R392). -/
def execAtomMinI (s : State) : Host.Outcome State Fault Refusal :=
  withC s (fun f => memAtom .atomMinI .minI f s)

/-- `atom` (R389-R392). -/
def execAtomMinN (s : State) : Host.Outcome State Fault Refusal :=
  withC s (fun f => memAtom .atomMinN .minN f s)

/-- `atom` (R389-R392). -/
def execAtomMaxI (s : State) : Host.Outcome State Fault Refusal :=
  withC s (fun f => memAtom .atomMaxI .maxI f s)

/-- `atom` (R389-R392). -/
def execAtomMaxN (s : State) : Host.Outcome State Fault Refusal :=
  withC s (fun f => memAtom .atomMaxN .maxN f s)

/-- `atom` (R389-R392). -/
def execAtomAnd (s : State) : Host.Outcome State Fault Refusal :=
  withC s (fun f => memAtom .atomAnd .and f s)

/-- `atom` (R389-R392). -/
def execAtomOr (s : State) : Host.Outcome State Fault Refusal :=
  withC s (fun f => memAtom .atomOr .or f s)

/-- `atom` (R389-R392). -/
def execAtomXor (s : State) : Host.Outcome State Fault Refusal :=
  withC s (fun f => memAtom .atomXor .xor f s)

/-- `atom` (R389-R392). -/
def execAtomXchg (s : State) : Host.Outcome State Fault Refusal :=
  withC s (fun f => memAtom .atomXchg .xchg f s)

/-- `atom` (R389-R392). -/
def execAtomCas (s : State) : Host.Outcome State Fault Refusal :=
  withC s (fun f => memAtom .atomCas .cas f s)

/-- `atom` (R389-R392). -/
def execAtomIncwrap (s : State) : Host.Outcome State Fault Refusal :=
  withC s (fun f => memAtom .atomIncwrap .incwrap f s)

/-- `red` (R389-R392). -/
def execRedAdd (s : State) : Host.Outcome State Fault Refusal :=
  withC s (fun f => memRed .redAdd .add f s)

/-- `red` (R389-R392). -/
def execRedFadd (s : State) : Host.Outcome State Fault Refusal :=
  withC s (fun f => memRed .redFadd .fadd f s)

/-- `red` (R389-R392). -/
def execRedMinI (s : State) : Host.Outcome State Fault Refusal :=
  withC s (fun f => memRed .redMinI .minI f s)

/-- `red` (R389-R392). -/
def execRedMinN (s : State) : Host.Outcome State Fault Refusal :=
  withC s (fun f => memRed .redMinN .minN f s)

/-- `red` (R389-R392). -/
def execRedMaxI (s : State) : Host.Outcome State Fault Refusal :=
  withC s (fun f => memRed .redMaxI .maxI f s)

/-- `red` (R389-R392). -/
def execRedMaxN (s : State) : Host.Outcome State Fault Refusal :=
  withC s (fun f => memRed .redMaxN .maxN f s)

/-- `red` (R389-R392). -/
def execRedAnd (s : State) : Host.Outcome State Fault Refusal :=
  withC s (fun f => memRed .redAnd .and f s)

/-- `red` (R389-R392). -/
def execRedOr (s : State) : Host.Outcome State Fault Refusal :=
  withC s (fun f => memRed .redOr .or f s)

/-- `red` (R389-R392). -/
def execRedXor (s : State) : Host.Outcome State Fault Refusal :=
  withC s (fun f => memRed .redXor .xor f s)

/-- `red` (R389-R392). -/
def execRedIncwrap (s : State) : Host.Outcome State Fault Refusal :=
  withC s (fun f => memRed .redIncwrap .incwrap f s)

/-- Fence (R395, R170). -/
def execFenceAcq (s : State) : Host.Outcome State Fault Refusal :=
  withC s (fun f => memFence .fenceAcq true f s)

/-- Fence (R395, R170). -/
def execFenceRel (s : State) : Host.Outcome State Fault Refusal :=
  withC s (fun f => memFence .fenceRel false f s)

/-- Fence (R395, R170). -/
def execFenceAr (s : State) : Host.Outcome State Fault Refusal :=
  withC s (fun f => memFence .fenceAr true f s)

/-- Fence (R395, R170). -/
def execFenceSc (s : State) : Host.Outcome State Fault Refusal :=
  withC s (fun f => memFence .fenceSc true f s)

end Sys2Proof.Machine
end

