-- ==== Sys2Proof/Machine/Tensor.lean ====
section
/-!
DEFINITION. The meanings of the matrix and engine instructions (R407-R425), one definition each.
-/

namespace Sys2Proof.Machine

/-- `mma` (R410-R413). -/
def execMma (s : State) : Host.Outcome State Fault Refusal := withA s (fun f => mmaIssue .mma false f s)

/-- `mma.pair` (R410-R413). -/
def execMmaPair (s : State) : Host.Outcome State Fault Refusal := withA s (fun f => mmaIssue .mmaPair true f s)

/-- `mzero` (R414). -/
def execMzero (s : State) : Host.Outcome State Fault Refusal := withA s (fun f => mzeroIssue .mzero f s)

/-- `mload` (R415). -/
def execMload (s : State) : Host.Outcome State Fault Refusal := withA s (fun f => mloadIssue .mload f s)

/-- `mdrain` (R424). -/
def execMdrain (s : State) : Host.Outcome State Fault Refusal := withA s (fun f => mdrainIssue .mdrain f s)

/-- `mbatch` (R417, R221). -/
def execMbatch (s : State) : Host.Outcome State Fault Refusal := withA s (fun f => mbatchIssue .mbatch f s)

/-- `mwait` (R417). -/
def execMwait (s : State) : Host.Outcome State Fault Refusal := withB s (fun f => mwaitIssue .mwait f s)

/-- `mrow` (R416). -/
def execMrow (s : State) : Host.Outcome State Fault Refusal := withA s (fun f => mrowIssue .mrow f s)

/-- `enl` (R422). -/
def execEnl (s : State) : Host.Outcome State Fault Refusal := withA s (fun f => engIssue .enl 0 f s)

/-- `fix` (R423). -/
def execFix (s : State) : Host.Outcome State Fault Refusal := withA s (fun f => engIssue .fix 1 f s)

/-- `ewait` (R425). -/
def execEwait (s : State) : Host.Outcome State Fault Refusal := withB s (fun f => ewaitIssue .ewait f s)

end Sys2Proof.Machine
end

