-- ==== Sys2Proof/Machine/Turns.lean ====
section
/-!
DEFINITION. The events of a core and its warps: exchanges (R39), rotation and parking (R41, R216, R217), the end of a sleep
(R348), polls (R394), deferred faults (R56), the operand log (R62, R64), arrivals (R79, R123, R328), fetch (R58) and drain
(R140).
-/

namespace Sys2Proof.Machine

/-! ### Exchanges and waits -/

/-- The pending warp of a slot that has been Ready for 1,024 cc (R39). -/
def starvedWarp (s : State) (ck slot : Nat) : Option (Nat × Nat) :=
  match (s.core ck).issue[slot]? with
  | none => none
  | some q => (q.pending.find? (fun e => q.readySince.any (fun x =>
      x.1 == e.1 && x.2.1 == e.2.1 && decide (x.2.2 + 1024 ≤ s.clock)))).map (fun e => (e.1, e.2.1))

/-- The active warp of a slot that entered its set earliest. -/
def earliestActive (s : State) (ck slot : Nat) : Option (Nat × Nat) :=
  match (s.core ck).issue[slot]? with
  | none => none
  | some q => match q.active with
    | [] => none
    | e :: t => let x := t.foldl (fun a b => if b.2.2 < a.2.2 then b else a) e; some (x.1, x.2.1)

/-- The exchange of R39. -/
def starvedExchange (s : State) (ck slot : Nat) : State :=
  match starvedWarp s ck slot, earliestActive s ck slot with
  | some i, some o => exchange s ck slot o i
  | _, _ => s

/-- A sleep whose count has passed ends (R348). -/
def sleepEnd (s : State) (r : PathRef) : State :=
  match s.slot? r with
  | some sl => (match sl.wait with
      | .sleep t => if t ≤ s.clock then s.updSlot r (fun x => { x with wait := .ready }) else s
      | _ => s)
  | none => s

/-- A result that arrives: all lanes together (R79, R328), once it stands. -/
def longArrive (s : State) (tag : Nat) : State :=
  match s.pend? tag with
  | some p =>
    (match p.kind with
      | .long | .reg | .matrix => if p.vals = [] then s else deliver s tag p.need (fun i => p.vals.get 0 i)
      | _ => s)
  | none => s

/-- A held record is written once the queue has room (R103). -/
def heldWrite (s : State) (dk : Nat) : State :=
  match (s.domain dk).held with
  | h :: t => if (s.domain dk).fltq.open then (writeFaultRecord s dk h.bytes).updDomain dk (fun d => { d with held := t }) else s
  | [] => s

/-- A value or an acknowledgement on its way reaches the core. -/
def responseStep (s : State) (id : Nat) : State :=
  match s.req? id with
  | some r => if mayRespond s r then respond s r else s
  | none => s
def ackStep (s : State) (id : Nat) : State :=
  match s.req? id with
  | some r => if r.stage = .acked ∧ forwardedOn s r.id = false then ackArrive s r else s
  | none => s

/-! ### The meanings -/

/-- PENDING_EXCHANGE (R39). -/
def execPendingExchange (s : State) : Host.Outcome State Fault Refusal := event (fun a s => starvedExchange s a.k a.i) s
/-- ROTATION (R41, R217). -/
def execRotation (s : State) : Host.Outcome State Fault Refusal := event (fun a s => rotatePath s a.k a.i) s
/-- PARK (R216). -/
def execPark (s : State) : Host.Outcome State Fault Refusal := event (fun a s => parkPath s a.k a.i) s
/-- SLEEP_EXPIRE (R348). -/
def execSleepExpire (s : State) : Host.Outcome State Fault Refusal :=
  event (fun a s => sleepEnd s { bid := a.k, wi := a.i, slot := a.j }) s
/-- WAITV_POLL (R394). -/
def execWaitvPoll (s : State) : Host.Outcome State Fault Refusal := event (fun a s => waitvPoll s a.k) s
/-- DEFERRED_FAULT (R56, R57). -/
def execDeferredFault (s : State) : Host.Outcome State Fault Refusal := event (fun a s => deliverDeferred s a.k a.i) s
/-- OPERAND_LOG_ENTRY (R62). -/
def execOperandLogEntry (s : State) : Host.Outcome State Fault Refusal :=
  event (fun a s => if logDue s a.k then logFaults s a.k else s) s
/-- HELD_FAULT_RECORD_WRITE (R103). -/
def execHeldFaultRecordWrite (s : State) : Host.Outcome State Fault Refusal := event (fun a s => heldWrite s a.k) s
/-- OPLOG_REPLAY (R64). -/
def execOplogReplay (s : State) : Host.Outcome State Fault Refusal := event (fun a s => replayEntry s a.k a.i a.j) s
/-- LOAD_RESPONSE (R79, R115). -/
def execLoadResponse (s : State) : Host.Outcome State Fault Refusal := event (fun a s => responseStep s a.k) s
/-- LONG_OP_ARRIVAL (R328). -/
def execLongOpArrival (s : State) : Host.Outcome State Fault Refusal := event (fun a s => longArrive s a.k) s
/-- STORE_ACK (R123). -/
def execStoreAck (s : State) : Host.Outcome State Fault Refusal := event (fun a s => ackStep s a.k) s
/-- WRITE_BUFFER_DRAIN (R140). -/
def execWriteBufferDrain (s : State) : Host.Outcome State Fault Refusal := event (fun a s => drainBank s a.k a.i) s
/-- INSTRUCTION_FETCH (R58, R153). -/
def execInstructionFetch (s : State) : Host.Outcome State Fault Refusal :=
  event (fun a s => fetchEff s { bid := a.k, wi := a.i, slot := a.j }) s

end Sys2Proof.Machine
end

