-- ==== Sys2Proof/Machine/Uniform.lean ====
section
/-!
DEFINITION. The meanings of the uniform integer instructions (R375, R376).
-/

namespace Sys2Proof.Machine

/-- Uniform, L64 (R375, R376). -/
def execUadd (s : State) : Host.Outcome State Fault Refusal :=
  withA s (fun f => uniA .uadd (some (lopAdd (intTy f.ty))) f s)

/-- Uniform, L64 (R375, R376). -/
def execUsub (s : State) : Host.Outcome State Fault Refusal :=
  withA s (fun f => uniA .usub (some (lopSub (intTy f.ty))) f s)

/-- Uniform, L64 (R375, R376). -/
def execUmulLo (s : State) : Host.Outcome State Fault Refusal :=
  withA s (fun f => uniA .umulLo (some (lopMulLo (intTy f.ty))) f s)

/-- Uniform, L64 (R375, R376). -/
def execUand (s : State) : Host.Outcome State Fault Refusal :=
  withA s (fun f => uniA .uand ((bitTy f.ty).map lopAnd) f s)

/-- Uniform, L64 (R375, R376). -/
def execUor (s : State) : Host.Outcome State Fault Refusal :=
  withA s (fun f => uniA .uor ((bitTy f.ty).map lopOr) f s)

/-- Uniform, L64 (R375, R376). -/
def execUxor (s : State) : Host.Outcome State Fault Refusal :=
  withA s (fun f => uniA .uxor ((bitTy f.ty).map lopXor) f s)

/-- Uniform, L64 (R375, R376). -/
def execUshl (s : State) : Host.Outcome State Fault Refusal :=
  withA s (fun f => uniA .ushl ((bitTy f.ty).map lopShl) f s)

/-- Uniform, L64 (R375, R376). -/
def execUshr (s : State) : Host.Outcome State Fault Refusal :=
  withA s (fun f => uniA .ushr (some (lopShr (intTy f.ty))) f s)

/-- Uniform, L64 (R375, R376). -/
def execUmin (s : State) : Host.Outcome State Fault Refusal :=
  withA s (fun f => uniA .umin (some (lopMin (intTy f.ty))) f s)

/-- Uniform, L64 (R375, R376). -/
def execUmax (s : State) : Host.Outcome State Fault Refusal :=
  withA s (fun f => uniA .umax (some (lopMax (intTy f.ty))) f s)

/-- Uniform, L64 (R375, R376). -/
def execUmov (s : State) : Host.Outcome State Fault Refusal :=
  withA s (fun f => uniA .umov ((bitTy f.ty).map lopMov) f s)

/-- Uniform `movi` (R375, R376). -/
def execUmovi (s : State) : Host.Outcome State Fault Refusal :=
  withB s (fun f => uniB .umovi ((bitTy f.ty).map lopMovi) f s)

/-- Uniform, L32 (R375, R376). -/
def execUaddI32L32 (s : State) : Host.Outcome State Fault Refusal :=
  withL32 s (fun f => uniDab .uaddI32L32 (lopAdd tyI32) f s)

/-- Uniform, L32 (R375, R376). -/
def execUsubI32L32 (s : State) : Host.Outcome State Fault Refusal :=
  withL32 s (fun f => uniDab .usubI32L32 (lopSub tyI32) f s)

/-- Uniform, L32 (R375, R376). -/
def execUandB32L32 (s : State) : Host.Outcome State Fault Refusal :=
  withL32 s (fun f => uniDab .uandB32L32 (lopAnd tyN32) f s)

/-- Uniform, L32 (R375, R376). -/
def execUorB32L32 (s : State) : Host.Outcome State Fault Refusal :=
  withL32 s (fun f => uniDab .uorB32L32 (lopOr tyN32) f s)

/-- Uniform, L32 (R375, R376). -/
def execUxorB32L32 (s : State) : Host.Outcome State Fault Refusal :=
  withL32 s (fun f => uniDab .uxorB32L32 (lopXor tyN32) f s)

/-- Uniform, L32 (R375, R376). -/
def execUshlB32L32 (s : State) : Host.Outcome State Fault Refusal :=
  withL32 s (fun f => uniDab .ushlB32L32 (lopShl tyN32) f s)

/-- Uniform, L32 (R375, R376). -/
def execUshrN32L32 (s : State) : Host.Outcome State Fault Refusal :=
  withL32 s (fun f => uniDab .ushrN32L32 (lopShr tyN32) f s)

/-- Uniform, L32 (R375, R376). -/
def execUmovL32 (s : State) : Host.Outcome State Fault Refusal :=
  withL32 s (fun f => uniDab .umovL32 (lopMov tyN32) f s)

/-- Uniform, L32 with IMM7 (R375, R376). -/
def execUaddI32ImmL32 (s : State) : Host.Outcome State Fault Refusal :=
  withL32 s (fun f => uniDai .uaddI32ImmL32 (lopAdd tyI32) f s)

/-- Uniform, L32 with IMM7 (R375, R376). -/
def execUandB32ImmL32 (s : State) : Host.Outcome State Fault Refusal :=
  withL32 s (fun f => uniDai .uandB32ImmL32 (lopAnd tyN32) f s)

/-- Uniform, L32 with IMM7 (R375, R376). -/
def execUshlB32ImmL32 (s : State) : Host.Outcome State Fault Refusal :=
  withL32 s (fun f => uniDai .ushlB32ImmL32 (lopShl tyN32) f s)

/-- Uniform, L32 with IMM7 (R375, R376). -/
def execUshrN32ImmL32 (s : State) : Host.Outcome State Fault Refusal :=
  withL32 s (fun f => uniDai .ushrN32ImmL32 (lopShr tyN32) f s)

end Sys2Proof.Machine
end

