-- ==== Sys2Proof/Machine/Dispatch.lean ====
section
/-!
DEFINITION. One arm per constructor of Instr: a direct call of its meaning.
-/

namespace Sys2Proof.Machine

def exec (i : Instr) (s : State) : Host.Outcome State Fault Refusal :=
  match i with
  | .s16AddI32 => Sys2Proof.Machine.execS16AddI32 s
  | .s16SubI32 => Sys2Proof.Machine.execS16SubI32 s
  | .s16Mov => Sys2Proof.Machine.execS16Mov s
  | .s16AndB32 => Sys2Proof.Machine.execS16AndB32 s
  | .s16OrB32 => Sys2Proof.Machine.execS16OrB32 s
  | .s16XorB32 => Sys2Proof.Machine.execS16XorB32 s
  | .s16ShlB32 => Sys2Proof.Machine.execS16ShlB32 s
  | .s16ShrN32 => Sys2Proof.Machine.execS16ShrN32 s
  | .s16MinI32 => Sys2Proof.Machine.execS16MinI32 s
  | .s16MaxI32 => Sys2Proof.Machine.execS16MaxI32 s
  | .s16FaddF32 => Sys2Proof.Machine.execS16FaddF32 s
  | .s16FsubF32 => Sys2Proof.Machine.execS16FsubF32 s
  | .s16FmulF32 => Sys2Proof.Machine.execS16FmulF32 s
  | .s16FmacF32 => Sys2Proof.Machine.execS16FmacF32 s
  | .s16FminF32 => Sys2Proof.Machine.execS16FminF32 s
  | .s16FmaxF32 => Sys2Proof.Machine.execS16FmaxF32 s
  | .nop => Sys2Proof.Machine.execNop s
  | .exit => Sys2Proof.Machine.execExit s
  | .join => Sys2Proof.Machine.execJoin s
  | .ret => Sys2Proof.Machine.execRet s
  | .yield => Sys2Proof.Machine.execYield s
  | .trapL32 => Sys2Proof.Machine.execTrapL32 s
  | .addI32L32 => Sys2Proof.Machine.execAddI32L32 s
  | .subI32L32 => Sys2Proof.Machine.execSubI32L32 s
  | .mulLoI32L32 => Sys2Proof.Machine.execMulLoI32L32 s
  | .mulHiI32L32 => Sys2Proof.Machine.execMulHiI32L32 s
  | .mulHiN32L32 => Sys2Proof.Machine.execMulHiN32L32 s
  | .minI32L32 => Sys2Proof.Machine.execMinI32L32 s
  | .maxI32L32 => Sys2Proof.Machine.execMaxI32L32 s
  | .minN32L32 => Sys2Proof.Machine.execMinN32L32 s
  | .maxN32L32 => Sys2Proof.Machine.execMaxN32L32 s
  | .andB32L32 => Sys2Proof.Machine.execAndB32L32 s
  | .orB32L32 => Sys2Proof.Machine.execOrB32L32 s
  | .xorB32L32 => Sys2Proof.Machine.execXorB32L32 s
  | .shlB32L32 => Sys2Proof.Machine.execShlB32L32 s
  | .shrN32L32 => Sys2Proof.Machine.execShrN32L32 s
  | .shrI32L32 => Sys2Proof.Machine.execShrI32L32 s
  | .rotlB32L32 => Sys2Proof.Machine.execRotlB32L32 s
  | .rotrB32L32 => Sys2Proof.Machine.execRotrB32L32 s
  | .addSatI32L32 => Sys2Proof.Machine.execAddSatI32L32 s
  | .subSatI32L32 => Sys2Proof.Machine.execSubSatI32L32 s
  | .movL32 => Sys2Proof.Machine.execMovL32 s
  | .absI32L32 => Sys2Proof.Machine.execAbsI32L32 s
  | .negI32L32 => Sys2Proof.Machine.execNegI32L32 s
  | .notB32L32 => Sys2Proof.Machine.execNotB32L32 s
  | .popcB32L32 => Sys2Proof.Machine.execPopcB32L32 s
  | .clzB32L32 => Sys2Proof.Machine.execClzB32L32 s
  | .ctzB32L32 => Sys2Proof.Machine.execCtzB32L32 s
  | .brevB32L32 => Sys2Proof.Machine.execBrevB32L32 s
  | .addI32ImmL32 => Sys2Proof.Machine.execAddI32ImmL32 s
  | .mulLoI32ImmL32 => Sys2Proof.Machine.execMulLoI32ImmL32 s
  | .andB32ImmL32 => Sys2Proof.Machine.execAndB32ImmL32 s
  | .orB32ImmL32 => Sys2Proof.Machine.execOrB32ImmL32 s
  | .xorB32ImmL32 => Sys2Proof.Machine.execXorB32ImmL32 s
  | .shlB32ImmL32 => Sys2Proof.Machine.execShlB32ImmL32 s
  | .shrN32ImmL32 => Sys2Proof.Machine.execShrN32ImmL32 s
  | .shrI32ImmL32 => Sys2Proof.Machine.execShrI32ImmL32 s
  | .minI32ImmL32 => Sys2Proof.Machine.execMinI32ImmL32 s
  | .maxI32ImmL32 => Sys2Proof.Machine.execMaxI32ImmL32 s
  | .moviL32 => Sys2Proof.Machine.execMoviL32 s
  | .faddF32L32 => Sys2Proof.Machine.execFaddF32L32 s
  | .fsubF32L32 => Sys2Proof.Machine.execFsubF32L32 s
  | .fmulF32L32 => Sys2Proof.Machine.execFmulF32L32 s
  | .fminF32L32 => Sys2Proof.Machine.execFminF32L32 s
  | .fmaxF32L32 => Sys2Proof.Machine.execFmaxF32L32 s
  | .fmacF32L32 => Sys2Proof.Machine.execFmacF32L32 s
  | .uaddI32L32 => Sys2Proof.Machine.execUaddI32L32 s
  | .usubI32L32 => Sys2Proof.Machine.execUsubI32L32 s
  | .uandB32L32 => Sys2Proof.Machine.execUandB32L32 s
  | .uorB32L32 => Sys2Proof.Machine.execUorB32L32 s
  | .uxorB32L32 => Sys2Proof.Machine.execUxorB32L32 s
  | .ushlB32L32 => Sys2Proof.Machine.execUshlB32L32 s
  | .ushrN32L32 => Sys2Proof.Machine.execUshrN32L32 s
  | .umovL32 => Sys2Proof.Machine.execUmovL32 s
  | .uaddI32ImmL32 => Sys2Proof.Machine.execUaddI32ImmL32 s
  | .uandB32ImmL32 => Sys2Proof.Machine.execUandB32ImmL32 s
  | .ushlB32ImmL32 => Sys2Proof.Machine.execUshlB32ImmL32 s
  | .ushrN32ImmL32 => Sys2Proof.Machine.execUshrN32ImmL32 s
  | .ldI8L32 => Sys2Proof.Machine.execLdI8L32 s
  | .ldN8L32 => Sys2Proof.Machine.execLdN8L32 s
  | .ldI16L32 => Sys2Proof.Machine.execLdI16L32 s
  | .ldN16L32 => Sys2Proof.Machine.execLdN16L32 s
  | .ldB32L32 => Sys2Proof.Machine.execLdB32L32 s
  | .ldB64L32 => Sys2Proof.Machine.execLdB64L32 s
  | .stB8L32 => Sys2Proof.Machine.execStB8L32 s
  | .stB16L32 => Sys2Proof.Machine.execStB16L32 s
  | .stB32L32 => Sys2Proof.Machine.execStB32L32 s
  | .stB64L32 => Sys2Proof.Machine.execStB64L32 s
  | .ldsB32L32 => Sys2Proof.Machine.execLdsB32L32 s
  | .stsB32L32 => Sys2Proof.Machine.execStsB32L32 s
  | .ldkB32L32 => Sys2Proof.Machine.execLdkB32L32 s
  | .atomAddN32L32 => Sys2Proof.Machine.execAtomAddN32L32 s
  | .atomMinI32L32 => Sys2Proof.Machine.execAtomMinI32L32 s
  | .atomMaxI32L32 => Sys2Proof.Machine.execAtomMaxI32L32 s
  | .atomMinN32L32 => Sys2Proof.Machine.execAtomMinN32L32 s
  | .atomMaxN32L32 => Sys2Proof.Machine.execAtomMaxN32L32 s
  | .atomAndB32L32 => Sys2Proof.Machine.execAtomAndB32L32 s
  | .atomOrB32L32 => Sys2Proof.Machine.execAtomOrB32L32 s
  | .atomXorB32L32 => Sys2Proof.Machine.execAtomXorB32L32 s
  | .atomXchgB32L32 => Sys2Proof.Machine.execAtomXchgB32L32 s
  | .redAddN32L32 => Sys2Proof.Machine.execRedAddN32L32 s
  | .redMinI32L32 => Sys2Proof.Machine.execRedMinI32L32 s
  | .redMaxI32L32 => Sys2Proof.Machine.execRedMaxI32L32 s
  | .redMinN32L32 => Sys2Proof.Machine.execRedMinN32L32 s
  | .redMaxN32L32 => Sys2Proof.Machine.execRedMaxN32L32 s
  | .redAndB32L32 => Sys2Proof.Machine.execRedAndB32L32 s
  | .redOrB32L32 => Sys2Proof.Machine.execRedOrB32L32 s
  | .redXorB32L32 => Sys2Proof.Machine.execRedXorB32L32 s
  | .waitvEqL32 => Sys2Proof.Machine.execWaitvEqL32 s
  | .waitvNeL32 => Sys2Proof.Machine.execWaitvNeL32 s
  | .barArrive => Sys2Proof.Machine.execBarArrive s
  | .barWait => Sys2Proof.Machine.execBarWait s
  | .barSync => Sys2Proof.Machine.execBarSync s
  | .barReset => Sys2Proof.Machine.execBarReset s
  | .gbar => Sys2Proof.Machine.execGbar s
  | .gbarArrive => Sys2Proof.Machine.execGbarArrive s
  | .gbarWait => Sys2Proof.Machine.execGbarWait s
  | .pblk => Sys2Proof.Machine.execPblk s
  | .ordp => Sys2Proof.Machine.execOrdp s
  | .add => Sys2Proof.Machine.execAdd s
  | .sub => Sys2Proof.Machine.execSub s
  | .mulLo => Sys2Proof.Machine.execMulLo s
  | .mulHi => Sys2Proof.Machine.execMulHi s
  | .madLo => Sys2Proof.Machine.execMadLo s
  | .madHi => Sys2Proof.Machine.execMadHi s
  | .mulFull => Sys2Proof.Machine.execMulFull s
  | .madFull => Sys2Proof.Machine.execMadFull s
  | .div => Sys2Proof.Machine.execDiv s
  | .rem => Sys2Proof.Machine.execRem s
  | .min => Sys2Proof.Machine.execMin s
  | .max => Sys2Proof.Machine.execMax s
  | .abs => Sys2Proof.Machine.execAbs s
  | .neg => Sys2Proof.Machine.execNeg s
  | .addSat => Sys2Proof.Machine.execAddSat s
  | .subSat => Sys2Proof.Machine.execSubSat s
  | .and => Sys2Proof.Machine.execAnd s
  | .or => Sys2Proof.Machine.execOr s
  | .xor => Sys2Proof.Machine.execXor s
  | .not => Sys2Proof.Machine.execNot s
  | .andn => Sys2Proof.Machine.execAndn s
  | .shl => Sys2Proof.Machine.execShl s
  | .rotl => Sys2Proof.Machine.execRotl s
  | .rotr => Sys2Proof.Machine.execRotr s
  | .bfi => Sys2Proof.Machine.execBfi s
  | .popc => Sys2Proof.Machine.execPopc s
  | .clz => Sys2Proof.Machine.execClz s
  | .ctz => Sys2Proof.Machine.execCtz s
  | .brev => Sys2Proof.Machine.execBrev s
  | .shr => Sys2Proof.Machine.execShr s
  | .bfe => Sys2Proof.Machine.execBfe s
  | .cmpEq => Sys2Proof.Machine.execCmpEq s
  | .cmpNe => Sys2Proof.Machine.execCmpNe s
  | .cmpLt => Sys2Proof.Machine.execCmpLt s
  | .cmpLe => Sys2Proof.Machine.execCmpLe s
  | .cmpGt => Sys2Proof.Machine.execCmpGt s
  | .cmpGe => Sys2Proof.Machine.execCmpGe s
  | .sel => Sys2Proof.Machine.execSel s
  | .mov => Sys2Proof.Machine.execMov s
  | .lea => Sys2Proof.Machine.execLea s
  | .addImm => Sys2Proof.Machine.execAddImm s
  | .mulLoImm => Sys2Proof.Machine.execMulLoImm s
  | .minImm => Sys2Proof.Machine.execMinImm s
  | .maxImm => Sys2Proof.Machine.execMaxImm s
  | .shrImm => Sys2Proof.Machine.execShrImm s
  | .andImm => Sys2Proof.Machine.execAndImm s
  | .orImm => Sys2Proof.Machine.execOrImm s
  | .xorImm => Sys2Proof.Machine.execXorImm s
  | .shlImm => Sys2Proof.Machine.execShlImm s
  | .movi => Sys2Proof.Machine.execMovi s
  | .leaImm => Sys2Proof.Machine.execLeaImm s
  | .pand => Sys2Proof.Machine.execPand s
  | .por => Sys2Proof.Machine.execPor s
  | .pxor => Sys2Proof.Machine.execPxor s
  | .pandn => Sys2Proof.Machine.execPandn s
  | .pnot => Sys2Proof.Machine.execPnot s
  | .pmov => Sys2Proof.Machine.execPmov s
  | .pset => Sys2Proof.Machine.execPset s
  | .pget => Sys2Proof.Machine.execPget s
  | .bra => Sys2Proof.Machine.execBra s
  | .braU => Sys2Proof.Machine.execBraU s
  | .braAny => Sys2Proof.Machine.execBraAny s
  | .braAll => Sys2Proof.Machine.execBraAll s
  | .braIdx => Sys2Proof.Machine.execBraIdx s
  | .call => Sys2Proof.Machine.execCall s
  | .callIdx => Sys2Proof.Machine.execCallIdx s
  | .loop => Sys2Proof.Machine.execLoop s
  | .lcmov => Sys2Proof.Machine.execLcmov s
  | .sleep => Sys2Proof.Machine.execSleep s
  | .trap => Sys2Proof.Machine.execTrap s
  | .fadd => Sys2Proof.Machine.execFadd s
  | .fsub => Sys2Proof.Machine.execFsub s
  | .fmul => Sys2Proof.Machine.execFmul s
  | .ffma => Sys2Proof.Machine.execFfma s
  | .fmin => Sys2Proof.Machine.execFmin s
  | .fmax => Sys2Proof.Machine.execFmax s
  | .fabs => Sys2Proof.Machine.execFabs s
  | .fneg => Sys2Proof.Machine.execFneg s
  | .fcmpEq => Sys2Proof.Machine.execFcmpEq s
  | .fcmpNe => Sys2Proof.Machine.execFcmpNe s
  | .fcmpLt => Sys2Proof.Machine.execFcmpLt s
  | .fcmpLe => Sys2Proof.Machine.execFcmpLe s
  | .fcmpGt => Sys2Proof.Machine.execFcmpGt s
  | .fcmpGe => Sys2Proof.Machine.execFcmpGe s
  | .fcmpUn => Sys2Proof.Machine.execFcmpUn s
  | .fsel => Sys2Proof.Machine.execFsel s
  | .fclass => Sys2Proof.Machine.execFclass s
  | .fdiv => Sys2Proof.Machine.execFdiv s
  | .fsqrt => Sys2Proof.Machine.execFsqrt s
  | .frcp => Sys2Proof.Machine.execFrcp s
  | .frsq => Sys2Proof.Machine.execFrsq s
  | .fexp2 => Sys2Proof.Machine.execFexp2 s
  | .flog2 => Sys2Proof.Machine.execFlog2 s
  | .fsin => Sys2Proof.Machine.execFsin s
  | .fcos => Sys2Proof.Machine.execFcos s
  | .ftanh => Sys2Proof.Machine.execFtanh s
  | .cvtFloat => Sys2Proof.Machine.execCvtFloat s
  | .cvtNarrow => Sys2Proof.Machine.execCvtNarrow s
  | .cvtInt => Sys2Proof.Machine.execCvtInt s
  | .cvtE8m0 => Sys2Proof.Machine.execCvtE8m0 s
  | .cvtPk => Sys2Proof.Machine.execCvtPk s
  | .cvtUpk => Sys2Proof.Machine.execCvtUpk s
  | .faddImm => Sys2Proof.Machine.execFaddImm s
  | .fmulImm => Sys2Proof.Machine.execFmulImm s
  | .ffmaImm => Sys2Proof.Machine.execFfmaImm s
  | .lrdAt => Sys2Proof.Machine.execLrdAt s
  | .lrdFlip => Sys2Proof.Machine.execLrdFlip s
  | .lrdOff => Sys2Proof.Machine.execLrdOff s
  | .lrdRot => Sys2Proof.Machine.execLrdRot s
  | .alike => Sys2Proof.Machine.execAlike s
  | .lany => Sys2Proof.Machine.execLany s
  | .lall => Sys2Proof.Machine.execLall s
  | .lmask => Sys2Proof.Machine.execLmask s
  | .lfirst => Sys2Proof.Machine.execLfirst s
  | .lred => Sys2Proof.Machine.execLred s
  | .lscan => Sys2Proof.Machine.execLscan s
  | .lcount => Sys2Proof.Machine.execLcount s
  | .uadd => Sys2Proof.Machine.execUadd s
  | .usub => Sys2Proof.Machine.execUsub s
  | .umulLo => Sys2Proof.Machine.execUmulLo s
  | .uand => Sys2Proof.Machine.execUand s
  | .uor => Sys2Proof.Machine.execUor s
  | .uxor => Sys2Proof.Machine.execUxor s
  | .ushl => Sys2Proof.Machine.execUshl s
  | .ushr => Sys2Proof.Machine.execUshr s
  | .umin => Sys2Proof.Machine.execUmin s
  | .umax => Sys2Proof.Machine.execUmax s
  | .umov => Sys2Proof.Machine.execUmov s
  | .umovi => Sys2Proof.Machine.execUmovi s
  | .ld => Sys2Proof.Machine.execLd s
  | .ldSx => Sys2Proof.Machine.execLdSx s
  | .st => Sys2Proof.Machine.execSt s
  | .ldk => Sys2Proof.Machine.execLdk s
  | .lds => Sys2Proof.Machine.execLds s
  | .ldsSx => Sys2Proof.Machine.execLdsSx s
  | .sts => Sys2Proof.Machine.execSts s
  | .stm => Sys2Proof.Machine.execStm s
  | .prefetch => Sys2Proof.Machine.execPrefetch s
  | .cwb => Sys2Proof.Machine.execCwb s
  | .cinv => Sys2Proof.Machine.execCinv s
  | .cflush => Sys2Proof.Machine.execCflush s
  | .waitv => Sys2Proof.Machine.execWaitv s
  | .atomAdd => Sys2Proof.Machine.execAtomAdd s
  | .atomFadd => Sys2Proof.Machine.execAtomFadd s
  | .atomMinI => Sys2Proof.Machine.execAtomMinI s
  | .atomMinN => Sys2Proof.Machine.execAtomMinN s
  | .atomMaxI => Sys2Proof.Machine.execAtomMaxI s
  | .atomMaxN => Sys2Proof.Machine.execAtomMaxN s
  | .atomAnd => Sys2Proof.Machine.execAtomAnd s
  | .atomOr => Sys2Proof.Machine.execAtomOr s
  | .atomXor => Sys2Proof.Machine.execAtomXor s
  | .atomXchg => Sys2Proof.Machine.execAtomXchg s
  | .atomCas => Sys2Proof.Machine.execAtomCas s
  | .atomIncwrap => Sys2Proof.Machine.execAtomIncwrap s
  | .redAdd => Sys2Proof.Machine.execRedAdd s
  | .redFadd => Sys2Proof.Machine.execRedFadd s
  | .redMinI => Sys2Proof.Machine.execRedMinI s
  | .redMinN => Sys2Proof.Machine.execRedMinN s
  | .redMaxI => Sys2Proof.Machine.execRedMaxI s
  | .redMaxN => Sys2Proof.Machine.execRedMaxN s
  | .redAnd => Sys2Proof.Machine.execRedAnd s
  | .redOr => Sys2Proof.Machine.execRedOr s
  | .redXor => Sys2Proof.Machine.execRedXor s
  | .redIncwrap => Sys2Proof.Machine.execRedIncwrap s
  | .fenceAcq => Sys2Proof.Machine.execFenceAcq s
  | .fenceRel => Sys2Proof.Machine.execFenceRel s
  | .fenceAr => Sys2Proof.Machine.execFenceAr s
  | .fenceSc => Sys2Proof.Machine.execFenceSc s
  | .hld => Sys2Proof.Machine.execHld s
  | .hst => Sys2Proof.Machine.execHst s
  | .hldf => Sys2Proof.Machine.execHldf s
  | .hstf => Sys2Proof.Machine.execHstf s
  | .hcas => Sys2Proof.Machine.execHcas s
  | .hcmp => Sys2Proof.Machine.execHcmp s
  | .hpin => Sys2Proof.Machine.execHpin s
  | .hunpin => Sys2Proof.Machine.execHunpin s
  | .hnull => Sys2Proof.Machine.execHnull s
  | .hphase => Sys2Proof.Machine.execHphase s
  | .hcopy => Sys2Proof.Machine.execHcopy s
  | .hsize => Sys2Proof.Machine.execHsize s
  | .mma => Sys2Proof.Machine.execMma s
  | .mmaPair => Sys2Proof.Machine.execMmaPair s
  | .mzero => Sys2Proof.Machine.execMzero s
  | .mload => Sys2Proof.Machine.execMload s
  | .mdrain => Sys2Proof.Machine.execMdrain s
  | .mbatch => Sys2Proof.Machine.execMbatch s
  | .mwait => Sys2Proof.Machine.execMwait s
  | .mrow => Sys2Proof.Machine.execMrow s
  | .enl => Sys2Proof.Machine.execEnl s
  | .fix => Sys2Proof.Machine.execFix s
  | .ewait => Sys2Proof.Machine.execEwait s
  | .lfirstBc => Sys2Proof.Machine.execLfirstBc s
  | .glaunchDomain => Sys2Proof.Machine.execGlaunchDomain s
  | .glaunchWafer => Sys2Proof.Machine.execGlaunchWafer s
  | .glaunchPod => Sys2Proof.Machine.execGlaunchPod s
  | .gcancel => Sys2Proof.Machine.execGcancel s
  | .gpoll => Sys2Proof.Machine.execGpoll s
  | .gstat => Sys2Proof.Machine.execGstat s
  | .ghint => Sys2Proof.Machine.execGhint s
  | .gfault => Sys2Proof.Machine.execGfault s
  | .gid => Sys2Proof.Machine.execGid s
  | .csrr => Sys2Proof.Machine.execCsrr s
  | .csrw => Sys2Proof.Machine.execCsrw s
  | .csrs => Sys2Proof.Machine.execCsrs s
  | .csrc => Sys2Proof.Machine.execCsrc s
  | .tret => Sys2Proof.Machine.execTret s
  | .wswitch => Sys2Proof.Machine.execWswitch s
  | .xlatUpd => Sys2Proof.Machine.execXlatUpd s
  | .pgmig => Sys2Proof.Machine.execPgmig s
  | .rgnSetclass => Sys2Proof.Machine.execRgnSetclass s
  | .ilock => Sys2Proof.Machine.execIlock s
  | .iunlock => Sys2Proof.Machine.execIunlock s
  | .iprefetch => Sys2Proof.Machine.execIprefetch s
  | .halt => Sys2Proof.Machine.execHalt s
  | .perf => Sys2Proof.Machine.execPerf s
  | .powerOn => Sys2Proof.Machine.execPowerOn s
  | .domainUp => Sys2Proof.Machine.execDomainUp s
  | .safelightStep => Sys2Proof.Machine.execSafelightStep s
  | .pendingExchange => Sys2Proof.Machine.execPendingExchange s
  | .rotation => Sys2Proof.Machine.execRotation s
  | .park => Sys2Proof.Machine.execPark s
  | .sleepExpire => Sys2Proof.Machine.execSleepExpire s
  | .waitvPoll => Sys2Proof.Machine.execWaitvPoll s
  | .breakpointMatch => Sys2Proof.Machine.execBreakpointMatch s
  | .preempt => Sys2Proof.Machine.execPreempt s
  | .saveRecordReserved => Sys2Proof.Machine.execSaveRecordReserved s
  | .preemptSave => Sys2Proof.Machine.execPreemptSave s
  | .blockResume => Sys2Proof.Machine.execBlockResume s
  | .cancel => Sys2Proof.Machine.execCancel s
  | .deferredFault => Sys2Proof.Machine.execDeferredFault s
  | .operandLogEntry => Sys2Proof.Machine.execOperandLogEntry s
  | .heldFaultRecordWrite => Sys2Proof.Machine.execHeldFaultRecordWrite s
  | .fltreply => Sys2Proof.Machine.execFltreply s
  | .oplogReplay => Sys2Proof.Machine.execOplogReplay s
  | .loadResponse => Sys2Proof.Machine.execLoadResponse s
  | .longOpArrival => Sys2Proof.Machine.execLongOpArrival s
  | .storeAck => Sys2Proof.Machine.execStoreAck s
  | .writeBufferDrain => Sys2Proof.Machine.execWriteBufferDrain s
  | .instructionFetch => Sys2Proof.Machine.execInstructionFetch s
  | .requestTranslate => Sys2Proof.Machine.execRequestTranslate s
  | .tlbWalkDone => Sys2Proof.Machine.execTlbWalkDone s
  | .homeSliceRequest => Sys2Proof.Machine.execHomeSliceRequest s
  | .homeRmw => Sys2Proof.Machine.execHomeRmw s
  | .visitorReadRequest => Sys2Proof.Machine.execVisitorReadRequest s
  | .ownershipRequest => Sys2Proof.Machine.execOwnershipRequest s
  | .directoryGrant => Sys2Proof.Machine.execDirectoryGrant s
  | .directoryProbe => Sys2Proof.Machine.execDirectoryProbe s
  | .probeAnswer => Sys2Proof.Machine.execProbeAnswer s
  | .mWriteback => Sys2Proof.Machine.execMWriteback s
  | .patrolScrub => Sys2Proof.Machine.execPatrolScrub s
  | .xlatPurge => Sys2Proof.Machine.execXlatPurge s
  | .migrationStart => Sys2Proof.Machine.execMigrationStart s
  | .migrationSwitch => Sys2Proof.Machine.execMigrationSwitch s
  | .migrationRelease => Sys2Proof.Machine.execMigrationRelease s
  | .cxlHostSharedRead => Sys2Proof.Machine.execCxlHostSharedRead s
  | .cxlHostOwnershipRead => Sys2Proof.Machine.execCxlHostOwnershipRead s
  | .cxlHostWriteBack => Sys2Proof.Machine.execCxlHostWriteBack s
  | .backInvalidationResponse => Sys2Proof.Machine.execBackInvalidationResponse s
  | .bridgeAccess => Sys2Proof.Machine.execBridgeAccess s
  | .inboundAccess => Sys2Proof.Machine.execInboundAccess s
  | .podRemoteRequest => Sys2Proof.Machine.execPodRemoteRequest s
  | .linkBeatCrcError => Sys2Proof.Machine.execLinkBeatCrcError s
  | .starvationToken => Sys2Proof.Machine.execStarvationToken s
  | .matrixOpTurn => Sys2Proof.Machine.execMatrixOpTurn s
  | .engineCommandStart => Sys2Proof.Machine.execEngineCommandStart s
  | .engineCompletion => Sys2Proof.Machine.execEngineCompletion s
  | .launchAtRoot => Sys2Proof.Machine.execLaunchAtRoot s
  | .glaunchIssue => Sys2Proof.Machine.execGlaunchIssue s
  | .glaunchReply => Sys2Proof.Machine.execGlaunchReply s
  | .pavilionDeal => Sys2Proof.Machine.execPavilionDeal s
  | .pergolaPlace => Sys2Proof.Machine.execPergolaPlace s
  | .arborUnitArrival => Sys2Proof.Machine.execArborUnitArrival s
  | .blockStart => Sys2Proof.Machine.execBlockStart s
  | .arborOffer => Sys2Proof.Machine.execArborOffer s
  | .pergolaOffer => Sys2Proof.Machine.execPergolaOffer s
  | .freeCountPublish => Sys2Proof.Machine.execFreeCountPublish s
  | .blockRetire => Sys2Proof.Machine.execBlockRetire s
  | .countReport => Sys2Proof.Machine.execCountReport s
  | .notify => Sys2Proof.Machine.execNotify s
  | .qcmdLoad => Sys2Proof.Machine.execQcmdLoad s
  | .qcmdDisable => Sys2Proof.Machine.execQcmdDisable s
  | .queueInvalidation => Sys2Proof.Machine.execQueueInvalidation s
  | .entryNop => Sys2Proof.Machine.execEntryNop s
  | .entryLaunch => Sys2Proof.Machine.execEntryLaunch s
  | .entryWait => Sys2Proof.Machine.execEntryWait s
  | .queueWaitPoll => Sys2Proof.Machine.execQueueWaitPoll s
  | .entrySignal => Sys2Proof.Machine.execEntrySignal s
  | .entryFence => Sys2Proof.Machine.execEntryFence s
  | .schedmodeWrite => Sys2Proof.Machine.execSchedmodeWrite s
  | .slewup => Sys2Proof.Machine.execSlewup s
  | .slewdown => Sys2Proof.Machine.execSlewdown s
  | .ramplo => Sys2Proof.Machine.execRamplo s
  | .arbpre => Sys2Proof.Machine.execArbpre s
  | .l2split => Sys2Proof.Machine.execL2split s
  | .l2splitDone => Sys2Proof.Machine.execL2splitDone s
  | .relcmdStart => Sys2Proof.Machine.execRelcmdStart s
  | .relcmdRetire => Sys2Proof.Machine.execRelcmdRetire s
  | .relcmdSweep => Sys2Proof.Machine.execRelcmdSweep s
  | .orangeryCopy => Sys2Proof.Machine.execOrangeryCopy s
  | .resolveRequest => Sys2Proof.Machine.execResolveRequest s
  | .healingCas => Sys2Proof.Machine.execHealingCas s
  | .sweepWord => Sys2Proof.Machine.execSweepWord s
  | .dbgcmdRelease => Sys2Proof.Machine.execDbgcmdRelease s
  | .dbgcmdDiscard => Sys2Proof.Machine.execDbgcmdDiscard s
  | .dbgcmdBreak => Sys2Proof.Machine.execDbgcmdBreak s
  | .topobaseWrite => Sys2Proof.Machine.execTopobaseWrite s
  | .cntclr => Sys2Proof.Machine.execCntclr s
  | .dirrd => Sys2Proof.Machine.execDirrd s
  | .dirrdDone => Sys2Proof.Machine.execDirrdDone s
  | .registerWrite => Sys2Proof.Machine.execRegisterWrite s
  | .spdmGetVersion => Sys2Proof.Machine.execSpdmGetVersion s
  | .spdmGetCapabilities => Sys2Proof.Machine.execSpdmGetCapabilities s
  | .spdmNegotiateAlgorithms => Sys2Proof.Machine.execSpdmNegotiateAlgorithms s
  | .spdmGetDigests => Sys2Proof.Machine.execSpdmGetDigests s
  | .spdmGetCertificate => Sys2Proof.Machine.execSpdmGetCertificate s
  | .spdmChallenge => Sys2Proof.Machine.execSpdmChallenge s
  | .spdmGetMeasurements => Sys2Proof.Machine.execSpdmGetMeasurements s
  | .spdmUnsupported => Sys2Proof.Machine.execSpdmUnsupported s
  | .powerLoss => Sys2Proof.Machine.execPowerLoss s
  | .outsideRatedConditions => Sys2Proof.Machine.execOutsideRatedConditions s
  | .firmwareUpdate => Sys2Proof.Machine.execFirmwareUpdate s
  | .linkTraining => Sys2Proof.Machine.execLinkTraining s

end Sys2Proof.Machine
end

