-- ==== Sys2Proof/Machine/Sched.lean ====
section
/-!
DEFINITION. What moves next (R34-R41, R212, R218, R305; log 2, log 3): the pair that a prefix has begun, the agenda, faults that are
due, the issue slots, whatever is in flight, and a tick; and each move.
-/

namespace Sys2Proof.Machine

/-! ### One instruction -/

/-- The fault of bytes that are no instruction, for the lanes of the effective mask (R306). -/
def opcodeFault (w : Warp) (sl : Slot) : Flt :=
  { code := codeIllegalOpcode, lanes := effMask w sl, addr := 0, pc := match sl.ordPfx with | some o => o.addr | none => sl.path.pc }

/-- The state in which a path's instruction runs: the path and its operands are named. -/
def State.atPath (s : State) (r : PathRef) (ops : Ops) : State := { s with cur := some r, ops := ops }

/-- A path's instruction runs: fetched, decoded, executed; bytes that are no instruction raise ILLEGAL_OPCODE. -/
def runPath (s : State) (r : PathRef) : Host.Outcome State Fault Refusal :=
  match s.block? r.bid with
  | none => .next s
  | some b => match b.warps[r.wi]? with
    | none => .next s
    | some w => match w.slots[r.slot]? with
      | none => .next s
      | some sl => match pathBytes s b w sl.path.pc with
        | .error _ => .next s
        | .ok bs => match decode bs with
          | .error _ => .next (takeFault s r (opcodeFault w sl))
          | .ok (x, _) => exec x.instr (s.atPath r x.ops)

/-! ### Ready (R34, R35) -/

/-- Whether a path stands behind an `ordp` that has issued (R305). -/
def State.prefixed (s : State) (r : PathRef) : Bool := match s.slot? r with | some sl => sl.live && sl.ordPfx.isSome | none => false

/-- A path's next issue tried, the pair of an `ordp` and its instruction as one (R305): the state in which its last instruction
begins and the state that leaves. -/
def tryPath (s : State) (r : PathRef) : Option (State × State) :=
  match runPath s r with
  | .next t => if t.prefixed r then (match runPath t r with | .next u => some (t, u) | _ => none) else some (s, t)
  | _ => none

/-- What the next issue of a path waits for (R34, R35): an instruction that waits or stalls is not counted as issued and leaves its
path in the wait. -/
def waitOf (s : State) (r : PathRef) : Option Wait :=
  match tryPath s r with
  | some (t, u) => (match u.slot? r, u.warp? r.bid r.wi, t.warp? r.bid r.wi with
      | some sl, some w', some w => if sl.live && sl.wait != .ready && w'.progress == w.progress then some sl.wait else none
      | _, _, _ => none)
  | none => none

/-- Whether the next instruction of a path issues rather than waits or stalls (R35). -/
def issuesNow (s : State) (r : PathRef) : Bool := (waitOf s r).isNone

/-- Whether the code of a path's next instruction is held. -/
def pathHeld (s : State) (b : Block) (w : Warp) (slot : Nat) : Bool :=
  match w.slots[slot]? with
  | some sl => sl.fetchFault.isNone && (match pathBytes s b w sl.path.pc with | .ok _ => true | .error _ => false)
  | none => false

/-- Whether a path may try its next instruction and no deferred fault has stopped its warp (R56). -/
def pathOpen (s : State) (b : Block) (w : Warp) (slot : Nat) : Bool := pathFree s b w slot && !warpStopped s b w

/-- Whether a path is Ready, its next instruction held. -/
def pathMay (s : State) (b : Block) (wi : Nat) (w : Warp) (slot : Nat) : Bool :=
  pathOpen s b w slot && pathHeld s b w slot && issuesNow s { bid := b.bid, wi := wi, slot := slot }

/-- Whether a path is about to enter Waiting or Stalled: its next instruction, held, does not issue (R34). -/
def pathParks (s : State) (b : Block) (wi : Nat) (w : Warp) (slot : Nat) : Bool :=
  (match w.slots[slot]? with | some sl => sl.wait == .ready | none => false) &&
  pathOpen s b w slot && pathHeld s b w slot && !issuesNow s { bid := b.bid, wi := wi, slot := slot }

/-- Whether a path is Ready (R34, R35). One whose next instruction is not held waits for nothing that R34 names. -/
def pathReady (s : State) (b : Block) (wi : Nat) (w : Warp) (slot : Nat) : Bool :=
  pathOpen s b w slot && (!pathHeld s b w slot || issuesNow s { bid := b.bid, wi := wi, slot := slot })

/-- Whether a warp has a Ready path. -/
def warpReady (s : State) (b : Block) (wi : Nat) (w : Warp) : Bool := pathReady s b wi w 0 || pathReady s b wi w 1

/-- Whether the warp named is Ready. -/
def refReady (s : State) (bid wi : Nat) : Bool :=
  match s.block? bid with
  | some b => match b.warps[wi]? with | some w => warpReady s b wi w | none => false
  | none => false

/-! ### The choice of an issue slot (R36-R39, R49, R212, R218) -/

/-- The PC slot that issues for a warp: of two that may, the one that issued less recently (R212). -/
def pickSlot (s : State) (b : Block) (wi : Nat) (w : Warp) : Option Nat := [1 - w.lastSlot, w.lastSlot].find? (fun k => pathMay s b wi w k)

/-- The active warps of an issue slot with what a choice of PC slot gives. -/
def activePaths (s : State) (q : IssueSlot) (pick : Block → Nat → Warp → Option Nat) : List (Block × Warp × PathRef) :=
  q.active.filterMap (fun e =>
    if s.clock < e.2.2 then none
    else match s.block? e.1 with
      | none => none
      | some b => match b.warps[e.2.1]? with
        | none => none
        | some w => (pick b e.2.1 w).map (fun k => (b, w, { bid := e.1, wi := e.2.1, slot := k })))

/-- The active warps of an issue slot that may issue, with their blocks and PC slots. -/
def mayIssue (s : State) (q : IssueSlot) : List (Block × Warp × PathRef) := activePaths s q (pickSlot s)

/-- The first path of an issue slot's active warps that enters Waiting or Stalled. -/
def pickPark (s : State) (q : IssueSlot) : Option PathRef :=
  (activePaths s q (fun b wi w => [0, 1].find? (fun k => pathParks s b wi w k))).head?.map (fun x => x.2.2)

/-- The least progress among the Ready warps of a block (R218). -/
def leastProgress (s : State) (b : Block) : Nat :=
  (((b.warps.zip (List.range b.warps.length)).filter (fun x => warpReady s b x.2 x.1)).map (fun x => x.1.progress)).foldl min (2 ^ 64)

/-- Warps that have not run ahead of their block come first (R218). -/
def notAhead (s : State) (l : List (Block × Warp × PathRef)) : List (Block × Warp × PathRef) :=
  let l' := l.filter (fun x => decide (x.2.1.progress ≤ leastProgress s x.1 + 8192))
  if l' = [] then l else l'

/-- The least entry by a key. -/
def leastBy {α : Type} (f : α → Nat) : List α → Option α
  | [] => none
  | x :: t => match leastBy f t with
    | none => some x
    | some y => some (if f y < f x then y else x)

/-- The number of the warp that issued last on a slot. -/
def lastNumber (s : State) (q : IssueSlot) : Option Nat := q.last.bind (fun e => (s.warp? e.1 e.2).map Warp.number)

/-- Round robin from the warp that issued last, in ascending warp number (R37). When that warp has left the core, the round
starts at the lowest number (DESIGN CHOICE, log 60: the spec does not say). -/
def pickRound (s : State) (q : IssueSlot) (l : List (Block × Warp × PathRef)) : Option (Block × Warp × PathRef) :=
  match lastNumber s q with
  | none => leastBy (fun x => x.2.1.number) l
  | some n => leastBy (fun x => if n < x.2.1.number then x.2.1.number else x.2.1.number + 64) l

/-- The issues for which a warp has been passed over while Ready (R49). -/
def IssueSlot.passedOf (q : IssueSlot) (bid wi : Nat) : Nat :=
  match q.passed.find? (fun e => e.1 == bid && e.2.1 == wi) with | some e => e.2.2 | none => 0

/-- Passed over for so long that R49 wants it next: with eight active warps the bound of 64 × 8 issues holds. -/
def overdue : Nat := 64 * 7

/-- Greedy, then oldest (R37); after a `yield` another warp comes first (R347); a warp that R49's bound is about to pass comes
before either (log 61). -/
def pickGreedy (q : IssueSlot) (l : List (Block × Warp × PathRef)) : Option (Block × Warp × PathRef) :=
  let isLast (x : Block × Warp × PathRef) : Bool := q.last == some (x.2.2.bid, x.2.2.wi)
  let oldest := leastBy (fun (x : Block × Warp × PathRef) => x.1.start * 64 + x.2.1.number)
  let late := l.filter (fun x => decide (overdue ≤ q.passedOf x.2.2.bid x.2.2.wi))
  if late ≠ [] then leastBy (fun x => 2 ^ 64 - q.passedOf x.2.2.bid x.2.2.wi) late
  else match l.find? isLast with
  | none => oldest l
  | some x =>
    let others := l.filter (fun y => !isLast y)
    if others = [] ∨ q.run < 64 then some x
    else if q.run = yielded then oldest others
    else oldest l

/-- The path that an issue slot issues, if one may. -/
def pickPath (s : State) (ck : Nat) (q : IssueSlot) : Option PathRef :=
  let l := notAhead s (mayIssue s q)
  ((if (s.core ck).schedmode then pickGreedy q l else pickRound s q l)).map (fun x => x.2.2)

/-- The path of slot `isl` of a core: one that enters Waiting or Stalled, which takes no issue; else, once a cc, the choice among
the Ready ones. -/
def pickIssue (s : State) (ck isl : Nat) : Option PathRef :=
  match (s.core ck).issue[isl]? with
  | none => none
  | some q =>
    match pickPark s q with
    | some r => some r
    | none => if q.issuedAt = some s.clock then none else pickPath s ck q

/-- The slot's record of who issued (R37), and of the Ready warps passed over (R49). -/
def noteIssue (s : State) (ck isl : Nat) (r : PathRef) : State :=
  let rivals := match (s.core ck).issue[isl]? with
    | some q => q.active.filter (fun e => !(e.1 == r.bid && e.2.1 == r.wi) && refReady s e.1 e.2.1)
    | none => []
  s.updCore ck (fun c => { c with issue := c.issue.modify isl (fun q =>
    { q with issuedAt := some s.clock,
             run := if rivals ≠ [] then (if q.last = some (r.bid, r.wi) ∧ q.run < 64 then q.run + 1 else 1) else 0,
             last := some (r.bid, r.wi),
             passed := rivals.map (fun e => (e.1, e.2.1, q.passedOf e.1 e.2.1 + 1)) }) })

/-! ### What an issue leads to on its slot (R38, R347) -/

/-- An active warp gives its place to the oldest Ready warp of its slot's pending set, if there is one (R38). -/
def tradePlace (s : State) (ck isl : Nat) (r : PathRef) : State :=
  match (s.core ck).issue[isl]? with
  | none => s
  | some q =>
    if q.active.any (fun e => e.1 == r.bid && e.2.1 == r.wi) then
      match q.pending.find? (fun e => refReady s e.1 e.2.1) with
      | some e => exchange s ck isl (r.bid, r.wi) (e.1, e.2.1)
      | none => s
    else s

/-- A warp that enters Waiting for a long-latency cause, no path of it being Ready, is exchanged (R38). -/
def longExchange (s : State) (r : PathRef) : State :=
  match s.block? r.bid with
  | none => s
  | some b => match b.warps[r.wi]? with
    | none => s
    | some w => if warpReady s b r.wi w then s else tradePlace s b.core w.issueSlot r

/-- Whether a path has entered a wait for a long-latency cause between two states. -/
def enteredLong (s t : State) (r : PathRef) : Bool :=
  match t.slot? r with
  | some y => y.live && isLong t y.wait && (match s.slot? r with | some x => x.wait != y.wait | none => true)
  | none => false

/-- The place that a `yield` gives up is traded (R347). -/
def settleTrade (s : State) (r : PathRef) : State :=
  match s.block? r.bid with
  | none => s
  | some b => match b.warps[r.wi]? with
    | none => s
    | some w => match (s.core b.core).issue[w.issueSlot]? with
      | none => s
      | some q =>
        if q.trade then
          tradePlace (s.updCore b.core (fun c => { c with issue := c.issue.modify w.issueSlot (fun q => { q with trade := false }) }))
            b.core w.issueSlot r
        else s

/-- The exchanges that an issue from state `s` brings about. -/
def settleIssue (s : State) (r : PathRef) : Host.Outcome State Fault Refusal → Host.Outcome State Fault Refusal
  | .next t => .next (settleTrade (if enteredLong s t r then longExchange t r else t) r)
  | o => o

/-- An event takes place; a row of the code planes is no event. -/
def runEvent (s : State) (i : Instr) (a : EvArgs) : Host.Outcome State Fault Refusal :=
  if i.row.1 = .event then exec i { s with ops := .event a } else .next s

/-- A path enters the wait of its next instruction, which does not issue; a pair of an `ordp` and its instruction does so as
one. -/
def enterWait (s : State) (r : PathRef) (wt : Wait) : Host.Outcome State Fault Refusal :=
  match runPath s r with
  | .next t => if t.prefixed r then .next (s.updSlot r (fun sl => { sl with wait := wt })) else .next t
  | o => o

/-- What an issue slot's choice comes to: a path whose instruction waits enters the wait without an issue; a breakpoint stops an
instruction that is about to issue (R101); else it issues. -/
def issueFrom (s : State) (ck isl : Nat) (r : PathRef) : Host.Outcome State Fault Refusal :=
  match waitOf s r with
  | some wt => settleIssue s r (enterWait s r wt)
  | none =>
    if brkHit s r then runEvent s .breakpointMatch { k := r.bid, i := r.wi, j := r.slot }
    else settleIssue s r (runPath (noteIssue s ck isl r) r)

/-! ### The tick -/

/-- Since when the pending warps of a slot have been Ready (R39). -/
def readyNow (s : State) (q : IssueSlot) : IssueSlot :=
  { q with readySince := (q.pending.filter (fun e => refReady s e.1 e.2.1)).map (fun e =>
      match q.readySince.find? (fun x => x.1 == e.1 && x.2.1 == e.2.1) with
      | some x => x
      | none => (e.1, e.2.1, s.clock)) }

/-- One counter counts a cycle, and one with every data slot held (R267). -/
def Perf.tick (full : Bool) (p : Perf) : Perf :=
  let ev := (p.sel.extractLsb' 0 8).toNat
  if p.sel.getLsbD 10 && (ev == 1 || (ev == 7 && full && perfAdmits p false false)) then { p with cnt := p.cnt + 1 } else p

/-- One cc passes. -/
def tick (s : State) : State :=
  { s with
    clock := s.clock + 1,
    cores := s.cores.map (fun (e : Nat × Core) =>
      (e.1, { e.2 with issue := e.2.issue.map (readyNow s),
                       perfs := e.2.perfs.map (fun p => (p.1, p.2.tick (decide (32 ≤ slotsHeld s e.1)))) })) }

/-! ### Moves -/

/-- The state after a move that is not an instruction's issue and not an event. -/
def quietMove (s : State) : Move → State
  | .hostWrite a b => if 2 ^ 60 ≤ a then { s with mem := memSet s.mem a b } else s
  | .dropL1 ck vl => s.updCore ck (fun c => { c with l1 := c.l1.filter (fun l => l.vline != vl) })
  | .dropVisitor dk pl => s.updDomain dk (fun d => { d with visit := d.visit.filter (fun v => v.pline != pl || v.state == .m) })
  | .dropTlb dk page => s.updDomain dk (fun d => { d with tlb := d.tlb.filter (fun e => e.page != page || e.moving) })
  | .dropIcache ck vl => s.updCore ck (fun c => { c with icache := c.icache.filter (fun l => l.vline != vl || l.locks != []) })
  | .unitDone op => (match s.unitOps.find? (fun u => u.op == op) with
      | some u => (unitStep s u).getD s
      | none => s)
  | .port dk (some a) => portAccept s dk a
  | .port dk none => portServe s dk
  | .firmware w => trainEnd s w
  | .tick => tick s
  | _ => s

/-- A move. -/
def runMove (s : State) : Move → Host.Outcome State Fault Refusal
  | .issue ck isl => match pickIssue s ck isl with
    | some r => issueFrom s ck isl r
    | none => .next s
  | .event i a => runEvent s i a
  | m => .next (quietMove s m)

/-! ### What may move by itself -/

def ev (i : Instr) (k : Nat) (i' : Nat := 0) (j : Nat := 0) : Move := .event i { k := k, i := i', j := j }

/-- The event that a request waits for. -/
def reqMove (s : State) (r : Req) : List Move :=
  match r.stage with
  | .toOwner => [ev .requestTranslate r.id]
  | .toHome => (match homeKind s r with
      | .slice => [ev .homeSliceRequest r.id] | .rmw => [ev .homeRmw r.id] | .resolve => [ev .resolveRequest r.id]
      | .heal => [ev .healingCas r.id])
  | .visitorRead => [ev .visitorReadRequest r.id]
  | .ownership => [ev .ownershipRequest r.id]
  | .bridge => [ev .bridgeAccess r.id]
  | .remote => [ev .podRemoteRequest r.id]
  | .answered => [ev .loadResponse r.id]
  | .acked => [ev .storeAck r.id]
  | _ => []

/-- The event that delivers a message. -/
def msgMove (m : Msg) : List Move :=
  match m.body with
  | .grant .. => [ev .directoryGrant m.id]
  | .probe .. => [ev .directoryProbe m.id]
  | .answer .. => [ev .probeAnswer m.id]
  | .writeback pl dk _ _ => [ev .mWriteback dk pl]
  | .launch _ => [ev .launchAtRoot m.id]
  | .reply _ _ => [ev .glaunchReply m.id]
  | .unit _ _ _ dk _ => [ev .arborUnitArrival dk]
  | .cancel _ lvl key => [ev .cancel lvl key]
  | .publish dk _ => [ev .freeCountPublish (waferOf dk)]
  | .offer _ _ _ dk _ => [ev .pergolaOffer (waferOf dk)]
  | .qinval _ dk _ => [ev .queueInvalidation dk]
  | .ack _ _ => []

/-- The event that an instruction in flight waits for. -/
def pendMove (s : State) (p : Pend) : List Move :=
  match p.kind with
  | .long | .reg | .matrix => if p.vals = [] then [] else [ev .longOpArrival p.tag]
  | .record => [ev .glaunchIssue p.bid p.wi p.slot]
  | .waitv _ _ => if waitvDue s p.tag then [ev .waitvPoll p.tag] else []
  | _ => []

/-- The events of a domain's units, where there is something for them to do. -/
def domainMoves (dk : Nat) (d : Domain) : List Move :=
  let on (b : Bool) (m : Move) : List Move := if b then [m] else []
  (d.walks.take 16).map (fun w => ev .tlbWalkDone dk w.1) ++
  on (d.held != []) (ev .heldFaultRecordWrite dk) ++ on (d.saveReqs != []) (ev .saveRecordReserved dk) ++
  on (d.migs != []) (ev .migrationStart dk) ++ on (d.migs != []) (ev .migrationSwitch dk) ++ on (d.migs != []) (ev .migrationRelease dk) ++
  on d.rel.isSome (ev .orangeryCopy dk) ++ on d.sweep.isSome (ev .sweepWord dk) ++ on d.splitBusy.isSome (ev .l2splitDone dk) ++
  on d.dirrd.isSome (ev .dirrdDone dk) ++ on (d.deal != []) (ev .arborUnitArrival dk) ++ on (d.units != []) (ev .blockStart dk) ++
  on (d.units != []) (ev .blockResume dk) ++ on (d.units != []) (ev .arborOffer dk) ++ on (d.portq != []) (.port dk none)

/-- The events of a core's buffers, array queue and issue sets. -/
def coreMoves (ck : Nat) (c : Core) : List Move :=
  (c.wb.filter (fun b => b.2 != [])).map (fun b => ev .writeBufferDrain ck b.1) ++
  (if c.matq = [] then [] else [ev .matrixOpTurn ck]) ++
  ((List.range 4).filter (fun i => match c.issue[i]? with | some q => q.pending != [] | none => false)).map
    (fun i => ev .pendingExchange ck i)

/-- The events of a bay's engines. -/
def bayMoves (bk : Nat) (b : Bay) : List Move :=
  let one (eng : Nat) (l : List EngCmd) : List Move :=
    l.flatMap (fun c => [ev .engineCommandStart bk eng c.id, ev .engineCompletion bk eng c.id])
  one 0 b.enl ++ one 1 b.fix

/-- The events of a block and its warps. -/
def blockMoves (s : State) (b : Block) : List Move :=
  (match b.phase with
    | .wantSave _ => [ev .preempt b.bid] | .halting _ => [ev .preemptSave b.bid] | .ending => [ev .blockRetire b.bid]
    | .running => []) ++
  (b.warps.zip (List.range b.warps.length)).flatMap (fun (x : Warp × Nat) =>
    if x.1.done then []
    else [ev .rotation b.bid x.2, ev .park b.bid x.2] ++
      (List.range 2).flatMap (fun k =>
        (if fetchDue s { bid := b.bid, wi := x.2, slot := k } then [ev .instructionFetch b.bid x.2 k] else []) ++
        (match x.1.slots[k]? with
          | some sl => (match sl.wait with | .sleep t => if t ≤ s.clock then [ev .sleepExpire b.bid x.2 k] else [] | _ => [])
          | none => []))) ++
  (b.warps.zip (List.range b.warps.length)).flatMap (fun (x : Warp × Nat) =>
    ((List.range 4).filter (fun i => match x.1.log[i]? with | some e => e.state == .resolved || e.state == .fatal | none => false)).map
      (fun i => ev .oplogReplay b.bid x.2 i))

/-- The events of a Lodge's active slots on a wafer. -/
def queueMoves (s : State) (dk : Nat) (d : Domain) : List Move :=
  d.queues.flatMap (fun (e : Nat × HostQ) =>
    let key := 1024 * waferOf dk + e.1
    if e.2.mapped then
      [ev .entryNop key, ev .entryLaunch key, ev .entryWait key, ev .entrySignal key, ev .entryFence key] ++
      (if e.2.waiting && decide (e.2.polled + 64 ≤ s.clock) then [ev .queueWaitPoll key] else [])
    else [])

/-- The events of a wafer's dispatchers. -/
def waferMoves (w : Nat) (x : Wafer) : List Move :=
  (if x.pavDeal = [] then [] else [ev .pavilionDeal w]) ++ (if x.pergDeal = [] then [] else [ev .pergolaPlace w]) ++
  (if x.training.isSome then [Move.firmware w] else []) ++
  x.hostReads.map (fun h => ev (if h.2.1 then .cxlHostOwnershipRead else .cxlHostSharedRead) w h.1)

/-- The reports of a grid's counts. -/
def gridMoves (g : Grid) : List Move :=
  (g.arbors.map (fun e => ev .countReport 0 e.1)) ++ (g.pergolas.map (fun e => ev .countReport 1 e.1)) ++ [ev .countReport g.rootLvl g.rootKey]

/-- The progress of the owners' operations. -/
def unitMoves (u : UnitOp) : List Move := Move.unitDone u.op :: u.cores.map (fun ck => ev .xlatPurge u.op ck)

/-- Faults that are due come before the next instruction (R56, R62, R64). -/
def faultMoves (s : State) : List Move :=
  s.blocks.flatMap (fun b => ((List.range b.warps.length).filter (fun wi => deferredDue s b.bid wi)).map (fun wi => ev .deferredFault b.bid wi)) ++
  (s.pends.filter (fun p => logDue s p.tag)).map (fun p => ev .operandLogEntry p.tag) ++
  s.blocks.flatMap (fun b => (b.warps.zip (List.range b.warps.length)).flatMap (fun (x : Warp × Nat) =>
    ((List.range 4).filter (fun i => match x.1.log[i]? with | some e => e.state == .fatal | none => false)).map
      (fun i => ev .oplogReplay b.bid x.2 i)))

/-- Everything else that may happen without the environment. -/
def flightMoves (s : State) : List Move :=
  (if safelightDue s then [ev .safelightStep 0] else []) ++
  s.reqs.flatMap (reqMove s) ++ s.msgs.flatMap msgMove ++ s.pends.flatMap (pendMove s) ++ s.unitOps.flatMap unitMoves ++
  s.blocks.flatMap (blockMoves s) ++ s.cores.flatMap (fun e => coreMoves e.1 e.2) ++ s.bays.flatMap (fun e => bayMoves e.1 e.2) ++
  s.domains.flatMap (fun e => domainMoves e.1 e.2 ++ queueMoves s e.1 e.2) ++ s.wafers.flatMap (fun e => waferMoves e.1 e.2) ++
  s.grids.flatMap gridMoves

/-- Whether a move changed anything but the counters of numbers and of free values. -/
def progressed (s t : State) : Bool :=
  decide (({ t with freeCtr := s.freeCtr, nextId := s.nextId, ops := s.ops } : State) ≠ s)

/-- The state after the first move of a list that makes progress. -/
def firstMove (s : State) : List Move → Option State
  | [] => none
  | m :: ms => match runMove s m with
    | .next t => if progressed s t then some t else firstMove s ms
    | _ => firstMove s ms

/-- The issue slots with a path that may issue, lowest core first. -/
def issueChoice (s : State) : Option (Nat × Nat × PathRef) :=
  s.cores.findSome? (fun e => (List.range 4).findSome? (fun isl => (pickIssue s e.1 isl).map (fun r => (e.1, isl, r))))

/-- The path whose prefix has issued and whose governed instruction comes next (R305). -/
def pairPath (s : State) : Option PathRef :=
  s.blocks.findSome? (fun b => (List.range b.warps.length).findSome? (fun wi => (List.range 2).findSome? (fun k =>
    match b.warps[wi]? with
    | none => none
    | some w => match w.slots[k]? with
      | some sl => if sl.live && sl.ordPfx.isSome then some { bid := b.bid, wi := wi, slot := k } else none
      | none => none)))

/-- A prefix whose instruction cannot be read is taken back. -/
def dropPair (s : State) (r : PathRef) : State :=
  s.updSlot r (fun sl => match sl.ordPfx with
    | some o => { sl with path := { sl.path with pc := o.addr }, ordPfx := none }
    | none => sl)

/-- The second half of a pair. -/
def runPair (s : State) (r : PathRef) : Host.Outcome State Fault Refusal :=
  let bytes := match s.block? r.bid, s.warp? r.bid r.wi, s.slot? r with
    | some b, some w, some sl => (match pathBytes s b w sl.path.pc with | .ok _ => true | .error _ => false)
    | _, _, _ => false
  if bytes then settleIssue s r (runPath s r) else .next (dropPair s r)

/-- What happens by itself when nothing is asked: a fault that is due, an issue, something in flight, a tick. -/
def idle (s : State) : Host.Outcome State Fault Refusal :=
  match firstMove s (faultMoves s) with
  | some t => .next t
  | none => match issueChoice s with
    | some (ck, isl, r) => issueFrom s ck isl r
    | none => match firstMove s (flightMoves s) with
      | some t => .next t
      | none => .next (tick s)

/-- One step of the machine. -/
def turn (s : State) : Host.Outcome State Fault Refusal :=
  match pairPath s with
  | some r => runPair s r
  | none => match s.agenda with
    | m :: ms => runMove { s with agenda := ms } m
    | [] => idle s

end Sys2Proof.Machine
end

