-- ==== Sys2Proof/Machine/Step.lean ====
section
/-!
DEFINITION. One step of the machine, and the placing of one instruction where the next step fetches it (log 3, log 6).
-/

namespace Sys2Proof.Machine

/-- One step: a row of the table of operations and events, or one of the moves inside a unit (R33, log 3). -/
def step (s : State) : Host.Outcome State Fault Refusal := turn s

/-- The launch record of the block that `withFetchWord` places: one privileged warp with every resource (R193, log 6). -/
def probeRecord : LaunchRec :=
  { entry := 0x10000, gridx := 1, gridy := 1, gridz := 1, warps := 1, regs := 248, scratch := 512, tiles := 8, barriers := 16,
    gang := 1, mirror := 0, spill := 32, pair := false, kill := false, push := false, privileged := true, world := false, prio := 0,
    scope := 0, target := 0, hintMode := 0, hintCount := 0, hintTab := 0, hints := [0, 0, 0, 0], params := 0, compAddr := 0x20000,
    compVal := 0, faultRec := 0, handler := 0, spillBase := 0x30000 }

/-- The block that `withFetchWord` places on core slot 0 of domain 0 of wafer 0. -/
def probeBlock (bid clock : Nat) : Block :=
  { bid := bid, gid := 0, lrec := probeRecord, launchAddr := 0, linear := 0, member := 0, gangId := bid, world := false, core := 0,
    phase := .running, killed := false, warps := [launchWarp probeRecord 0 0 0 0 0], slice := [], tiles := [], bars := [], gbar := 0, win := [],
    push := [], cancel := false, ilocks := [], ilockedBytes := 0, ilockShort := false, hint := none, arrival := 0, home := 0, start := clock,
    saveRec := none, target := 0 }

/-- The code line that holds the instruction at the block's entry. -/
def probeLine (w : Nat) : CLine :=
  { vline := vlineOf probeRecord.entry, bytes := Sys2Proof.bytesOf 8 (BitVec.ofNat 64 w) ++ List.replicate 120 0,
    attr := { cls := 0, world := false, size := 0, pline := 0, perms := 15 }, locks := [] }

/-- The state with one instruction placed where the next step fetches it (log 6): a fresh one-warp block at its entry, its code
line in the instruction cache with the instruction's bytes, lowest first, zeros above; issue slot 0 of its core holds this warp
alone, and the agenda names that slot. A pair that a prefix has begun is taken back. -/
def State.withFetchWord (s : State) (nbits w : Nat) : State :=
  let s0 := match pairPath s with | some r => dropPair s r | none => s
  let b := probeBlock s0.nextId s0.clock
  let q : IssueSlot :=
    { active := [(b.bid, 0, s0.clock)], pending := [], last := none, run := 0, issuedAt := none, readySince := [], passed := [],
      trade := false }
  let s1 := s0.updCore 0 (fun c => { c.iFill (probeLine (w % 2 ^ nbits)) with issue := c.issue.set 0 q })
  { s1 with blocks := s1.blocks ++ [b], nextId := s1.nextId + 1, agenda := .issue 0 0 :: s1.agenda }

end Sys2Proof.Machine
end

