-- ==== Sys2Proof/WellFormed.lean ====
section
/-!
DEFINITION. What every encoding of an instruction must meet whatever its operands name (R293, R295, R301, R302, R305, R306, R317):
operands in the row's format, reserved values, and the fields a format or a shape marks zero. The checks that depend on the
instruction's own description or on the launch record stand with the meanings.
-/

namespace Sys2Proof

/-- The L32 shapes of R317, by the fields they fix: every field zero; a trap code 0-63 in B; B zero; A zero; a barrier
number 0-15 in B; nothing fixed. -/
inductive L32Shape where
  | none | imm | da | di | bar | full
  deriving DecidableEq, Repr

/-- The shape of an L32 opcode (R316). -/
def l32ShapeOf (opc : Nat) : L32Shape :=
  if opc ≤ 4 then .none
  else if opc = 5 then .imm
  else if (0x23 ≤ opc ∧ opc ≤ 0x2A) ∨ opc = 0x57 then .da
  else if opc = 0x3A then .di
  else if 0x1C0 ≤ opc ∧ opc ≤ 0x1C3 then .bar
  else if 0x1C4 ≤ opc ∧ opc ≤ 0x1C6 then .none
  else .full

/-- The fields that a shape marks zero are zero, and its immediate lies in range (R317). -/
def F32.ok (sh : L32Shape) (f : F32) : Bool :=
  match sh with
  | .none => f.d == 0 && f.a == 0 && f.b == 0
  | .imm => f.d == 0 && f.a == 0 && decide (f.b.toNat < 64)
  | .da => f.b == 0
  | .di => f.a == 0
  | .bar => f.d == 0 && f.a == 0 && decide (f.b.toNat < 16)
  | .full => true

/-- `pblk`: bits marked zero, and no pattern bit beyond the count (R302). -/
def FPblk.ok (f : FPblk) : Bool := f.z == 0 && decide (f.t.toNat < 2 ^ (f.c.toNat + 1))

/-- `ordp`: bits marked zero (R305). -/
def FOrdp.ok (f : FOrdp) : Bool := f.z == 0

/-- The opcodes that accept a source-lane modifier (R319). -/
def lkindOpcode (opc : Nat) : Bool :=
  decide (opc ≤ 0x28) || (decide (0x60 ≤ opc) && decide (opc ≤ 0x85)) || (decide (0xA0 ≤ opc) && decide (opc ≤ 0xAB))

/-- Sub-format A: RND is not reserved (R298), LKIND is not reserved, LAMT is zero without a modifier, and a modifier stands only on
an opcode that accepts one and on a B that names a v or o register (R301, R319). -/
def FmtA.ok (opc : Nat) (f : FmtA) : Bool :=
  decide (f.rnd.toNat ≤ 5) &&
  (if f.lkind = 0 then f.lamt == 0 else f.lkind != 7 && lkindOpcode opc && decide (f.b.toNat < 264))

/-- Sub-format C: WIDTH and ORDER are not reserved, and SCOPE is zero on a plain access other than a fence (R295, R319). -/
def FmtC.ok (fence : Bool) (f : FmtC) : Bool :=
  decide (f.width.toNat ≤ 4) && decide (f.order.toNat ≤ 4) && (fence || f.order != 0 || f.scope == 0)

/-- Whether a row is one of the four fences, whose SCOPE stands without an order (R319). -/
def Instr.isFence : Instr → Bool
  | .fenceAcq | .fenceRel | .fenceAr | .fenceSc => true
  | _ => false

/-- An instruction whose operands are in its row's format and whose encoding meets the checks above. -/
def Ins.wf (x : Ins) : Bool :=
  match x.instr.row.1, x.ops with
  | .s16, .s16 _ => true
  | .l32, .l32 f => f.ok (l32ShapeOf x.instr.row.2)
  | .pblk, .pblk f => f.ok
  | .ordp, .ordp f => f.ok
  | .a, .a f => f.ok x.instr.row.2
  | .b, .b _ => true
  | .c, .c f => f.ok x.instr.isFence
  | .event, .event _ => true
  | _, _ => false

/-- The operands are in the row's format: what the encoder needs. -/
def Ins.shaped (x : Ins) : Bool := x.ops.format == x.instr.row.1

end Sys2Proof
end

