-- ==== Sys2Proof/Safety.lean ====
section
/-!
DEFINITION. What counts as a safe run, and the terms in which claims about the machine are stated: the path that issues, what does
not hinder an instruction, and what an instruction leaves alone.
-/

namespace Sys2Proof.Machine

/-! ### Runs -/

/-- The machine goes on: its step answers a next state. -/
def Answers (s : State) : Prop := ∃ t, step s = .next t

/-- A run of any length from a state meets no fault and no refusal. -/
def Safe (s : State) : Prop := ∀ k, ∃ t, Host.Core.run Sys2Proof.core k s = .next t

/-- The invariant of memory: its list is in canonical form (log 1). -/
def State.memOk (s : State) : Prop := Memory.wf s.mem = true

/-! ### The path that issues -/

/-- The state names path `r` as the one that issues: live, in slot `sl` of warp `w` of block `b`. -/
structure Issuing (s : State) (r : PathRef) (b : Block) (w : Warp) (sl : Slot) : Prop where
  cur : s.cur = some r
  block : s.block? r.bid = some b
  warp : b.warps[r.wi]? = some w
  slot : w.slots[r.slot]? = some sl
  live : sl.live = true

/-- What the issue of `i` with operands `ops` on that path sees. -/
def ctxOf (i : Instr) (ops : Ops) (r : PathRef) (b : Block) (w : Warp) (sl : Slot) : Ctx :=
  { ref := r, blk := b, warp := w, slot := sl, em := sl.path.mask, m := effMask w sl, pc := sl.path.pc,
    len := codeLen (encode { instr := i, ops := ops }), fpc := match sl.ordPfx with | some o => o.addr | none => sl.path.pc,
    ord := sl.ordPfx, enc := codeWord (encode { instr := i, ops := ops }) }

/-- What the instruction's operands and its effect see on that path: l is undefined when the warp's other slot issued last (R75, R212). -/
def ctxAt (s : State) (i : Instr) (ops : Ops) (r : PathRef) (b : Block) (w : Warp) (sl : Slot) : Ctx := (ctxOf i ops r b w sl).seen s

/-- A field's operand may stand in its role (R299), and none of its registers is empty (R80). -/
def Field.settled (N : Nat) (w : Warp) (f : Field) : Bool :=
  roleOk N f.role f.words f.opd && (regsOf f.opd f.words).all (fun x => !w.isEmpty x)

/-- Whether an instruction of a shape may take the order of a pending `ordp` (R305, R161). -/
def ordpOk (sh : Shape) (o : Option OrdPfx) : Bool :=
  match o, sh.ordp with
  | none, _ => true
  | some _, none => false
  | some o, some (acq, rel, ar) => match o.order with | .acq => acq | .rel => rel | .ar => ar | _ => true

/-- Nothing hinders an instruction of shape `sh` on that path: its encoding is valid (R306), the warp has the mode it needs, it stands
in no `pblk` reach or may be governed (R303), a pending `ordp` is one it takes (R305), and its operands are settled. -/
structure Unhindered (sh : Shape) (b : Block) (w : Warp) (sl : Slot) : Prop where
  encoding : sh.opcodeBad = false
  mode : sh.priv = true → w.priv = true
  governed : reachCount sl.reach = 0 ∨ sh.gov = true
  order : ordpOk sh sl.ordPfx = true
  fields : ∀ f ∈ sh.fields, f.settled b.lrec.regs w = true

/-! ### What an instruction leaves alone -/

/-- Lane `i` of a register that carries a full/empty bit. -/
def Warp.regLane (w : Warp) (x : Reg) (i : Nat) : DWord :=
  match x with
  | .v n => (w.vLane n i).setWidth 64
  | .o n => (w.oLane n i).setWidth 64
  | .k n => (w.kReg n).setWidth 64
  | .h n => w.hLane n i

/-- Only warp `r.wi` of block `r.bid` changed, to `w'`: of the rest of the machine only performance counters and the counter of
free values may have. -/
structure OnlyWarp (s t : State) (r : PathRef) (b : Block) (w' : Warp) : Prop where
  block : t.block? r.bid = some { b with warps := b.warps.set r.wi w' }
  others : ∀ bid, bid ≠ r.bid → t.block? bid = s.block? bid
  cores : ∀ ck, { t.core ck with perfs := [] } = { s.core ck with perfs := [] }
  rest : t = { s with blocks := t.blocks, cores := t.cores, freeCtr := t.freeCtr }

/-- The path in slot `k` went on after `len` bytes, with the loop end step (R352); the other slot, the registers, the predicates, the
special registers, the log and all else of the warp are left alone, but for what a user of it says; live slots age (log 59), and the
path's lanes are no longer those of a fresh warp. -/
structure WentOn (w w' : Warp) (k : Nat) (sl : Slot) (len : Nat) : Prop where
  path : ∃ sl', w'.slots[k]? = some sl' ∧ sl'.live = sl.live ∧ sl'.wait = .ready ∧
    sl'.path = { sl.path with pc := (loopEnd 3 w (sl.path.pc + BitVec.ofNat 64 len)).1 } ∧
    sl'.reach = (if reachCount sl.reach = 0 then sl.reach else reachNext sl.reach) ∧ sl'.susp = sl.susp ∧ sl'.ordPfx = none
  other : ∀ j, j ≠ k → w'.slots[j]? = (w.slots[j]?).map Slot.older
  loops : w'.levels = (loopEnd 3 w (sl.path.pc + BitVec.ofNat 64 len)).2.levels ∧
    w'.lc0 = (loopEnd 3 w (sl.path.pc + BitVec.ofNat 64 len)).2.lc0 ∧ w'.lc1 = (loopEnd 3 w (sl.path.pc + BitVec.ofNat 64 len)).2.lc1
  counts : w'.rotation = w.rotation + 1 ∧ w'.progress = w.progress + len ∧ w'.lastSlot = k ∧
    w'.freshLanes = w.freshLanes &&& ~~~sl.path.mask
  rest : w' = { w with slots := w'.slots, v := w'.v, o := w'.o, k := w'.k, h := w'.h, p := w'.p, l := w'.l, lc0 := w'.lc0, lc1 := w'.lc1,
                       empty := w'.empty, rotation := w'.rotation, levels := w'.levels, csr := w'.csr, lastSlot := w'.lastSlot,
                       progress := w'.progress, freshLanes := w'.freshLanes }

/-- Every register but those listed, and its full/empty bit, is as it was. -/
def KeptRegs (w w' : Warp) (but : List Reg) : Prop :=
  ∀ x, x ∉ but → (∀ i, w'.regLane x i = w.regLane x i) ∧ w'.isEmpty x = w.isEmpty x

/-- Every predicate but the one an operand names is as it was. -/
def KeptPreds (w w' : Warp) (d : Opd) : Prop := ∀ q, d ≠ .p q → w'.pReg q = w.pReg q

/-! ### Instructions that compute a value for each lane -/

/-- The value of destination `d` of `n` words in lane `i`. -/
def Warp.dstLane (w : Warp) (d : Opd) (n i : Nat) : DWord :=
  match d with
  | .p q => if (w.pReg q).getLsbD i then 1 else 0
  | .h q => w.hLane q i
  | .v q => if n = 1 then (w.vLane q i).setWidth 64 else w.vLane (q + 1) i ++ w.vLane q i
  | .o q => if n = 1 then (w.oLane q i).setWidth 64 else w.oLane (q + 1) i ++ w.oLane q i
  | .k q => if n = 1 then (w.kReg q).setWidth 64 else w.kReg (q + 1) ++ w.kReg q
  | _ => 0

/-- A value as a destination of `n` words holds it; a predicate holds bit 0. -/
def asHeld (d : Opd) (n : Nat) (x : DWord) : DWord :=
  match d with
  | .p _ => if x.getLsbD 0 then 1 else 0
  | .h _ => x
  | _ => if n = 1 then (x.setWidth 32).setWidth 64 else x

/-- Lane `i` of a source of `n` words; no words are no source. -/
def sourceLane (b : Block) (w : Warp) (wi : Nat) (x : Opd) (n i : Nat) : DWord :=
  match n with
  | 0 => 0
  | 2 => read64 b w wi x i
  | _ => (read32 b w wi x i).setWidth 64

/-- Lane `i` of B under its source-lane modifier (R301). -/
def modifiedLane (b : Block) (w : Warp) (wi : Nat) (x : Opnds) (n i : Nat) : DWord :=
  match laneMod x.kind x.amt i with
  | some j => sourceLane b w wi x.b n j
  | none => 0

/-- Value and flags of an operation in lane `i`. -/
def opLane (op : LaneOp) (x : Opnds) (b : Block) (w : Warp) (wi i : Nat) : DWord × Word :=
  op.f w.csr.fpmode (sourceLane b w wi x.a op.aW i) (modifiedLane b w wi x op.bW i) (sourceLane b w wi x.c op.cW i)

/-- The flags of the lanes of a mask, joined (R279). -/
def opFlags (op : LaneOp) (x : Opnds) (b : Block) (w : Warp) (wi : Nat) (m : Word) : Word :=
  (lanesOf m).foldl (fun fl i => fl ||| (opLane op x b w wi i).2) 0

/-- Whether a destination is a predicate. -/
def Opd.isPred : Opd → Bool
  | .p _ => true
  | _ => false

/-- An instruction that writes destination `d` of `n` words is done: in the lanes of mask `m` the destination holds `val`, in the others
what it held; flags `fl` are joined to FPMODE; a 32-bit register result is in l as well (R75); all else is left alone. -/
structure ValueDone (d : Opd) (n : Nat) (m : Word) (val : Nat → DWord) (fl : Word) (w w' : Warp) (r : PathRef) (sl : Slot) (len : Nat) : Prop where
  on : WentOn w w' r.slot sl len
  value : d ≠ .zero → ∀ i < 32, w'.dstLane d n i = if m.getLsbD i then asHeld d n (val i) else w.dstLane d n i
  regs : KeptRegs w w' (regsOf d n)
  full : ∀ y, w'.isEmpty y = w.isEmpty y
  preds : KeptPreds w w' d
  flags : w'.csr = { w.csr with fpmode := w.csr.fpmode ||| (fl &&& 0xFF) }
  latest : d.isPred = false → n = 1 → ∀ i < 32, m.getLsbD i = true → lane w'.l i = (val i).setWidth 32
  kept : w.lastSlot = r.slot → d.isPred = true ∨ m = 0 → w'.l = w.l

/-- A lane operation done in the lanes of the effective mask, on the values that `ws` shows. -/
def LaneDone (op : LaneOp) (x : Opnds) (b : Block) (ws w w' : Warp) (r : PathRef) (sl : Slot) (len : Nat) : Prop :=
  ValueDone x.d op.dW (effMask w sl) (fun i => (opLane op x b ws r.wi i).1) (opFlags op x b ws r.wi (effMask w sl)) w w' r sl len

/-- The length of an instruction in bytes. -/
def lenOf (i : Instr) (ops : Ops) : Nat := codeLen (encode { instr := i, ops := ops })

/-- Instruction `i` with operands `ops` of shape `sh` completes as lane operation `op` on `x`, wherever nothing hinders it. -/
def LaneRow (i : Instr) (ops : Ops) (sh : Shape) (op : LaneOp) (x : Opnds) : Prop :=
  ∀ s r b w sl, Issuing s r b w sl → s.ops = ops → Unhindered sh b w sl → op.long = false →
    ∃ t w', exec i s = .next t ∧ OnlyWarp s t r b w' ∧ LaneDone op x b (seenWarp s w r.slot) w w' r sl (lenOf i ops)

/-! ### Uniform instructions -/

/-- An instruction that writes uniform destination `d` of `n` words, or none, is done: neither the mask nor l nor a flag takes part. -/
structure UniformDone (d : Opd) (n : Nat) (val : DWord) (w w' : Warp) (r : PathRef) (sl : Slot) (len : Nat) : Prop where
  on : WentOn w w' r.slot sl len
  value : d ≠ .zero → w'.dstLane d n 0 = asHeld d n val
  regs : KeptRegs w w' (regsOf d n)
  full : ∀ y, w'.isEmpty y = w.isEmpty y
  preds : ∀ q, w'.pReg q = w.pReg q
  csr : w'.csr = w.csr
  kept : w.lastSlot = r.slot → w'.l = w.l

/-- Instruction `i` completes as a uniform operation: its value goes to a k register whatever the mask (R375, R376). -/
def UniformRow (i : Instr) (ops : Ops) (sh : Shape) (op : LaneOp) (x : Opnds) : Prop :=
  ∀ s r b w sl, Issuing s r b w sl → s.ops = ops → Unhindered sh b w sl →
    ∃ t w', exec i s = .next t ∧ OnlyWarp s t r b w' ∧ UniformDone x.d op.dW (opLane op x b (seenWarp s w r.slot) r.wi 0).1 w w' r sl (lenOf i ops)

/-! ### Results that arrive later -/

/-- What an instruction in flight owes: its number, destination, lanes and values. -/
structure Owes (t : State) (r : PathRef) (tag : Nat) (kind : PendKind) (d : Dst) (need : Word) : Prop where
  pend : ∃ p ∈ t.pends, p.tag = tag ∧ p.bid = r.bid ∧ p.wi = r.wi ∧ p.kind = kind ∧ p.dst = d ∧ p.need = need

/-- An instruction whose result arrives later is done with its issue: the path went on, the destination's registers are empty and every
other register, predicate and special register is left alone (R79, R328); `fl` are the flags it raises at issue. -/
structure Arriving (d : Opd) (n : Nat) (fl : Word) (w w' : Warp) (r : PathRef) (sl : Slot) (len : Nat) : Prop where
  on : WentOn w w' r.slot sl len
  empty : ∀ y, w'.isEmpty y = (w.isEmpty y || (regsOf d n).contains y)
  regs : ∀ y i, w'.regLane y i = w.regLane y i
  preds : ∀ q, w'.pReg q = w.pReg q
  flags : w'.csr = { w.csr with fpmode := w.csr.fpmode ||| (fl &&& 0xFF) }

/-- Warp `r.wi` of block `r.bid` changed to `w'`, and one instruction in flight was added with the next number. -/
structure OnlyWarpPend (s t : State) (r : PathRef) (b : Block) (w' : Warp) : Prop where
  block : t.block? r.bid = some { b with warps := b.warps.set r.wi w' }
  others : ∀ bid, bid ≠ r.bid → t.block? bid = s.block? bid
  cores : ∀ ck, { t.core ck with perfs := [] } = { s.core ck with perfs := [] }
  rest : t = { s with blocks := t.blocks, cores := t.cores, freeCtr := t.freeCtr, pends := t.pends, nextId := s.nextId + 1 }

/-- Instruction `i` of at most two outstanding (R328, R363) issues as a long operation: its values are on their way. -/
def LongRow (i : Instr) (ops : Ops) (sh : Shape) (op : LaneOp) (x : Opnds) : Prop :=
  ∀ s r b w sl, Issuing s r b w sl → s.ops = ops → Unhindered sh b w sl → effMask w sl ≠ 0 → longCount s r < 2 →
    ∃ t w', exec i s = .next t ∧ OnlyWarpPend s t r b w' ∧
      Arriving x.d op.dW (opFlags op x b (seenWarp s w r.slot) r.wi (effMask w sl)) w w' r sl (lenOf i ops) ∧
      Owes t r s.nextId .long (dstOf x.d op.dW) (effMask w sl) ∧
      ∃ p ∈ t.pends, p.tag = s.nextId ∧ ∀ j < 32, (effMask w sl).getLsbD j = true →
        p.vals.get 0 j = ((opLane op x b (seenWarp s w r.slot) r.wi j).1.setWidth 128)

/-! ### Rows by format: the operands, the shape and the operation of one instruction -/

/-- An S16 row (R289, R290). -/
def Row16 (i : Instr) (fl : Bool) (op : LaneOp) : Prop :=
  ∀ f : F16, LaneRow i (.s16 f) (shapeX op false true (opnds16 fl f)) op (opnds16 fl f)

/-- An S16 row that adds to its destination (R365). -/
def RowAcc16 (i : Instr) (op : LaneOp) : Prop :=
  ∀ f : F16, let x : Opnds := { d := .v f.d.toNat, a := opdS true f.s, b := .l, c := .v f.d.toNat }
    LaneRow i (.s16 f) (shapeX op false true x) op x

/-- An L32 row with registers (R291); a unary one has B = 0 (R317). -/
def RowLaneDab (i : Instr) (op : LaneOp) : Prop :=
  ∀ f : F32, LaneRow i (.l32 f) (shapeX op false (op.bW != 0 || f.b == 0) (opndsDab f)) op (opndsDab f)

/-- An L32 row with an immediate (R292). -/
def RowLaneDai (i : Instr) (op : LaneOp) : Prop :=
  ∀ f : F32, LaneRow i (.l32 f) (shapeX op false (op.aW != 0 || f.a == 0) (opndsDai f)) op (opndsDai f)

/-- An L32 row that adds to its destination (R365). -/
def RowAccL32 (i : Instr) (op : LaneOp) : Prop :=
  ∀ f : F32, let x : Opnds := { opndsDab f with c := opd7 f.d }; LaneRow i (.l32 f) (shapeX op false true x) op x

/-- A row of sub-format A, for every type it allows; `lk`: it takes a source-lane modifier (R293, R301). -/
def RowA (i : Instr) (ops : FmtA → Option LaneOp) (lk : Bool) : Prop :=
  ∀ f op, ops f = some op → LaneRow i (.a f) (shapeA (some op) false false lk false f) op (opndsA f)

/-- A row of sub-format A that rounds, with RND 0-4 (R298, R356). -/
def RowR (i : Instr) (ops : FmtA → Option LaneOp) (lk : Bool) : Prop :=
  ∀ f op, ops f = some op → f.rnd.toNat ≤ 4 → LaneRow i (.a f) (shapeA (some op) false true lk false f) op (opndsA f)

/-- A conversion: C is a number; `old`: the destination is the third source (R366-R369). -/
def RowCvt (i : Instr) (ops : FmtA → Option LaneOp) (old : Bool) : Prop :=
  ∀ f op, ops f = some op → let x : Opnds := { opndsA f with c := if old then opd9 f.d else .zero }
    LaneRow i (.a f) { opcodeBad := badA f true true (op.bW != 0) false true true (op.bW != 0),
                       fields := op.fields false x (f.strict &&& 3) } op x

/-- A row of sub-format B; a move has A = 0 (R294, R337). -/
def RowB (i : Instr) (ops : FmtB → Option LaneOp) : Prop :=
  ∀ f op, ops f = some op → LaneRow i (.b f) (shapeX op false (op.aW != 0 || f.a == 0) (opndsB f)) op (opndsB f)

/-- A row of sub-format B that adds to its destination, by type code (R365). -/
def RowAccB (i : Instr) (ops : BitVec 3 → Option LaneOp) : Prop :=
  ∀ (f : FmtB) op, ops f.ty = some op → let x : Opnds := { opndsB f with c := opd9 f.d }
    LaneRow i (.b f) (shapeX op false true x) op x

/-- Uniform rows (R375, R376). -/
def RowUniA (i : Instr) (ops : FmtA → Option LaneOp) : Prop :=
  ∀ f op, ops f = some op → UniformRow i (.a f) (shapeA (some op) true false false false f) op (opndsA f)
def RowUniB (i : Instr) (ops : FmtB → Option LaneOp) : Prop :=
  ∀ f op, ops f = some op → UniformRow i (.b f) (shapeX op true (op.aW != 0 || f.a == 0) (opndsB f)) op (opndsB f)
def RowUniDab (i : Instr) (op : LaneOp) : Prop :=
  ∀ f : F32, UniformRow i (.l32 f) (shapeX op true (op.bW != 0 || f.b == 0) (opndsDab f)) op (opndsDab f)
def RowUniDai (i : Instr) (op : LaneOp) : Prop :=
  ∀ f : F32, UniformRow i (.l32 f) (shapeX op true true (opndsDai f)) op (opndsDai f)

/-- Long rows of sub-format A, without and with a rounding field. -/
def LongA (i : Instr) (ops : FmtA → Option LaneOp) (lk : Bool) : Prop :=
  ∀ f op, ops f = some op → LongRow i (.a f) (shapeA (some op) false false lk false f) op (opndsA f)
def LongR (i : Instr) (ops : FmtA → Option LaneOp) (lk : Bool) : Prop :=
  ∀ f op, ops f = some op → f.rnd.toNat ≤ 4 → LongRow i (.a f) (shapeA (some op) false true lk false f) op (opndsA f)

/-! ### Other instructions -/

/-- Where `pre` holds of the issuing path, and nothing hinders instruction `i` with operands `ops` of shape `sh`, it answers a next
state, and `post` holds of it. -/
def Does (i : Instr) (ops : Ops) (sh : Shape) (pre : State → PathRef → Block → Warp → Slot → Prop)
    (post : State → State → PathRef → Block → Warp → Slot → Prop) : Prop :=
  ∀ s r b w sl, Issuing s r b w sl → s.ops = ops → Unhindered sh b w sl → pre s r b w sl →
    ∃ t, exec i s = .next t ∧ post s t r b w sl

/-- No condition beyond those of `Does`. -/
def always : State → PathRef → Block → Warp → Slot → Prop := fun _ _ _ _ _ => True

/-- The instruction takes fault `f` on its path (R56, R59). -/
def Raises (i : Instr) (s : State) (r : PathRef) (f : Flt) : Prop := exec i s = .next (takeFault s r f)

/-- Where the fault of the issuing instruction says it lies: at the instruction, or at the prefix before it (R305). -/
def faultPc (sl : Slot) : DWord := match sl.ordPfx with | some o => o.addr | none => sl.path.pc

/-- The path in slot `k` stands at `pc`, Ready, after an instruction of `len` bytes; the rest of the warp is as in `w`, l too unless the
issue changed slots (R212), but that live slots age (log 59). -/
structure StandsAt (w w' : Warp) (k : Nat) (sl : Slot) (pc : DWord) (len : Nat) : Prop where
  path : ∃ sl', w'.slots[k]? = some sl' ∧ sl'.live = sl.live ∧ sl'.wait = .ready ∧ sl'.path = { sl.path with pc := pc } ∧
    sl'.reach = (if reachCount sl.reach = 0 then sl.reach else reachNext sl.reach) ∧ sl'.susp = sl.susp ∧ sl'.ordPfx = none
  other : ∀ j, j ≠ k → w'.slots[j]? = (w.slots[j]?).map Slot.older
  rest : w' = { w with slots := w'.slots, l := w'.l, rotation := w.rotation + 1, progress := w.progress + len, lastSlot := k,
                       freshLanes := w.freshLanes &&& ~~~sl.path.mask }
  latest : w.lastSlot = k → w'.l = w.l

/-- The path went on after its instruction, with the loop end step (R352), and did nothing else. -/
def PassedOn (w w' : Warp) (k : Nat) (sl : Slot) (len : Nat) : Prop :=
  StandsAt (loopEnd 3 w (sl.path.pc + BitVec.ofNat 64 len)).2 w' k sl (loopEnd 3 w (sl.path.pc + BitVec.ofNat 64 len)).1 len

/-- The path went to `t`; the loop levels whose body does not hold `t` ended (R353). -/
def WentTo (w w' : Warp) (k : Nat) (sl : Slot) (t : DWord) (len : Nat) : Prop := StandsAt (leaveLoops w t) w' k sl t len

/-- The entries of the warp's spill stack from `lo` to below `n` meet no fault when the instruction uses them (R198, R213). -/
def StackUsable (i : Instr) (ops : Ops) (s : State) (r : PathRef) (b : Block) (w : Warp) (sl : Slot) (lo n : Nat) : Prop :=
  (spillFaults (beginIssue (ctxOf i ops r b w sl) s) b (seenWarp s w r.slot) lo n).1 = none

/-- The path's lanes left the warp: of the rest of the warp only the slots, the loop levels, a handler's INTRAP, the counts of an issue and l
changed (R216, R346). -/
structure LanesLeft (w w' : Warp) (k : Nat) (sl : Slot) (len : Nat) : Prop where
  exited : w'.exited = w.exited ||| sl.path.mask
  freed : w'.slots[k]? = some Slot.empty
  csr : w'.csr = if w.inTrap = true ∧ w.trapSlot = k then { w.csr with status := setBit w.csr.status 0 false } else w.csr
  rest : w' = { w with slots := w'.slots, exited := w'.exited, csr := w'.csr, l := w'.l, lc0 := w'.lc0, lc1 := w'.lc1, levels := w'.levels,
                       rotation := w'.rotation, progress := w.progress + len, lastSlot := k,
                       freshLanes := w.freshLanes &&& ~~~sl.path.mask }

/-- The warp has exited (R46): none of its slots holds a path, and its registers are as they were. -/
structure WarpExited (w w' : Warp) : Prop where
  done : w'.done = true ∧ w'.exited = BitVec.allOnes 32
  slots : w'.slots.length = w.slots.length ∧ ∀ x ∈ w'.slots, x = Slot.empty
  regs : w'.v = w.v ∧ w'.o = w.o ∧ w'.k = w.k ∧ w'.h = w.h ∧ w'.p = w.p ∧ w'.empty = w.empty

/-- Of the machine only blocks, cores, the leave of requests to fill an L1, a save record's place and free values changed; the blocks of
other gangs did not, and no memory did. -/
structure OnlyGang (s t : State) (gang : Nat) : Prop where
  others : ∀ bid x, s.block? bid = some x → x.gangId ≠ gang → t.block? bid = some x
  reqs : t.reqs.map (fun q => { q with fill := false }) = s.reqs.map (fun q => { q with fill := false })
  rest : t = { s with blocks := t.blocks, cores := t.cores, domains := t.domains, reqs := t.reqs, freeCtr := t.freeCtr }

/-- A slot of a warp changed. -/
def Warp.onSlot (w : Warp) (k : Nat) (f : Slot → Slot) : Warp := { w with slots := w.slots.modify k f }

/-- An instruction that writes value `val`, of the operands as the issue sees them, to the lanes of destination `d` completes. -/
def ValueRow (i : Instr) (ops : Ops) (sh : Shape) (d : Opd) (n : Nat) (val : Block → Warp → PathRef → Slot → Nat → DWord)
    (fl : Block → Warp → PathRef → Slot → Word) : Prop :=
  Does i ops sh always (fun s t r b w sl => ∃ w', OnlyWarp s t r b w' ∧
    ValueDone d n (effMask w sl) (val b (seenWarp s w r.slot) r sl) (fl b (seenWarp s w r.slot) r sl) w w' r sl (lenOf i ops))

/-- An instruction that writes value `val` to uniform destination `d` completes; `fl` are the flags it raises. -/
def UniValueRow (i : Instr) (ops : Ops) (sh : Shape) (d : Opd) (n : Nat) (val : Block → Warp → PathRef → Slot → DWord)
    (fl : Block → Warp → PathRef → Slot → Word) : Prop :=
  Does i ops sh always (fun s t r b w sl => ∃ w', OnlyWarp s t r b (w'.setFlags (fl b (seenWarp s w r.slot) r sl)) ∧
    UniformDone d n (val b (seenWarp s w r.slot) r sl) w w' r sl (lenOf i ops))

/-- No flags. -/
def noFlags : Block → Warp → PathRef → Slot → Word := fun _ _ _ _ => 0

/-- A truth as a lane's value. -/
def truth (p : Bool) : DWord := if p then 1 else 0

/-! ### Memory instructions -/

/-- Of the machine only the issuing block, its core's L1 and write buffer, performance counters, the numbers and free values, and the
instructions and requests in flight changed; `b'` is the block after. -/
structure OnlyAccess (s t : State) (r : PathRef) (b b' : Block) : Prop where
  block : t.block? r.bid = some b'
  others : ∀ bid, bid ≠ r.bid → t.block? bid = s.block? bid
  core : { t.core b.core with perfs := [], l1 := [], wb := [] } = { s.core b.core with perfs := [], l1 := [], wb := [] }
  cores : ∀ ck, ck ≠ b.core → { t.core ck with perfs := [] } = { s.core ck with perfs := [] }
  rest : t = { s with blocks := t.blocks, cores := t.cores, freeCtr := t.freeCtr, pends := t.pends, reqs := t.reqs, nextId := t.nextId }

/-- The core's L1 and write buffer are as they were. -/
def KeptCaches (s t : State) (ck : Nat) : Prop := (t.core ck).l1 = (s.core ck).l1 ∧ (t.core ck).wb = (s.core ck).wb

/-- One instruction in flight was added: of the issuing path, with the next number. -/
def InFlight (s t : State) (c : Ctx) (kind : PendKind) (dst dst2 : Dst) (need : Word) (order : Order) (scope : Scope) : Prop :=
  ∃ p, t.pends = s.pends ++ [p] ∧ p.tag = s.nextId ∧ p.bid = c.ref.bid ∧ p.wi = c.ref.wi ∧ p.slot = c.ref.slot ∧ p.pc = c.fpc ∧
    p.kind = kind ∧ p.dst = dst ∧ p.dst2 = dst2 ∧ p.need = need ∧ p.order = order ∧ p.scope = scope

/-- A request is one of the issuing path's: from its core, of its world and mode, with the number, kind, order, size and address given. -/
def Req.isOf (q : Req) (c : Ctx) (tag : Nat) (kind : ReqKind) (mo : MemOrd) (hint n : Nat) (va : DWord) : Prop :=
  q.core = c.blk.core ∧ q.bid = c.ref.bid ∧ q.wi = c.ref.wi ∧ q.tag = tag ∧ q.kind = kind ∧ q.va = va ∧ q.size = n ∧ q.hint = hint ∧
  q.order = (mo.at va).order ∧ q.scope = (mo.at va).scope ∧ q.strong = laneStrong mo va ∧ q.secure = c.warp.secure ∧ q.priv = c.warp.priv

/-- One request for each lane of mask `m` was sent, each as `p` says; of the requests in flight before, at most the leave to fill the L1
changed. -/
def Sent (s t : State) (m : Word) (p : Req → Prop) : Prop :=
  ∃ old new, t.reqs = old ++ new ∧ old.map (fun q => { q with fill := false }) = s.reqs.map (fun q => { q with fill := false }) ∧
    new.map (·.lane) = lanesOf m ∧ ∀ q ∈ new, p q

/-- The accesses of the active lanes meet no precise fault (R378) and wait for nothing (R65, R140, R160). -/
def AccessFree (s : State) (c : Ctx) (mo : MemOrd) (reads : Bool) (codes : DWord → List (BitVec 8)) (raw va : Nat → DWord) : Prop :=
  (∀ j, c.m.getLsbD j = true → codes (raw j) = []) ∧ memWaits c s mo reads va = false

/-- No active lane needs a remote-request slot of the core, or one is free for every instruction's requests (R34, R228). -/
def SlotsFree (s : State) (c : Ctx) (va : Nat → DWord) : Prop :=
  slotsTaken s c.blk.core = false ∨ ∀ j, c.m.getLsbD j = true → ownerOf (va j) = 62

/-- The write buffer has room for the lines `vls`: in each bank the free entries are enough for those that no entry takes (R140). -/
def BufferRoom (k : Core) (vls : List Nat) : Prop :=
  ∀ x < 8, (k.bank x).length + ((vls.filter (fun vl => bankOf vl == x && !(k.bank x).any (fun e => e.takes vl))).eraseDups).length ≤ 8

/-- The scratchpad offset a lane's address names. -/
def sliceAt (b : Block) (va : DWord) : Option Nat := if ownerOf va = 62 then sliceOff b (offsetOf va) else none

/-- The lanes of a mask whose address satisfies a test. -/
def lanesWith (m : Word) (p : Nat → Bool) : Word := maskOf ((lanesOf m).filter p)

/-- Bytes `[o, o + n)` and `[o', o' + n)` do not meet. -/
def Apart (n o o' : Nat) : Prop := o' + n ≤ o ∨ o + n ≤ o'

/-- Every byte of the slice outside the bytes that active lanes name in it is as it was. -/
def SliceFrame (b b' : Block) (m : Word) (n : Nat) (va : Nat → DWord) : Prop :=
  ∀ a, (∀ j o, m.getLsbD j = true → sliceAt b (va j) = some o → a < o ∨ o + n ≤ a) → memGet b'.slice a = memGet b.slice a

/-- A load that nothing holds back: the destination is empty, one instruction is in flight for it, and each active lane has a request. A
scratchpad lane is answered with the bytes of the slice (R385); a strong lane's request is on its way; and if the L1 holds every
ordinary lane's line, and no request of the core is in flight, each is answered with the line's bytes under the core's buffered stores. -/
def Loads (i : Instr) (ops : Ops) (sh : Shape) (d : Opd) (n : Nat) (sx : Bool) (hint : Nat) (whole : Bool) (mo : Ctx → MemOrd)
    (codes : State → Block → Warp → DWord → List (BitVec 8)) (raw va : Ctx → Nat → DWord) : Prop :=
  let cx (s : State) (r : PathRef) (b : Block) (w : Warp) (sl : Slot) : Ctx :=
    let c := ctxAt s i ops r b w sl
    if whole then { c with m := 1 } else c
  Does i ops sh (fun s r b w sl => let c := cx s r b w sl
      c.m ≠ 0 ∧ AccessFree s c (mo c) true (codes s b w) (raw c) (va c) ∧ SlotsFree s c (va c))
    (fun s t r b w sl => let c := cx s r b w sl
      ∃ w', OnlyAccess s t r b { b with warps := b.warps.set r.wi w' } ∧ KeptCaches s t b.core ∧
        Arriving d (bytesWords n) 0 w w' r sl (lenOf i ops) ∧
        InFlight s t c (.load n sx) (dstOf d (bytesWords n)) .none c.m (mo c).order (mo c).scope ∧
        Sent s t c.m (fun q => q.isOf c s.nextId .load (mo c) hint n (va c q.lane) ∧
          (∀ o, sliceAt b (va c q.lane) = some o → q.stage = .answered ∧ q.value = BitVec.ofNat 128 (sliceNat b o n)) ∧
          (ownerOf (va c q.lane) ≠ 62 → laneStrong (mo c) (va c q.lane) = true → q.stage = .toOwner) ∧
          ((∀ x ∈ s.reqs, x.core ≠ b.core) → ∀ l,
            (∀ j, c.m.getLsbD j = true → ownerOf (va c j) ≠ 62 ∧ laneStrong (mo c) (va c j) = false ∧
              ((s.core b.core).l1Hit (vlineOf (va c j)) w.secure w.priv).isSome) →
            (s.core b.core).l1Hit (vlineOf (va c q.lane)) w.secure w.priv = some l →
            q.stage = .answered ∧ q.value = BitVec.ofNat 128 (natOfBytes (lineSlice
              ((s.core b.core).overlay (vlineOf (va c q.lane)) (fun _ => true) l.bytes) ((va c q.lane).toNat % 128) n)))))

/-- With no active lane a memory instruction only goes on. -/
def Skips (i : Instr) (ops : Ops) (sh : Shape) : Prop :=
  Does i ops sh (fun _ _ _ w sl => effMask w sl = 0)
    (fun s t r b w sl => ∃ w', OnlyWarp s t r b w' ∧ PassedOn w w' r.slot sl (lenOf i ops))

/-- A store that nothing holds back: the scratchpad lanes' bytes are in the slice, the weak lanes' in the core's write buffer, the strong
lanes' on their way; what the core's own slice, buffer and L1 hold elsewhere is as it was. -/
def Stores (i : Instr) (ops : Ops) (sh : Shape) (data : Opd) (n hint : Nat) (mo : Ctx → MemOrd)
    (codes : State → Block → Warp → DWord → List (BitVec 8)) (raw va : Ctx → Nat → DWord) : Prop :=
  let weak (c : Ctx) (j : Nat) : Bool := ownerOf (va c j) != 62 && !laneStrong (mo c) (va c j)
  let strong (c : Ctx) (j : Nat) : Bool := ownerOf (va c j) != 62 && laneStrong (mo c) (va c j)
  let x (c : Ctx) (j : Nat) : BitVec 128 := readN c.blk c.warp c.ref.wi data (bytesWords n) j
  let piece (c : Ctx) (tag j : Nat) : Piece := pieceOf c tag j hint (va c j) (bytesOfNat n (x c j).toNat)
  Does i ops sh (fun s r b w sl => let c := ctxAt s i ops r b w sl
      c.m ≠ 0 ∧ AccessFree s c (mo c) false (codes s b w) (raw c) (va c) ∧
      (slotsTaken s b.core = false ∨ ∀ j, c.m.getLsbD j = true → strong c j = false) ∧
      BufferRoom (s.core b.core) (((lanesOf c.m).filter (weak c)).map (fun j => vlineOf (va c j))))
    (fun s t r b w sl => let c := ctxAt s i ops r b w sl
      let need := lanesWith c.m (fun j => ownerOf (va c j) != 62)
      let tag := if need = 0 then 0 else s.nextId
      ∃ w' b', OnlyAccess s t r b b' ∧ b' = { b with warps := b.warps.set r.wi w', slice := b'.slice } ∧
        PassedOn w w' r.slot sl (lenOf i ops) ∧
        (need = 0 → t.pends = s.pends) ∧
        (need ≠ 0 → InFlight s t c .store .none .none need (mo c).order (mo c).scope) ∧
        SliceFrame b b' c.m n (va c) ∧
        (∀ j o, c.m.getLsbD j = true → sliceAt b (va c j) = some o →
          (∀ k o', j < k → c.m.getLsbD k = true → sliceAt b (va c k) = some o' → Apart n o o') →
          memRead b'.slice o n = bytesOfNat n (x c j).toNat) ∧
        (∀ j, c.m.getLsbD j = true → weak c j = true → ∃ e ∈ (t.core b.core).bank (bankOf (vlineOf (va c j))),
          e.line = vlineOf (va c j) ∧ piece c tag j ∈ e.pieces) ∧
        (∀ k, ∀ e ∈ (t.core b.core).bank k, ∀ p ∈ e.pieces, (∃ e0 ∈ (s.core b.core).bank k, e0.line = e.line ∧ p ∈ e0.pieces) ∨
          ∃ j, c.m.getLsbD j = true ∧ weak c j = true ∧ e.line = vlineOf (va c j) ∧ p = piece c tag j) ∧
        (∀ l ∈ (t.core b.core).l1, ∃ l0 ∈ (s.core b.core).l1, l0.vline = l.vline ∧
          ((∀ j, c.m.getLsbD j = true → vlineOf (va c j) ≠ l.vline) → l0 = l)) ∧
        Sent s t (lanesWith c.m (strong c)) (fun q => q.isOf c tag .store (mo c) hint n (va c q.lane) ∧ q.stage = .toOwner ∧
          q.data = x c q.lane))

/-- A read-modify-write that nothing holds back. A lane outside the slice has a request that carries the operation, the operand and, for
cas, the new value; a scratchpad lane is done in the bank (R135): its bytes take the new value, and where a value returns the request is
answered with the old one. `ret`: the old value goes to `d`, empty until it arrives. -/
def Updates (i : Instr) (ops : Ops) (sh : Shape) (op : RmwOp) (d : Opd) (ret : Bool) (data : Opd) (n : Nat) (mo : Ctx → MemOrd)
    (va : Ctx → Nat → DWord) : Prop :=
  let x (c : Ctx) (y : Opd) (j : Nat) : DWord := (readN c.blk c.warp c.ref.wi y (bytesWords n) j).setWidth 64
  let new (c : Ctx) (j : Nat) : DWord := if op = .cas then x c d j else 0
  let back : Bool := ret && d != .zero
  let kind : ReqKind := if ret then .rmw op.num else .red op.num
  Does i ops sh (fun s r b w sl => let c := ctxAt s i ops r b w sl
      c.m ≠ 0 ∧ AccessFree s c (mo c) true (fun a => laneCodes s b a n true true w.priv) (va c) (va c) ∧ SlotsFree s c (va c))
    (fun s t r b w sl => let c := ctxAt s i ops r b w sl
      let far := lanesWith c.m (fun j => ownerOf (va c j) != 62)
      let tag := if back = true ∨ far ≠ 0 then s.nextId else 0
      ∃ w' b' fl, OnlyAccess s t r b b' ∧ b' = { b with warps := b.warps.set r.wi w', slice := b'.slice } ∧
        (back = true → Arriving d (bytesWords n) fl w w' r sl (lenOf i ops)) ∧
        (back = false → PassedOn (w.setFlags fl) w' r.slot sl (lenOf i ops)) ∧
        ((far = c.m ∨ op ≠ .fadd) → fl = 0) ∧ (t.core b.core).wb = (s.core b.core).wb ∧
        (∀ l ∈ (t.core b.core).l1, l ∈ (s.core b.core).l1) ∧
        (back = false → far = 0 → t.pends = s.pends) ∧
        (back = true ∨ far ≠ 0 → InFlight s t c (if back then .load n false else .store) (if back then dstOf d (bytesWords n) else .none)
          .none (if back then c.m else far) (mo c).order (mo c).scope) ∧
        SliceFrame b b' c.m n (va c) ∧
        (∀ j o, c.m.getLsbD j = true → sliceAt b (va c j) = some o →
          (∀ k o', k ≠ j → c.m.getLsbD k = true → sliceAt b (va c k) = some o' → Apart n o o') →
          memRead b'.slice o n = bytesOfNat n
            (rmwNew op n (w.csr.fpmode.getLsbD 8) (BitVec.ofNat 64 (sliceNat b o n)) (x c data j) (new c j)).1.toNat) ∧
        Sent s t (if back then c.m else far) (fun q => q.isOf c tag kind (mo c) 0 n (va c q.lane) ∧
          (ownerOf (va c q.lane) ≠ 62 → q.stage = .toOwner ∧ q.data = (new c q.lane).setWidth 128 ∧ q.cmp = x c data q.lane) ∧
          (∀ o, sliceAt b (va c q.lane) = some o → q.stage = .answered ∧
            ((∀ k o', k < q.lane → c.m.getLsbD k = true → sliceAt b (va c k) = some o' → Apart n o o') →
              q.value = BitVec.ofNat 128 (sliceNat b o n)))))

/-- The path in slot `k` waits, from address `pc`, for `wt`; the rest of the warp is as in `w` but for the registers `rs` marked empty. -/
structure Parked (w w' : Warp) (k : Nat) (sl : Slot) (pc : DWord) (wt : Wait) (rs : List Reg) (len : Nat) : Prop where
  path : ∃ sl', w'.slots[k]? = some sl' ∧ sl'.live = sl.live ∧ sl'.wait = wt ∧ sl'.path = { sl.path with pc := pc } ∧
    sl'.reach = (if reachCount sl.reach = 0 then sl.reach else reachNext sl.reach) ∧ sl'.susp = sl.susp ∧ sl'.ordPfx = none
  other : ∀ j, j ≠ k → w'.slots[j]? = (w.slots[j]?).map Slot.older
  empty : ∀ y, w'.isEmpty y = (w.isEmpty y || rs.contains y)
  rest : w' = { w with slots := w'.slots, l := w'.l, empty := w'.empty, rotation := w.rotation + 1, progress := w.progress + len, lastSlot := k,
                       freshLanes := w.freshLanes &&& ~~~sl.path.mask }

/-- The instruction of the path in slot `k` has not issued: the path stands at `pc` and waits for `wt`, and nothing else of the warp
changed. -/
structure Unissued (w w' : Warp) (k : Nat) (sl : Slot) (pc : DWord) (wt : Wait) : Prop where
  path : w'.slots[k]? = some { sl with path := { sl.path with pc := pc }, wait := wt, ordPfx := none }
  other : ∀ j, j ≠ k → w'.slots[j]? = w.slots[j]?
  rest : w' = { w with slots := w'.slots }

/-- Of a core only the performance counters and the sets of its issue slots changed: a path that waits long gives its warp's place to a
Ready one (R38). -/
def CoresOnlyTurned (s t : State) : Prop := ∀ ck, { t.core ck with perfs := [], issue := [] } = { s.core ck with perfs := [], issue := [] }

/-- `waitv` that nothing holds back: the destination is empty, one instruction in flight keeps the comparands, a strong read of each
active lane is on its way or answered by the slice, and the path waits (R394). -/
def WaitsOnWord (i : Instr) (ops : Ops) (sh : Shape) (d : Opd) (cond n : Nat) (data : Opd) (mo : Ctx → MemOrd) (va : Ctx → Nat → DWord) : Prop :=
  Does i ops sh (fun s r b w sl => let c := ctxAt s i ops r b w sl
      c.m ≠ 0 ∧ AccessFree s c (mo c) true (fun a => laneCodes s b a n false true w.priv) (va c) (va c) ∧ SlotsFree s c (va c))
    (fun s t r b w sl => let c := ctxAt s i ops r b w sl
      ∃ w', t.block? r.bid = some { b with warps := b.warps.set r.wi w' } ∧ (∀ bid, bid ≠ r.bid → t.block? bid = s.block? bid) ∧
        CoresOnlyTurned s t ∧
        t = { s with blocks := t.blocks, cores := t.cores, freeCtr := t.freeCtr, pends := t.pends, reqs := t.reqs, nextId := t.nextId } ∧
        Parked w w' r.slot sl (faultPc sl) (.waitv s.nextId) (regsOf d (bytesWords n)) (lenOf i ops) ∧
        InFlight s t c (.waitv cond n) (dstOf d (bytesWords n)) .none c.m (mo c).order (mo c).scope ∧
        (∃ p ∈ t.pends, p.tag = s.nextId ∧ ∀ j, c.m.getLsbD j = true →
          p.aux.get? j = some ((readN b c.warp r.wi data (bytesWords n) j).setWidth 64) ∧ p.aux.get? (32 + j) = some (va c j)) ∧
        Sent s t c.m (fun q => q.isOf c s.nextId .load (.default true) 0 n (va c q.lane) ∧
          (∀ o, sliceAt b (va c q.lane) = some o → q.stage = .answered ∧ q.value = BitVec.ofNat 128 (sliceNat b o n)) ∧
          (ownerOf (va c q.lane) ≠ 62 → q.stage = .toOwner)))

/-- The precise codes of an ordinary access of `n` bytes, and of a scratchpad form. -/
def plainCodes (n : Nat) (write : Bool) (s : State) (b : Block) (w : Warp) (a : DWord) : List (BitVec 8) :=
  laneCodes s b a n write true w.priv
def bankCodes (n : Nat) (write : Bool) (s : State) (b : Block) (_ : Warp) (a : DWord) : List (BitVec 8) := sliceCodes s b a n write

/-- Lane addresses by format (R377). -/
def vaC (f : FmtC) (c : Ctx) (j : Nat) : DWord := eaOf c (opd9 f.base) (offC f) j
def vaL (f : F32) (c : Ctx) (j : Nat) : DWord := eaOf c (opd7 f.a) (offL f) j
def vaL0 (f : F32) (c : Ctx) (j : Nat) : DWord := eaOf c (opd7 f.a) 0 j

/-! ### References -/

/-- The warp after an issue that leaves registers `rs` empty; no other register, predicate or special register changed. -/
structure Emptied (rs : List Reg) (w w' : Warp) (r : PathRef) (sl : Slot) (len : Nat) : Prop where
  on : WentOn w w' r.slot sl len
  empty : ∀ y, w'.isEmpty y = (w.isEmpty y || rs.contains y)
  regs : ∀ y i, w'.regLane y i = w.regLane y i
  preds : ∀ q, w'.pReg q = w.pReg q
  csr : w'.csr = w.csr

/-- The accesses of a reference instruction meet no precise fault (R397) and wait for nothing. -/
def RefFree (s : State) (c : Ctx) (mo : MemOrd) (reads : Bool) (base idx : Opd) (off : DWord) (n : Nat) (write : Bool) : Prop :=
  (∀ j, c.m.getLsbD j = true → refCodes s c.blk (read64 c.blk c.warp c.ref.wi base j) (refOff c idx off j) n write = []) ∧
  memWaits c s mo reads (refEa c base idx off) = false ∧ slotsTaken s c.blk.core = false

/-- A reference access that nothing holds back: each active lane has a request for its field, with the reference's address as object, the
data and the comparand; the destinations, if any, are empty and one instruction is in flight for them. -/
def Refers (i : Instr) (ops : Ops) (sh : Shape) (kind : ReqKind) (pk : PendKind) (d d2 : Opd) (dn : Nat) (base idx : Opd) (off : DWord)
    (n : Nat) (write : Bool) (mo : MemOrd) (data cmp : Ctx → Nat → DWord) : Prop :=
  Does i ops sh (fun s r b w sl => let c := ctxAt s i ops r b w sl
      c.m ≠ 0 ∧ RefFree s c mo kind.reads base idx off n write)
    (fun s t r b w sl => let c := ctxAt s i ops r b w sl
      ∃ w', OnlyAccess s t r b { b with warps := b.warps.set r.wi w' } ∧
        (t.core b.core).wb = (s.core b.core).wb ∧ (∀ l ∈ (t.core b.core).l1, l ∈ (s.core b.core).l1) ∧
        (if pk = .store then PassedOn w w' r.slot sl 8 else Emptied (regsOf d dn ++ regsOf d2 2) w w' r sl 8) ∧
        InFlight s t c pk (dstOf d dn) (dstOf d2 2) c.m mo.order mo.scope ∧
        Sent s t c.m (fun q => q.isOf c s.nextId kind mo 0 n (refEa c base idx off q.lane) ∧ q.stage = .toOwner ∧
          q.obj = refAddr (read64 b c.warp r.wi base q.lane) ∧ q.data = (data c q.lane).setWidth 128 ∧ q.cmp = cmp c q.lane))

/-- Nothing but the issuing warp, the instructions and requests in flight and their numbers changed. -/
structure OnlyRequests (s t : State) (r : PathRef) (b : Block) (w' : Warp) : Prop where
  block : t.block? r.bid = some { b with warps := b.warps.set r.wi w' }
  others : ∀ bid, bid ≠ r.bid → t.block? bid = s.block? bid
  cores : ∀ ck, { t.core ck with perfs := [] } = { s.core ck with perfs := [] }
  rest : t = { s with blocks := t.blocks, cores := t.cores, freeCtr := t.freeCtr, pends := t.pends, reqs := t.reqs, nextId := t.nextId }
  kept : ∃ new, t.reqs = s.reqs ++ new

/-! ### The matrix array and the engines -/

/-- As `Does`, for a shape that depends on what the issuing block declares. -/
def DoesIn (i : Instr) (ops : Ops) (sh : State → Shape) (pre : State → PathRef → Block → Warp → Slot → Prop)
    (post : State → State → PathRef → Block → Warp → Slot → Prop) : Prop :=
  ∀ s r b w sl, Issuing s r b w sl → s.ops = ops → Unhindered (sh s) b w sl → pre s r b w sl →
    ∃ t, exec i s = .next t ∧ post s t r b w sl

/-- The four or eight k registers from the one an operand names. -/
def kGroup (w : Warp) (x : Opd) (n : Nat) : List Word :=
  match x with
  | .k q => (List.range n).map (fun j => w.kReg (q + j))
  | _ => []

/-- Of the machine only the issuing block's warp `r.wi`, its core's matrix queue and range locks, its bay, performance counters, and the
instructions in flight with their numbers changed. -/
structure OnlyUnit (s t : State) (r : PathRef) (b : Block) (w' : Warp) : Prop where
  block : t.block? r.bid = some { b with warps := b.warps.set r.wi w' }
  others : ∀ bid, bid ≠ r.bid → t.block? bid = s.block? bid
  core : { t.core b.core with perfs := [], matq := [], locks := [] } = { s.core b.core with perfs := [], matq := [], locks := [] }
  cores : ∀ ck, ck ≠ b.core → { t.core ck with perfs := [] } = { s.core ck with perfs := [] }
  bays : ∀ bk, bk ≠ bkOfCk b.core → t.bay bk = s.bay bk
  rest : t = { s with blocks := t.blocks, cores := t.cores, freeCtr := t.freeCtr, bays := t.bays, pends := t.pends, nextId := t.nextId }

/-- The matrix array's queue takes an operation of this warp: no neighbour holds the array, fewer than 16 operations of the block have
not begun, and `n` range-lock entries are free, none of them owed to operations of a resumed block (R23, R220, R411, R68). -/
def ArrayRoom (s : State) (r : PathRef) (b : Block) (n : Nat) : Prop :=
  ((s.core b.core).reservedBy = none ∨ (s.core b.core).reservedBy = some r.bid) ∧ (s.core b.core).waitingOps r.bid < 16 ∧
  n ≤ (s.core b.core).freeLocks.length ∧ ((s.core b.core).owed = [] ∨ (s.core b.core).freeLocks = [])

/-- A matrix operation that nothing holds back is at the end of its core's matrix queue, with the operands read at issue, its spans in the
lowest free range-lock entries, and open for the warp's next batch. -/
structure Enqueued (s t : State) (c : Ctx) (w1 w' : Warp) (kops : List Word) (pair : List DWord) (tag : Nat) (locks : List RLock) : Prop where
  opened : w' = { w1 with openOps := w1.openOps ++ [s.nextId], engCmds := w'.engCmds }
  queue : ∃ m, (t.core c.blk.core).matq = (s.core c.blk.core).matq ++ [m] ∧ m.op = s.nextId ∧ m.tag = tag ∧ m.bid = c.ref.bid ∧
    m.wi = c.ref.wi ∧ m.enc = c.enc ∧ m.kops = kops ∧ m.pair = pair ∧ m.state = 0 ∧ m.row = 0 ∧ m.secure = c.warp.secure
  locks : (t.core c.blk.core).locks = ((s.core c.blk.core).claim locks).locks

/-- A matrix operation without a destination enters the queue; the path goes on. -/
def Enqueues (i : Instr) (ops : Ops) (sh : State → Shape) (free : Ctx → Prop) (kops : Ctx → List Word) (pair : Ctx → List DWord)
    (locks : Ctx → Nat → List RLock) : Prop :=
  DoesIn i ops sh (fun s r b w sl => free (ctxAt s i ops r b w sl) ∧ ArrayRoom s r b (locks (ctxAt s i ops r b w sl) s.nextId).length)
    (fun s t r b w sl => let c := ctxAt s i ops r b w sl
      ∃ w1 w', OnlyUnit s t r b w' ∧ PassedOn w w1 r.slot sl 8 ∧ w'.engCmds = w.engCmds ∧
        Enqueued s t c w1 w' (kops c) (pair c) 0 (locks c s.nextId) ∧ t.bays = s.bays ∧ t.pends = s.pends ∧ t.nextId = s.nextId + 1)

/-- The bay's engine queues took one command at the end: the Enlarger's for kind 0, the Fixer's otherwise (R222). -/
def EngineTook (s t : State) (bk : Nat) (cmd : EngCmd) : Prop :=
  t.bay bk = if cmd.kind = 0 then { s.bay bk with enl := (s.bay bk).enl ++ [cmd] } else { s.bay bk with fix := (s.bay bk).fix ++ [cmd] }

/-! ### Launch, synchronisation and system instructions -/

/-- A uniform result that arrives later: `d` of `n` words is empty, and one instruction in flight holds its value; `f` is what the issue
does to the warp's control registers. -/
def ArrivesUni (s t : State) (r : PathRef) (b : Block) (w : Warp) (sl : Slot) (d : Opd) (n : Nat) (val : BitVec 128) (f : Csr → Csr) : Prop :=
  ∃ w1 p, OnlyWarpPend s t r b { w1 with csr := f w.csr } ∧ Emptied (regsOf d n) w w1 r sl 8 ∧ t.pends = s.pends ++ [p] ∧
    p.tag = s.nextId ∧ p.bid = r.bid ∧ p.wi = r.wi ∧ p.kind = .reg ∧ p.dst = dstOf d n ∧ p.need = 1 ∧ p.vals.get 0 0 = val

/-- A 64-bit register read in halves (R84): the low half latches the high one, the high half reads the latch if there is one. -/
def latched (x : DWord) (high : Bool) (latch : Option Word) (set : Option Word → Csr → Csr) : Word × (Csr → Csr) :=
  if high then (latch.getD ((x >>> 32).setWidth 32), id) else (x.setWidth 32, set (some ((x >>> 32).setWidth 32)))

/-- What a warp reads at register number `n` below 0x40, but 0x10, and what the read does to its latches (R82, R84-R94). -/
def registerAt (s : State) (b : Block) (w : Warp) (n : Nat) : Word × (Csr → Csr) :=
  let wf := s.wafer (waferOf (dkOfCk b.core))
  let world := worldNum w.secure
  let k := w.csr
  match n with
  | 0x00 => (setBit k.status 4 wf.reduced, id)
  | 0x01 => (k.fpmode, id)
  | 0x02 => (k.faultcode, id)
  | 0x03 => (k.faultlanes, id)
  | 0x04 => (k.faultpc.setWidth 32, id)
  | 0x05 => ((k.faultpc >>> 32).setWidth 32, id)
  | 0x06 => (k.faultaddr.setWidth 32, id)
  | 0x07 => ((k.faultaddr >>> 32).setWidth 32, id)
  | 0x08 => (k.rowprog, id)
  | 0x09 => (k.batchIssued.setWidth 32, id)
  | 0x0A => (k.batchDone.setWidth 32, id)
  | 0x0B => (BitVec.ofNat 32 w.logCount, id)
  | 0x0C => ((if b.cancel then 1 else 0) ||| (if b.lrec.kill then 2 else 0), id)
  | 0x0D => (BitVec.ofNat 32 (b.ilockedBytes + (if b.ilockShort then 65536 else 0)), id)
  | 0x0E => (k.faultem, id)
  | 0x12 => latched (wf.heapBase.get 0 world) false k.heapBaseLatch (fun l k => { k with heapBaseLatch := l })
  | 0x13 => latched (wf.heapBase.get 0 world) true k.heapBaseLatch (fun l k => { k with heapBaseLatch := l })
  | 0x14 => latched (wf.heapLimit.get 0 world) false k.heapLimitLatch (fun l k => { k with heapLimitLatch := l })
  | 0x15 => latched (wf.heapLimit.get 0 world) true k.heapLimitLatch (fun l k => { k with heapLimitLatch := l })
  | 0x18 => latched (BitVec.ofNat 64 s.clock + (s.core b.core).cycleBase) false k.cycleLatch (fun l k => { k with cycleLatch := l })
  | 0x19 => latched (BitVec.ofNat 64 s.clock + (s.core b.core).cycleBase) true k.cycleLatch (fun l k => { k with cycleLatch := l })
  | 0x1C => (if (s.core b.core).schedmode then 1 else 0, id)
  | _ => (0, id)

/-- What a write of `x` to warp register `n` leaves (R82, R87, R89, R304). -/
def registerPut (n : Nat) (x : Word) (w : Warp) : Warp :=
  let unkept (sl : Slot) : Slot := { sl with susp := sl.susp &&& 0x7FFF }
  match n with
  | 0x01 => { w with csr := { w.csr with fpmode := x &&& 0x7FF } }
  | 0x02 => { w with csr := { w.csr with faultcode := x &&& 0x3FF } }
  | 0x04 => { w with csr := { w.csr with faultpc := (w.csr.faultpc >>> 32).setWidth 32 ++ x }, slots := w.slots.map unkept }
  | 0x05 => { w with csr := { w.csr with faultpc := x ++ w.csr.faultpc.setWidth 32 }, slots := w.slots.map unkept }
  | 0x0E => { w with csr := { w.csr with faultem := x } }
  | _ => w

/-- The path in slot `r.slot` waits for `wt`, Parked or gone on, with nothing of the machine changed but this warp, the counters and
sets of the cores, the instructions in flight and the numbers. -/
structure OnlyWaits (s t : State) (r : PathRef) (b : Block) (w' : Warp) : Prop where
  block : t.block? r.bid = some { b with warps := b.warps.set r.wi w' }
  others : ∀ bid, bid ≠ r.bid → t.block? bid = s.block? bid
  cores : CoresOnlyTurned s t
  rest : t = { s with blocks := t.blocks, cores := t.cores, freeCtr := t.freeCtr, pends := t.pends, unitOps := t.unitOps, nextId := t.nextId }

/-! ### Events -/

/-- Event `i`, where `pre` holds of the state and of the event's arguments, takes place: `post` holds of the state after. -/
def Happens (i : Instr) (pre : State → EvArgs → Prop) (post : State → State → EvArgs → Prop) : Prop :=
  ∀ s a, s.ops = .event a → pre s a → ∃ t, exec i s = .next t ∧ post s t a

/-- Block, warp and slot that an event names. -/
structure Names (s : State) (r : PathRef) (b : Block) (w : Warp) (sl : Slot) : Prop where
  block : s.block? r.bid = some b
  warp : b.warps[r.wi]? = some w
  slot : w.slots[r.slot]? = some sl

/-- Entry `i` of a warp's stack is its lowest path entry that does not wait at its join; it holds `p`. -/
def LowestFree (w : Warp) (i : Nat) (p : PathState) : Prop :=
  w.spill[i]? = some (.path p false) ∧ ∀ i' < i, ∀ p', w.spill[i']? ≠ some (.path p' false)

/-- The path of slot `k` changed places with entry `i` of the stack: it lies on top, and the slot holds the entry's path as its memory
image gives it; nothing else of the warp changed but l and the rotation count (R75, R213, R216, R217). -/
def PathSwapped (s t : State) (r : PathRef) (b : Block) (w : Warp) (sl : Slot) (i : Nat) (p : PathState) (rot : Nat) : Prop :=
  (∀ bid, bid ≠ r.bid → t.block? bid = s.block? bid) ∧
  ∃ w' q, t.warp? r.bid r.wi = some w' ∧
    w' = { w with slots := w'.slots, spill := w.spill.eraseIdx i ++ [.path sl.path (sl.wait == .join)], rotation := rot, l := w'.l } ∧
    w'.slots[r.slot]? = some { Slot.empty with live := true, path := q } ∧ (∀ j, j ≠ r.slot → w'.slots[j]? = w.slots[j]?) ∧
    (∀ o, sliceAt b (spillAddr w i) = some o → memRead b.slice o 16 = (SpillEnt.path p false).bytes →
      (∀ y, p.rpc = some y → (y - p.pc).toInt % 2 = 0 ∧ -2 ^ 32 ≤ (y - p.pc).toInt ∧ (y - p.pc).toInt < 2 ^ 32) → q = p)

/-- Lane `i` of a kept destination holds a value. -/
def HoldsValue (w : Warp) (d : Dst) (i : Nat) (x : BitVec 128) : Prop :=
  match d with
  | .none => True
  | .pred q => (w.pReg q).getLsbD i = x.getLsbD 0
  | .regs (.h q) _ => w.hLane q i = x.setWidth 64
  | .regs (.v q) n => ∀ j < n, w.vLane (q + j) i = x.extractLsb' (32 * j) 32
  | .regs (.o q) n => ∀ j < n, w.oLane (q + j) i = x.extractLsb' (32 * j) 32
  | .regs (.k q) n => ∀ j < n, w.kReg (q + j) = x.extractLsb' (32 * j) 32

/-- Whether a kept destination is a k register, whose value is that of lane 0. -/
def Dst.uniform : Dst → Bool
  | .regs (.k _) _ => true
  | _ => false

/-- Values `f` of lanes `m` of an instruction in flight reached its warp (R79): the lanes of the destination hold them and the others what
they held; with no lane owing any more the destinations are full and the instruction is no longer in flight, else they stay empty. Of the
warp only the log may have changed besides, and of the machine only what `OnlyWarp` and the instruction in flight's core show. -/
def Delivered (s t : State) (p : Pend) (b : Block) (w : Warp) (m : Word) (f : Nat → BitVec 128) : Prop :=
  let left := p.need &&& ~~~m
  (∀ bid, bid ≠ p.bid → t.block? bid = s.block? bid) ∧
  ∃ w', t.block? p.bid = some { b with warps := b.warps.set p.wi w' } ∧
    w' = { w with v := w'.v, o := w'.o, k := w'.k, h := w'.h, p := w'.p, empty := w'.empty, log := w'.log } ∧
    (∀ i < 32, (m &&& p.need).getLsbD i = true → HoldsValue w' p.dst i (f (if p.dst.uniform then 0 else i))) ∧
    (∀ i < 32, (m &&& p.need).getLsbD i = false → p.dst.uniform = false →
      (∀ y, w'.regLane y i = w.regLane y i) ∧ ∀ q, (w'.pReg q).getLsbD i = (w.pReg q).getLsbD i) ∧
    (∀ y, y ∉ p.dst.regs' → ∀ i < 32, w'.regLane y i = w.regLane y i) ∧
    (∀ q, p.dst ≠ .pred q → w'.pReg q = w.pReg q) ∧
    (∀ y, w'.isEmpty y = (w.isEmpty y && !(left == 0 && (p.dst.regs' ++ p.dst2.regs').contains y))) ∧
    t.pends = if left = 0 then s.pends.filter (fun x => x.tag != p.tag)
      else s.pends.map (fun x => if x.tag = p.tag then { x with need := left } else x)

/-- The event's request, standing at stage `st`. -/
def AtStage (s : State) (a : EvArgs) (r : Req) (st : Stage) : Prop := s.req? a.k = some r ∧ r.stage = st

/-- A request, performed next at its home in state `s1`, meets neither a lock of its page nor a request before it, needs no recall, is
refused nothing, and is performed in one (R51, R70, R125, R128, R129, R144, R156, R159). -/
structure AtHome (s s1 : State) (a : EvArgs) (r : Req) : Prop where
  stage : AtStage s a r .toHome
  free : lockHolds s r = false
  turn : behindForward s r = false
  first : behindOthers s r = false
  whole : r.splits = false ∧ r.half = none
  alone : prepHome s r = .ready
  count : s1 = countHot s r.pa r.core
  admitted : homeFault s1 r = none

/-- Of memory only the `n` bytes from `x` changed, to `bs`. -/
def OnlyBytes (s t : State) (x : Nat) (bs : List Byte) : Prop :=
  memRead t.mem x bs.length = bs ∧ ∀ y, y < x ∨ x + bs.length ≤ y → memGet t.mem y = memGet s.mem y

/-- The request of an event stands at a new stage, all else of it unchanged. -/
def NowAt (t : State) (a : EvArgs) (r : Req) (st : Stage) : Prop := t.req? a.k = some { r with stage := st }

/-- The request of an event is answered with value `v`. -/
def NowAnswered (t : State) (a : EvArgs) (v : BitVec 128) : Prop := ∃ q, t.req? a.k = some q ∧ q.stage = .answered ∧ q.value = v

/-- Of memory only the sectors of line `pl` that `dirty` names changed, to those of the image `bs`. -/
def OnlySectors (s t : State) (pl : Nat) (dirty : BitVec 4) (bs : List Byte) : Prop :=
  (∀ i < 4, dirty.getLsbD i = true → memRead t.mem (pl * 128 + 32 * i) 32 = lineSlice bs (32 * i) 32) ∧
  ∀ y, (y / 128 ≠ pl ∨ dirty.getLsbD (y % 128 / 32) = false) → memGet t.mem y = memGet s.mem y

/-- A domain counter advanced by 1 and stays at its greatest value (R265). -/
def CountedUp (s t : State) (dk i : Nat) : Prop :=
  (t.domain dk).counters.get 0 i = if (s.domain dk).counters.get 0 i = BitVec.allOnes 32 then BitVec.allOnes 32 else (s.domain dk).counters.get 0 i + 1

/-- Of the tiles of a block only row `i` of tile `k` changed, to `x`. -/
def OnlyRow (b b' : Block) (k i : Nat) (x : Nat → Word) : Prop :=
  (∀ j < 64, b'.elem k i j = x j) ∧
  ∀ k' i' j', i' < 64 → j' < 64 → (k' ≠ k ∨ i' ≠ i) → b'.elem k' i' j' = b.elem k' i' j'

/-- Of a slice only the bytes from `x` changed, to `bs`. -/
def OnlySlice (b b' : Block) (x : Nat) (bs : List Byte) : Prop :=
  memRead b'.slice x bs.length = bs ∧ ∀ y, y < x ∨ x + bs.length ≤ y → memGet b'.slice y = memGet b.slice y

/-- An operation of a core's array queue stands as `m'` after its turn, or left the queue. -/
def QueuedAs (s t : State) (ck : Nat) (m : MatOp) (m' : Option MatOp) : Prop :=
  (t.core ck).matq = match m' with
    | some x => (s.core ck).matq.map (fun y => if y = m then x else y)
    | none => (s.core ck).matq.filter (fun y => y != m)

/-- No range-lock entry of a core belongs to an operation. -/
def Unlocked (t : State) (ck op : Nat) : Prop := ∀ e ∈ (t.core ck).locks, e.2.op ≠ op

/-- A waiting unit left its Arbor's queue and runs: one block of it on each core, in member order, its cores and its start noted and counted
(R21, R27, R206). -/
def UnitStarted (s t : State) (dk : Nat) (u : UnitQ) (cs : List Nat) : Prop :=
  u ∉ (t.domain dk).units ∧ ∃ g g', s.grid? u.gid = some g ∧ t.grid? u.gid = some g' ∧
    (g'.arbors.get .zero dk).started = (g.arbors.get .zero dk).started + g.lrec.gang ∧
    ∀ i ck, cs[i]? = some ck → ∃ b ∈ t.blocks, b.gid = u.gid ∧ b.linear = u.linear ∧ b.member = i ∧ b.core = ck ∧ b.home = dk ∧
      b.arrival = u.arrival ∧ b.phase = .running ∧ b.start = s.clock ∧ b.warps.length = g.lrec.warps

end Sys2Proof.Machine
end

