-- ==== Sys2Proof/Certificates/Slice0/Obligations.lean ====
section
/-!
DEFINITION. The statements for the provers: what the rules of the specification say the machine does, one Prop each. The vocabulary is
that of Sys2Proof/Safety.lean.
-/

open Sys2Proof Sys2Proof.Machine

/-- For every state whose memory list is in canonical form (addresses strictly rising, no entry equal to what an unlisted address reads as,
log 1), the state that a step answers has its memory in canonical form. The form is the model's own (log 1); that equal memories are equal
data is what it is for. -/
def Obligations.StepKeepsMemoryCanonical : Prop := ∀ s t : State, s.memOk → step s = .next t → t.memOk

/-- The state after reset has its memory in canonical form (log 1). -/
def Obligations.ResetMemoryCanonical : Prop := State.reset.memOk

/-- In every state at all, a step answers a next state: no fault and no refusal of the model ends a run. Faults of the specification are next
states (handler entry or fault record). -/
def Obligations.EveryStepAnswers : Prop := ∀ s : State, Answers s

/-- For every instruction of the code planes with operands in its row's format, every field at every value, decoding its bytes followed by any
bytes gives exactly that instruction and leaves exactly the bytes that follow. -/
def Obligations.DecodeEncode : Prop :=
  ∀ (x : Ins) (rest : List Byte), x.instr.row.1 ≠ .event → x.shaped = true →
    decode (codeBytes (encode x) ++ rest) = .ok (x, rest)

/-- When the agenda names an issue slot whose pick is path r, no prefix pair is open, the bytes at the path's pc decode to x and the path does
not wait for what x needs, and no breakpoint matches, the step is exec of x's row in the state that names the path and holds x's operands, the
slot having noted who issued, and then the exchanges of R38 and R347 that the issue brings about. The same holds of the idle choice when no fault
is due. Where the path waits, x runs in the state that notes no issue, and leaves the path in its wait. The second half of a prefix pair runs at
once. Bytes that decode to nothing raise ILLEGAL_OPCODE on the path. -/
def Obligations.StepRunsTheDecodedInstruction : Prop :=
  (∀ s ms ck isl r b w sl bs x rest, pairPath s = none → s.agenda = .issue ck isl :: ms →
    pickIssue { s with agenda := ms } ck isl = some r → waitOf { s with agenda := ms } r = none → brkHit { s with agenda := ms } r = false →
    s.block? r.bid = some b → b.warps[r.wi]? = some w → w.slots[r.slot]? = some sl →
    pathBytes (noteIssue { s with agenda := ms } ck isl r) b w sl.path.pc = .ok bs → decode bs = .ok (x, rest) →
    step s = settleIssue { s with agenda := ms } r (exec x.instr ((noteIssue { s with agenda := ms } ck isl r).atPath r x.ops))) ∧
  (∀ s ck isl r b w sl bs x rest, pairPath s = none → s.agenda = [] → firstMove s (faultMoves s) = none →
    issueChoice s = some (ck, isl, r) → waitOf s r = none → brkHit s r = false →
    s.block? r.bid = some b → b.warps[r.wi]? = some w → w.slots[r.slot]? = some sl →
    pathBytes (noteIssue s ck isl r) b w sl.path.pc = .ok bs → decode bs = .ok (x, rest) →
    step s = settleIssue s r (exec x.instr ((noteIssue s ck isl r).atPath r x.ops))) ∧
  (∀ s ms ck isl r b w sl bs x rest wt u, pairPath s = none → s.agenda = .issue ck isl :: ms →
    pickIssue { s with agenda := ms } ck isl = some r → waitOf { s with agenda := ms } r = some wt →
    s.block? r.bid = some b → b.warps[r.wi]? = some w → w.slots[r.slot]? = some sl →
    pathBytes { s with agenda := ms } b w sl.path.pc = .ok bs → decode bs = .ok (x, rest) →
    exec x.instr (({ s with agenda := ms } : State).atPath r x.ops) = .next u → u.prefixed r = false →
    step s = settleIssue { s with agenda := ms } r (.next u)) ∧
  (∀ s r b w sl bs x rest, pairPath s = some r →
    s.block? r.bid = some b → b.warps[r.wi]? = some w → w.slots[r.slot]? = some sl →
    pathBytes s b w sl.path.pc = .ok bs → decode bs = .ok (x, rest) → step s = settleIssue s r (exec x.instr (s.atPath r x.ops))) ∧
  (∀ s ms ck isl r b w sl bs e, pairPath s = none → s.agenda = .issue ck isl :: ms →
    pickIssue { s with agenda := ms } ck isl = some r → waitOf { s with agenda := ms } r = none → brkHit { s with agenda := ms } r = false →
    s.block? r.bid = some b → b.warps[r.wi]? = some w → w.slots[r.slot]? = some sl →
    pathBytes (noteIssue { s with agenda := ms } ck isl r) b w sl.path.pc = .ok bs → decode bs = .error e →
    step s = settleIssue { s with agenda := ms } r (.next (takeFault (noteIssue { s with agenda := ms } ck isl r) r
      { code := codeIllegalOpcode, lanes := effMask w sl, addr := 0, pc := faultPc sl })))

/-- For each S16 and L32 integer, logic, shift, bit-count and move row, every operand form: on a path that nothing hinders it answers a next
state in which each active lane of the destination holds the operation's value (zero discards it), inactive lanes and every other
register, predicate and special register are as they were, l holds a 32-bit result in the same lanes, the path goes on after the
instruction with the loop end step, and nothing outside the warp but performance counters and free-value numbers changes. -/
def Obligations.ShortIntegerRowsComplete : Prop :=
  Row16 .s16AddI32 false (lopAdd tyI32) ∧
  Row16 .s16SubI32 false (lopSub tyI32) ∧
  Row16 .s16Mov false (lopMovi tyN32) ∧
  Row16 .s16AndB32 false (lopAnd tyN32) ∧
  Row16 .s16OrB32 false (lopOr tyN32) ∧
  Row16 .s16XorB32 false (lopXor tyN32) ∧
  Row16 .s16ShlB32 false (lopShl tyN32) ∧
  Row16 .s16ShrN32 false (lopShr tyN32) ∧
  Row16 .s16MinI32 false (lopMin tyI32) ∧
  Row16 .s16MaxI32 false (lopMax tyI32) ∧
  RowLaneDab .addI32L32 (lopAdd tyI32) ∧
  RowLaneDab .subI32L32 (lopSub tyI32) ∧
  RowLaneDab .mulLoI32L32 (lopMulLo tyI32) ∧
  RowLaneDab .mulHiI32L32 (lopMulHi tyI32) ∧
  RowLaneDab .mulHiN32L32 (lopMulHi tyN32) ∧
  RowLaneDab .minI32L32 (lopMin tyI32) ∧
  RowLaneDab .maxI32L32 (lopMax tyI32) ∧
  RowLaneDab .minN32L32 (lopMin tyN32) ∧
  RowLaneDab .maxN32L32 (lopMax tyN32) ∧
  RowLaneDab .andB32L32 (lopAnd tyN32) ∧
  RowLaneDab .orB32L32 (lopOr tyN32) ∧
  RowLaneDab .xorB32L32 (lopXor tyN32) ∧
  RowLaneDab .shlB32L32 (lopShl tyN32) ∧
  RowLaneDab .shrN32L32 (lopShr tyN32) ∧
  RowLaneDab .shrI32L32 (lopShr tyI32) ∧
  RowLaneDab .rotlB32L32 (lopRotl tyN32) ∧
  RowLaneDab .rotrB32L32 (lopRotr tyN32) ∧
  RowLaneDab .addSatI32L32 (lopAddSat tyI32) ∧
  RowLaneDab .subSatI32L32 (lopSubSat tyI32) ∧
  RowLaneDab .movL32 (lopMov tyN32) ∧
  RowLaneDab .absI32L32 (lopAbs tyI32) ∧
  RowLaneDab .negI32L32 (lopNeg tyI32) ∧
  RowLaneDab .notB32L32 (lopNot tyN32) ∧
  RowLaneDab .popcB32L32 (lopPopc tyN32) ∧
  RowLaneDab .clzB32L32 (lopClz tyN32) ∧
  RowLaneDab .ctzB32L32 (lopCtz tyN32) ∧
  RowLaneDab .brevB32L32 (lopBrev tyN32) ∧
  RowLaneDai .addI32ImmL32 (lopAdd tyI32) ∧
  RowLaneDai .mulLoI32ImmL32 (lopMulLo tyI32) ∧
  RowLaneDai .andB32ImmL32 (lopAnd tyN32) ∧
  RowLaneDai .orB32ImmL32 (lopOr tyN32) ∧
  RowLaneDai .xorB32ImmL32 (lopXor tyN32) ∧
  RowLaneDai .shlB32ImmL32 (lopShl tyN32) ∧
  RowLaneDai .shrN32ImmL32 (lopShr tyN32) ∧
  RowLaneDai .shrI32ImmL32 (lopShr tyI32) ∧
  RowLaneDai .minI32ImmL32 (lopMin tyI32) ∧
  RowLaneDai .maxI32ImmL32 (lopMax tyI32) ∧
  RowLaneDai .moviL32 (lopMovi tyN32)

/-- For each integer, logic, shift, bit-field, compare, select and move row of sub-formats A and B, for every type the row allows and every
source-lane modifier it takes: on a path that nothing hinders it answers a next state with the operation's value in each active lane of
the destination register or predicate, ISAT joined to FPMODE where a lane was limited, and everything else as it was. -/
def Obligations.LongFormIntegerRowsComplete : Prop :=
  RowA .add (fun f => some (lopAdd (intTy f.ty))) true ∧
  RowA .sub (fun f => some (lopSub (intTy f.ty))) true ∧
  RowA .mulLo (fun f => some (lopMulLo (intTy f.ty))) true ∧
  RowA .mulHi (fun f => some (lopMulHi (intTy f.ty))) true ∧
  RowA .madLo (fun f => some (lopMadLo (intTy f.ty))) true ∧
  RowA .madHi (fun f => some (lopMadHi (intTy f.ty))) true ∧
  RowA .mulFull (fun f => lopMulFull (intTy f.ty)) true ∧
  RowA .madFull (fun f => lopMadFull (intTy f.ty)) true ∧
  RowA .min (fun f => some (lopMin (intTy f.ty))) true ∧
  RowA .max (fun f => some (lopMax (intTy f.ty))) true ∧
  RowA .abs (fun f => signedOnly (intTy f.ty) (lopAbs (intTy f.ty))) false ∧
  RowA .neg (fun f => signedOnly (intTy f.ty) (lopNeg (intTy f.ty))) false ∧
  RowA .addSat (fun f => some (lopAddSat (intTy f.ty))) true ∧
  RowA .subSat (fun f => some (lopSubSat (intTy f.ty))) true ∧
  RowA .and (fun f => (bitTy f.ty).map lopAnd) true ∧
  RowA .or (fun f => (bitTy f.ty).map lopOr) true ∧
  RowA .xor (fun f => (bitTy f.ty).map lopXor) true ∧
  RowA .not (fun f => (bitTy f.ty).map lopNot) false ∧
  RowA .andn (fun f => (bitTy f.ty).map lopAndn) true ∧
  RowA .shl (fun f => (bitTy f.ty).map lopShl) true ∧
  RowA .rotl (fun f => (bitTy f.ty).map lopRotl) true ∧
  RowA .rotr (fun f => (bitTy f.ty).map lopRotr) true ∧
  RowA .bfi (fun f => (bitTy f.ty).map lopBfi) true ∧
  RowA .popc (fun f => (bitTy f.ty).map lopPopc) false ∧
  RowA .clz (fun f => (bitTy f.ty).map lopClz) false ∧
  RowA .ctz (fun f => (bitTy f.ty).map lopCtz) false ∧
  RowA .brev (fun f => (bitTy f.ty).map lopBrev) false ∧
  RowA .shr (fun f => some (lopShr (intTy f.ty))) true ∧
  RowA .bfe (fun f => some (lopBfe (intTy f.ty))) true ∧
  RowA .cmpEq (fun f => some (lopCmpEq (intTy f.ty))) true ∧
  RowA .cmpNe (fun f => some (lopCmpNe (intTy f.ty))) true ∧
  RowA .cmpLt (fun f => some (lopCmpLt (intTy f.ty))) true ∧
  RowA .cmpLe (fun f => some (lopCmpLe (intTy f.ty))) true ∧
  RowA .cmpGt (fun f => some (lopCmpGt (intTy f.ty))) true ∧
  RowA .cmpGe (fun f => some (lopCmpGe (intTy f.ty))) true ∧
  RowA .sel (fun f => (bitTy f.ty).map lopSel) true ∧
  RowA .mov (fun f => (bitTy f.ty).map lopMov) false ∧
  RowA .lea (fun f => (bitTy f.ty).bind lopLea) true ∧
  RowB .addImm (fun f => some (lopAdd (intTy f.ty))) ∧
  RowB .mulLoImm (fun f => some (lopMulLo (intTy f.ty))) ∧
  RowB .minImm (fun f => some (lopMin (intTy f.ty))) ∧
  RowB .maxImm (fun f => some (lopMax (intTy f.ty))) ∧
  RowB .shrImm (fun f => some (lopShr (intTy f.ty))) ∧
  RowB .andImm (fun f => (bitTy f.ty).map lopAnd) ∧
  RowB .orImm (fun f => (bitTy f.ty).map lopOr) ∧
  RowB .xorImm (fun f => (bitTy f.ty).map lopXor) ∧
  RowB .shlImm (fun f => (bitTy f.ty).map lopShl) ∧
  RowB .movi (fun f => (bitTy f.ty).map lopMovi) ∧
  RowB .leaImm (fun f => (bitTy f.ty).bind lopLeaImm)

/-- For each S16, L32 and L64 floating-point row, every type and every rounding code 0-4 it takes: on a path that nothing hinders it answers a
next state with the rounded value in each active lane, the flags of all active lanes joined to FPMODE, and everything else as it was. -/
def Obligations.FloatRowsComplete : Prop :=
  Row16 .s16FaddF32 true (lopFadd tyF32 rmodeReg) ∧
  Row16 .s16FsubF32 true (lopFsub tyF32 rmodeReg) ∧
  Row16 .s16FmulF32 true (lopFmul tyF32 rmodeReg) ∧
  RowAcc16 .s16FmacF32 (lopFfma tyF32 rmodeReg) ∧
  Row16 .s16FminF32 true (lopFmin tyF32) ∧
  Row16 .s16FmaxF32 true (lopFmax tyF32) ∧
  RowLaneDab .faddF32L32 (lopFadd tyF32 rmodeReg) ∧
  RowLaneDab .fsubF32L32 (lopFsub tyF32 rmodeReg) ∧
  RowLaneDab .fmulF32L32 (lopFmul tyF32 rmodeReg) ∧
  RowLaneDab .fminF32L32 (lopFmin tyF32) ∧
  RowLaneDab .fmaxF32L32 (lopFmax tyF32) ∧
  RowAccL32 .fmacF32L32 (lopFfma tyF32 rmodeReg) ∧
  RowR .fadd (fun f => (floatTy f.ty).map (fun t => lopFadd t (rmodeFld f.rnd))) true ∧
  RowR .fsub (fun f => (floatTy f.ty).map (fun t => lopFsub t (rmodeFld f.rnd))) true ∧
  RowR .fmul (fun f => (floatTy f.ty).map (fun t => lopFmul t (rmodeFld f.rnd))) true ∧
  RowR .ffma (fun f => (floatTy f.ty).map (fun t => lopFfma t (rmodeFld f.rnd))) true ∧
  RowA .fmin (fun f => (floatTy f.ty).map lopFmin) true ∧
  RowA .fmax (fun f => (floatTy f.ty).map lopFmax) true ∧
  RowA .fabs (fun f => (floatTy f.ty).map lopFabs) false ∧
  RowA .fneg (fun f => (floatTy f.ty).map lopFneg) false ∧
  RowA .fcmpEq (fun f => (scalarTy f.ty).map lopFcmpEq) true ∧
  RowA .fcmpNe (fun f => (scalarTy f.ty).map lopFcmpNe) true ∧
  RowA .fcmpLt (fun f => (scalarTy f.ty).map lopFcmpLt) true ∧
  RowA .fcmpLe (fun f => (scalarTy f.ty).map lopFcmpLe) true ∧
  RowA .fcmpGt (fun f => (scalarTy f.ty).map lopFcmpGt) true ∧
  RowA .fcmpGe (fun f => (scalarTy f.ty).map lopFcmpGe) true ∧
  RowA .fcmpUn (fun f => (scalarTy f.ty).map lopFcmpUn) true ∧
  RowA .fsel (fun f => (floatTy f.ty).map lopFsel) true ∧
  RowA .fclass (fun f => (scalarTy f.ty).map lopFclass) false ∧
  RowA .frcp (fun f => (scalarTy f.ty).map (lopApprox .rcp)) false ∧
  RowA .frsq (fun f => (scalarTy f.ty).map (lopApprox .rsq)) false ∧
  RowA .fexp2 (fun f => (scalarTy f.ty).map (lopApprox .exp2)) false ∧
  RowA .flog2 (fun f => (scalarTy f.ty).map (lopApprox .log2)) false ∧
  RowA .fsin (fun f => (scalarTy f.ty).map (lopApprox .sin)) false ∧
  RowA .fcos (fun f => (scalarTy f.ty).map (lopApprox .cos)) false ∧
  RowA .ftanh (fun f => (scalarTy f.ty).map (lopApprox .tanh)) false ∧
  RowB .faddImm (fun f => (floatTy f.ty).map (fun t => lopFadd t rmodeReg)) ∧
  RowB .fmulImm (fun f => (floatTy f.ty).map (fun t => lopFmul t rmodeReg)) ∧
  RowAccB .ffmaImm (fun ty => (floatTy ty).map (fun t => lopFfma t rmodeReg))

/-- For each conversion row and every type pair it allows: on a path that nothing hinders it answers a next state with the converted value in
each active lane (the packing form keeps the other part of its destination), its flags joined to FPMODE, and everything else as it was. -/
def Obligations.ConversionRowsComplete : Prop :=
  RowCvt .cvtFloat (fun f => lopCvtFloat f) false ∧
  RowCvt .cvtNarrow (fun f => lopCvtNarrow f) false ∧
  RowCvt .cvtInt (fun f => lopCvtInt f) false ∧
  RowCvt .cvtE8m0 (fun f => lopCvtE8m0 f) false ∧
  RowCvt .cvtPk (fun f => lopCvtPk f) true ∧
  RowCvt .cvtUpk (fun f => lopCvtUpk f) false

/-- For div, rem, fdiv and fsqrt on a path that nothing hinders, with an active lane and fewer than two such operations outstanding: the
instruction answers a next state in which exactly the destination's registers have become empty, no register has changed its value, one
instruction in flight with the next number owes the active lanes, and it holds the operation's value for each. -/
def Obligations.LongOperationsIssue : Prop :=
  LongA .div (fun f => some (lopDiv (intTy f.ty))) true ∧
  LongA .rem (fun f => some (lopRem (intTy f.ty))) true ∧
  LongR .fdiv (fun f => (scalarTy f.ty).map (fun t => lopFdiv t (rmodeFld f.rnd))) true ∧
  LongR .fsqrt (fun f => (scalarTy f.ty).map (fun t => lopFsqrt t (rmodeFld f.rnd))) false

/-- For each uniform row, every type it allows: on a path that nothing hinders it answers a next state with the operation's value in its k
register or pair (zero discards it), whatever the execute mask; flags, l, predicates and every other register are as they were. -/
def Obligations.UniformRowsComplete : Prop :=
  RowUniA .uadd (fun f => some (lopAdd (intTy f.ty))) ∧
  RowUniA .usub (fun f => some (lopSub (intTy f.ty))) ∧
  RowUniA .umulLo (fun f => some (lopMulLo (intTy f.ty))) ∧
  RowUniA .uand (fun f => (bitTy f.ty).map lopAnd) ∧
  RowUniA .uor (fun f => (bitTy f.ty).map lopOr) ∧
  RowUniA .uxor (fun f => (bitTy f.ty).map lopXor) ∧
  RowUniA .ushl (fun f => (bitTy f.ty).map lopShl) ∧
  RowUniA .ushr (fun f => some (lopShr (intTy f.ty))) ∧
  RowUniA .umin (fun f => some (lopMin (intTy f.ty))) ∧
  RowUniA .umax (fun f => some (lopMax (intTy f.ty))) ∧
  RowUniA .umov (fun f => (bitTy f.ty).map lopMov) ∧
  RowUniB .umovi (fun f => (bitTy f.ty).map lopMovi) ∧
  RowUniDab .uaddI32L32 (lopAdd tyI32) ∧
  RowUniDab .usubI32L32 (lopSub tyI32) ∧
  RowUniDab .uandB32L32 (lopAnd tyN32) ∧
  RowUniDab .uorB32L32 (lopOr tyN32) ∧
  RowUniDab .uxorB32L32 (lopXor tyN32) ∧
  RowUniDab .ushlB32L32 (lopShl tyN32) ∧
  RowUniDab .ushrN32L32 (lopShr tyN32) ∧
  RowUniDab .umovL32 (lopMov tyN32) ∧
  RowUniDai .uaddI32ImmL32 (lopAdd tyI32) ∧
  RowUniDai .uandB32ImmL32 (lopAnd tyN32) ∧
  RowUniDai .ushlB32ImmL32 (lopShl tyN32) ∧
  RowUniDai .ushrN32ImmL32 (lopShr tyN32)

/-- For pand, por, pxor, pandn, pnot, pmov and pset on a path that nothing hinders: exactly the active lanes of the destination predicate take
the named combination of the source predicates' lanes (of bit l of the uniform source for pset); pget writes all 32 bits of a predicate to
its k register; every other register, predicate, flag and l are as they were, and the path goes on. -/
def Obligations.PredicateRowsComplete : Prop :=
  let bit (w : Warp) (x : BitVec 9) (i : Nat) : Bool := (readPred w (opd9 x)).getLsbD i
  ∀ f : FmtA,
    ValueRow .pand (.a f) (predShape true f) (opd9 f.d) 1 (fun _ w _ _ i => truth (bit w f.a i && bit w f.b i)) noFlags ∧
    ValueRow .por (.a f) (predShape true f) (opd9 f.d) 1 (fun _ w _ _ i => truth (bit w f.a i || bit w f.b i)) noFlags ∧
    ValueRow .pxor (.a f) (predShape true f) (opd9 f.d) 1 (fun _ w _ _ i => truth (bit w f.a i ^^ bit w f.b i)) noFlags ∧
    ValueRow .pandn (.a f) (predShape true f) (opd9 f.d) 1 (fun _ w _ _ i => truth (bit w f.a i && !bit w f.b i)) noFlags ∧
    ValueRow .pnot (.a f) (predShape false f) (opd9 f.d) 1 (fun _ w _ _ i => truth (!bit w f.a i)) noFlags ∧
    ValueRow .pmov (.a f) (predShape false f) (opd9 f.d) 1 (fun _ w _ _ i => truth (bit w f.a i)) noFlags ∧
    ValueRow .pset (.a f) (psetShape f) (opd9 f.d) 1 (fun b w r _ i => truth ((read32 b w r.wi (opd9 f.a) 0).getLsbD i)) noFlags ∧
    UniValueRow .pget (.a f) (pgetShape f) (opd9 f.d) 1 (fun _ w _ _ => (readPred w (opd9 f.a)).setWidth 64) noFlags

/-- For lrd.at, lrd.flip, lrd.off and lrd.rot of both types on a path that nothing hinders: each active lane of the destination takes the
value of A in the lane that B names (the lane itself, its exclusive-or, its sum, its sum modulo 32); a lane outside the warp gives 0, or
lane 0 or 31 in the clamped form; everything else is as it was. -/
def Obligations.LaneReadsComplete : Prop :=
  ∀ f : FmtA,
    let n := if f.ty = 1 then 2 else 1
    let row (i : Instr) (kind : Nat) (lane : Nat → Int → Int) : Prop :=
      ValueRow i (.a f) (lrdShape kind f) (opd9 f.d) n (fun b w r _ l =>
        let j := lane l ((modifiedLane b w r.wi (opndsA f) 1 l).setWidth 32).toInt
        if j < 0 then (if f.c = 1 then sourceLane b w r.wi (opd9 f.a) n 0 else 0)
        else if 31 < j then (if f.c = 1 then sourceLane b w r.wi (opd9 f.a) n 31 else 0)
        else sourceLane b w r.wi (opd9 f.a) n j.toNat) noFlags
    row .lrdAt 0 (fun _ x => x) ∧
    row .lrdFlip 1 (fun l x => if 0 ≤ x ∧ x ≤ 31 then ((l ^^^ x.toNat : Nat) : Int) else -1) ∧
    row .lrdOff 2 (fun l x => l + x) ∧
    row .lrdRot 3 (fun l x => (l + x) % 32)

/-- alike gives each active lane the mask of the active lanes that hold its value (or, for a predicate, whether all do; after a 64-bit type l
is undefined); lany and lall the truth of a predicate over the active lanes; lmask and lcount its active lanes and their number; lfirst
the lowest active lane, 32 when there is none. Each writes its destination and nothing else. -/
def Obligations.LaneSetsComplete : Prop :=
  ∀ f : FmtA,
    let like (b : Block) (w : Warp) (r : PathRef) (sl : Slot) (i : Nat) : Word :=
      maskOf ((lanesOf (effMask w sl)).filter (fun j =>
        sourceLane b w r.wi (opd9 f.a) (alikeW f) j == sourceLane b w r.wi (opd9 f.a) (alikeW f) i))
    let held (w : Warp) (sl : Slot) : Word := readPred w (opd9 f.a) &&& effMask w sl
    let truthRow (i : Instr) (sh : Shape) (v : Warp → Slot → Nat → DWord) (u : Warp → Slot → DWord) : Prop :=
      ((opd9 f.d).isPred = true → ValueRow i (.a f) sh (opd9 f.d) 1 (fun _ w _ sl l => v w sl l) noFlags) ∧
      ((opd9 f.d).isPred = false → UniValueRow i (.a f) sh (opd9 f.d) 1 (fun _ w _ sl => u w sl) noFlags)
    ((opd9 f.d).isPred = true →
      ValueRow .alike (.a f) (alikeShape f) (opd9 f.d) 1 (fun b w r sl i => truth (like b w r sl i == effMask w sl)) noFlags) ∧
    ((opd9 f.d).isPred = false → alikeW f = 1 →
      ValueRow .alike (.a f) (alikeShape f) (opd9 f.d) 1 (fun b w r sl i => (like b w r sl i).setWidth 64) noFlags) ∧
    ((opd9 f.d).isPred = false → alikeW f = 2 →
      Does .alike (.a f) (alikeShape f) always (fun s t r b w sl => ∃ w' ls, OnlyWarp s t r b { w' with l := ls } ∧
        ValueDone (opd9 f.d) 1 (effMask w sl) (fun i => (like b (seenWarp s w r.slot) r sl i).setWidth 64) 0 w w' r sl 8)) ∧
    truthRow .lany (truthShape f) (fun w sl _ => truth (held w sl != 0)) (fun w sl => truth (held w sl != 0)) ∧
    truthRow .lall (truthShape f) (fun w sl _ => truth (held w sl == effMask w sl)) (fun w sl => truth (held w sl == effMask w sl)) ∧
    truthRow .lfirst (lfirstShape f) (fun w sl l => truth (l == lowLane (effMask w sl)))
      (fun w sl => BitVec.ofNat 64 (if effMask w sl = 0 then 32 else lowLane (effMask w sl))) ∧
    UniValueRow .lmask (.a f) (countShape f) (opd9 f.d) 1 (fun _ w _ sl => (held w sl).setWidth 64) noFlags ∧
    UniValueRow .lcount (.a f) (countShape f) (opd9 f.d) 1 (fun _ w _ sl => BitVec.ofNat 64 (lanesOf (held w sl)).length) noFlags

/-- lred writes the combination of the active lanes' values by the tree of R374 to its k register or pair; lscan gives each active lane the
combination of the lanes below it, with itself unless it is exclusive, by the steps of R374; both join the flags of every combination made
to FPMODE, and everything else is as it was. With no active lane lred gives the identity. -/
def Obligations.LaneReductionsComplete : Prop :=
  ∀ (f : FmtA) (k : Comb),
    let vals (b : Block) (w : Warp) (r : PathRef) (sl : Slot) : Vals :=
      lanes32.map (fun i => if (effMask w sl).getLsbD i then some (sourceLane b w r.wi (opd9 f.a) k.w i) else none)
    (redComb false f = some k →
      UniValueRow .lred (.a f) (redShape false k f) (opd9 f.d) k.w
        (fun b w r sl => (redTree k w.csr.fpmode (vals b w r sl)).1.getD k.e) (fun b w r sl => (redTree k w.csr.fpmode (vals b w r sl)).2)) ∧
    (redComb true f = some k →
      ValueRow .lscan (.a f) (redShape true k f) (opd9 f.d) k.w
        (fun b w r sl => scanValue k (redExcl true f) (scanSteps k w.csr.fpmode (vals b w r sl)).1)
        (fun b w r sl => (scanSteps k w.csr.fpmode (vals b w r sl)).2))

/-- On a path that nothing hinders: nop only goes on; yield goes on, and ends its warp's greedy run, or in exchange mode puts its place up for
trade: the step then gives the place to the oldest Ready pending warp, which may issue after 4 cc (R347, R38). sleep goes on, waiting until the
clock has advanced by min(a + imm, 2^32 - 1) unless that is 0 or the grid is cancelled; lcmov writes a loop counter, or reads one into a k
register; pblk puts its reach, and ordp its order, scope and address, on the path. Nothing else changes. -/
def Obligations.PassingRowsComplete : Prop :=
  (∀ f, Does .nop (.l32 f) (ctlL f false) always (fun s t r b w sl => ∃ w', OnlyWarp s t r b w' ∧ PassedOn w w' r.slot sl 4)) ∧
  (∀ f, Does .yield (.l32 f) (ctlL f false) always (fun s t r b w sl => ∃ w',
    t.block? r.bid = some { b with warps := b.warps.set r.wi w' } ∧ (∀ bid, bid ≠ r.bid → t.block? bid = s.block? bid) ∧
    t = { s with blocks := t.blocks, cores := t.cores, freeCtr := t.freeCtr } ∧ PassedOn w w' r.slot sl 4 ∧
    CoresOnlyTurned s t ∧ (∀ ck, ck ≠ b.core → (t.core ck).issue = (s.core ck).issue) ∧
    (∀ j, j ≠ w.issueSlot → (t.core b.core).issue[j]? = (s.core b.core).issue[j]?) ∧
    (∀ q, (s.core b.core).issue[w.issueSlot]? = some q → (t.core b.core).issue[w.issueSlot]? =
      some (if (s.core b.core).schedmode = true then { q with run := yielded } else { q with trade := true })))) ∧
  (∀ s r b w q e, s.block? r.bid = some b → b.warps[r.wi]? = some w → (s.core b.core).issue[w.issueSlot]? = some q → q.trade = true →
    q.active.any (fun x => x.1 == r.bid && x.2.1 == r.wi) = true → ¬(e.1 = r.bid ∧ e.2.1 = r.wi) →
    q.pending.find? (fun x => refReady (s.updCore b.core (fun c =>
      { c with issue := c.issue.modify w.issueSlot (fun q => { q with trade := false }) })) x.1 x.2.1) = some e →
    ∃ q', ((settleTrade s r).core b.core).issue[w.issueSlot]? = some q' ∧ q'.trade = false ∧
      q'.active = q.active.filter (fun x => !(x.1 == r.bid && x.2.1 == r.wi)) ++ [(e.1, e.2.1, s.clock + 4)] ∧
      q'.pending = q.pending.filter (fun x => !(x.1 == e.1 && x.2.1 == e.2.1)) ++ [(r.bid, r.wi, s.clock)]) ∧
  (∀ f, Does .sleep (.b f) (ctlB f false true false [usrcFld (opd9 f.a) false]) always (fun s t r b w sl =>
    let n := min ((read32 b (seenWarp s w r.slot) r.wi (opd9 f.a) 0).toNat + f.imm.toNat) (2 ^ 32 - 1)
    ∃ w', PassedOn w w' r.slot sl 8 ∧
      ((n = 0 ∨ b.cancel = true) → OnlyWarp s t r b w') ∧
      (n ≠ 0 → b.cancel = false → OnlyWarp s t r b (w'.onSlot r.slot (fun x => { x with wait := .sleep (s.clock + n) }))))) ∧
  (∀ f, f.c.toNat < 2 → Does .lcmov (.a f) (lcmovShape f) always (fun s t r b w sl => ∃ w', OnlyWarp s t r b w' ∧
    PassedOn (if f.c = 0 then { w with lc0 := read32 b (seenWarp s w r.slot) r.wi (opd9 f.a) 0 }
      else { w with lc1 := read32 b (seenWarp s w r.slot) r.wi (opd9 f.a) 0 }) w' r.slot sl 8)) ∧
  (∀ f, 2 ≤ f.c.toNat → UniValueRow .lcmov (.a f) (lcmovShape f) (opd9 f.d) 1
    (fun _ w _ _ => (if f.c = 3 then w.lc1 else w.lc0).setWidth 64) noFlags) ∧
  (∀ f, Does .pblk (.pblk f) (pblkShape f) always (fun s t r b w sl => ∃ w',
    OnlyWarp s t r b (w'.onSlot r.slot (fun x => { x with reach := pblkReach f })) ∧ PassedOn w w' r.slot sl 4)) ∧
  (∀ f, Does .ordp (.ordp f) (ordpShape f) always (fun s t r b w sl => ∃ w',
    OnlyWarp s t r b (w'.onSlot r.slot (fun x =>
      { x with ordPfx := some { order := ordpOrder f, scope := ordpScope f, addr := sl.path.pc } })) ∧ PassedOn w w' r.slot sl 4))

/-- With T the lanes of the path whose condition holds: bra goes on when T is empty, goes to its target when T is the whole path, and
otherwise splits: the other lanes go on after the instruction and T's lanes become a path at the target in the free slot, both with the
join target as reconvergence PC. A split that nests pushes a join entry, and one that finds no free slot pushes T's path, where the stack has
room and may be used; with no room on the stack it raises STACK_SPILL. bra.u,
bra.any and bra.all go to their target or on by their test, bra.idx to the parcel after it that the clamped index names. Levels left end
(R353). -/
def Obligations.BranchesComplete : Prop :=
  (∀ f : FmtB,
    let taken (w : Warp) (sl : Slot) : Word :=
      let p := if opd9 f.a = .zero then BitVec.allOnes 32 else readPred w (opd9 f.a)
      (if f.d.getLsbD 0 then ~~~p else p) &&& sl.path.mask
    let target (sl : Slot) : DWord := sl.path.pc + ((f.imm.extractLsb' 0 16).signExtend 64 <<< 1)
    let meet (sl : Slot) : DWord := sl.path.pc + ((f.imm.extractLsb' 16 16).signExtend 64 <<< 1)
    let splits (w : Warp) (sl : Slot) : Prop := taken w sl ≠ 0 ∧ sl.path.mask &&& ~~~(taken w sl) ≠ 0
    Does .bra (.b f) (braShape f) (fun _ _ _ w sl => taken w sl = 0)
      (fun s t r b w sl => ∃ w', OnlyWarp s t r b w' ∧ PassedOn w w' r.slot sl 8) ∧
    Does .bra (.b f) (braShape f) (fun _ _ _ w sl => taken w sl ≠ 0 ∧ sl.path.mask &&& ~~~(taken w sl) = 0)
      (fun s t r b w sl => ∃ w', OnlyWarp s t r b w' ∧ WentTo w w' r.slot sl (target sl) 8) ∧
    Does .bra (.b f) (braShape f)
      (fun _ r _ w sl => splits w sl ∧ r.slot < 2 ∧ (∃ o, w.slots[1 - r.slot]? = some o ∧ o.live = false) ∧
        (sl.path.rpc = none ∨ sl.path.rpc = some (meet sl)) ∧ w.spill.length ≤ w.spillDepth)
      (fun s t r b w sl => ∃ w' w2,
        let w1 := loopEnd 3 (leaveLoops w (target sl)) (sl.path.pc + 8)
        OnlyWarp s t r b w2 ∧ StandsAt w1.2 w' r.slot sl w1.1 8 ∧
        w2 = { w' with slots := w2.slots } ∧ (∀ j, j ≠ r.slot → j ≠ 1 - r.slot → w2.slots[j]? = w'.slots[j]?) ∧
        (∃ x, w'.slots[r.slot]? = some x ∧ w2.slots[r.slot]? = some { x with
          path := { pc := w1.1, rpc := some (meet sl), mask := sl.path.mask &&& ~~~(taken w sl) } }) ∧
        w2.slots[1 - r.slot]? = some { Slot.empty with
          live := true, path := { pc := target sl, rpc := some (meet sl), mask := taken w sl } }) ∧
    Does .bra (.b f) (braShape f)
      (fun s r b w sl => let n := branchNeed (ctxOf .bra (.b f) r b w sl) (meet sl)
        splits w sl ∧ r.slot < 2 ∧ w.slots.length = 2 ∧ n ≠ 0 ∧ w.spill.length + n ≤ w.spillDepth ∧
        StackUsable .bra (.b f) s r b w sl w.spill.length (w.spill.length + n))
      (fun _ t r _ w sl =>
        let nests : Bool := sl.path.rpc.isSome && sl.path.rpc != some (meet sl)
        let other : PathState := { pc := target sl, rpc := some (meet sl), mask := taken w sl }
        let free : Bool := freeSlot w r.slot
        ∃ w', t.warp? r.bid r.wi = some w' ∧
          w'.spill = w.spill ++ (if nests then [.join (meet sl) sl.path.mask sl.path.rpc] else []) ++
            (if free then [] else [.path other false]) ∧
          (∃ x, w'.slots[r.slot]? = some x ∧ x.live = true ∧ x.wait = .ready ∧
            x.path = { pc := (loopEnd 3 (leaveLoops w (target sl)) (sl.path.pc + 8)).1, rpc := some (meet sl),
                       mask := sl.path.mask &&& ~~~(taken w sl) }) ∧
          w'.slots[1 - r.slot]? = (if free then some { Slot.empty with live := true, path := other }
            else (w.slots[1 - r.slot]?).map Slot.older) ∧
          w'.v = w.v ∧ w'.o = w.o ∧ w'.k = w.k ∧ w'.h = w.h ∧ w'.p = w.p ∧ w'.empty = w.empty ∧ w'.csr = w.csr ∧ w'.exited = w.exited) ∧
    (∀ s r b w sl, Issuing s r b w sl → s.ops = .b f → Unhindered (braShape f) b w sl → splits w sl →
      w.spillDepth < w.spill.length + branchNeed (ctxOf .bra (.b f) r b w sl) (meet sl) →
      Raises .bra s r { code := codeStackSpill, lanes := effMask w sl, addr := 0, pc := faultPc sl })) ∧
  (∀ f : FmtB,
    let target (sl : Slot) : DWord := sl.path.pc + (f.imm.signExtend 64 <<< 1)
    let row (i : Instr) (role : Role) (test : Block → Warp → PathRef → Slot → Bool) : Prop :=
      Does i (.b f) (braUniformShape role f) always (fun s t r b w sl => ∃ w', OnlyWarp s t r b w' ∧
        (if (test b (seenWarp s w r.slot) r sl ^^ f.d.getLsbD 0) then WentTo w w' r.slot sl (target sl) 8 else PassedOn w w' r.slot sl 8))
    row .braU .usrc (fun b w r _ => opd9 f.a == .zero || read32 b w r.wi (opd9 f.a) 0 != 0) ∧
    row .braAny .pred (fun _ w _ sl => readPred w (opd9 f.a) &&& sl.path.mask != 0) ∧
    row .braAll .pred (fun _ w _ sl => readPred w (opd9 f.a) &&& sl.path.mask == sl.path.mask)) ∧
  (∀ f, Does .braIdx (.a f) (braIdxShape f) always (fun s t r b w sl => ∃ w', OnlyWarp s t r b w' ∧
    WentTo w w' r.slot sl (sl.path.pc + BitVec.ofNat 64 (8 + 8 * min (read32 b (seenWarp s w r.slot) r.wi (opd9 f.a) 0).toNat
      (read32 b (seenWarp s w r.slot) r.wi (opd9 f.b) 0).toNat)) 8))

/-- call and call.idx write the address of the next instruction to o6:o7 in the path's lanes and go to their target (for call.idx the pair of
the lowest lane, bit 0 cleared); ret goes to o6:o7 of the lowest lane, bit 0 cleared. No other register, predicate or special register
changes. -/
def Obligations.CallsComplete : Prop :=
  let called (s t : State) (r : PathRef) (b : Block) (w : Warp) (sl : Slot) (target : DWord) : Prop :=
    ∃ w1 w', OnlyWarp s t r b w' ∧ WentTo w w1 r.slot sl (target &&& ~~~1#64) 8 ∧ w' = { w1 with o := w'.o, l := w'.l, empty := w'.empty } ∧
      (∀ i < 32, w'.dstLane (.o 6) 2 i = if sl.path.mask.getLsbD i then sl.path.pc + 8 else w.dstLane (.o 6) 2 i) ∧
      KeptRegs w w' [.o 6, .o 7] ∧ ∀ x, w'.isEmpty x = w.isEmpty x
  (∀ f, Does .call (.b f) (callShape f) always (fun s t r b w sl =>
    called s t r b w sl (sl.path.pc + (f.imm.signExtend 64 <<< 1)))) ∧
  (∀ f, Does .callIdx (.a f) (callIdxShape f) always (fun s t r b w sl =>
    called s t r b w sl (read64 b (seenWarp s w r.slot) r.wi (opd9 f.a) (lowLane sl.path.mask)))) ∧
  (∀ f, Does .ret (.l32 f) (retShape f) always (fun s t r b w sl => ∃ w', OnlyWarp s t r b w' ∧
    WentTo w w' r.slot sl (read64 b (seenWarp s w r.slot) r.wi (.o 6) (lowLane sl.path.mask) &&& ~~~1#64) 4))

/-- loop sets its counter to the count (the immediate, or a uniform value). With a count above 0 it opens a level from the next instruction to
its end and goes on there; with count 0 it goes on at the end, with the loop end step. With another path live, or a level that uses the
same counter, does not hold the new one, or is the second, it raises LOOP_NEST and opens nothing. -/
def Obligations.LoopsComplete : Prop :=
  ∀ f : FmtB,
    let lc := f.d.getLsbD 0
    let count (b : Block) (w : Warp) (r : PathRef) : Word :=
      if opd9 f.a = .zero then (f.imm.extractLsb' 16 16).setWidth 32 else read32 b w r.wi (opd9 f.a) 0
    let stop (sl : Slot) : DWord := sl.path.pc + ((f.imm.extractLsb' 0 16).setWidth 64 <<< 1)
    let counted (s : State) (b : Block) (w : Warp) (r : PathRef) : Warp :=
      if lc then { w with lc1 := count b (seenWarp s w r.slot) r } else { w with lc0 := count b (seenWarp s w r.slot) r }
    let bad (w : Warp) (r : PathRef) (sl : Slot) : Prop :=
      otherPath w r.slot = true ∨ 2 ≤ w.levels.length ∨
      ∃ o, w.levels = [o] ∧ (o.lc = lc ∨ ¬(o.start < stop sl ∧ stop sl ≤ o.stop))
    Does .loop (.b f) (loopShape f) (fun s r b w sl => ¬bad w r sl ∧ count b (seenWarp s w r.slot) r ≠ 0)
      (fun s t r b w sl => ∃ w', OnlyWarp s t r b w' ∧
        StandsAt { counted s b w r with levels := { start := sl.path.pc + 8, stop := stop sl, lc := lc } :: w.levels } w' r.slot sl
          (sl.path.pc + 8) 8) ∧
    Does .loop (.b f) (loopShape f) (fun s r b w sl => ¬bad w r sl ∧ count b (seenWarp s w r.slot) r = 0)
      (fun s t r b w sl => ∃ w', OnlyWarp s t r b w' ∧
        StandsAt (loopEnd 3 (counted s b w r) (stop sl)).2 w' r.slot sl (loopEnd 3 (counted s b w r) (stop sl)).1 8) ∧
    (∀ s r b w sl, Issuing s r b w sl → s.ops = .b f → Unhindered (loopShape f) b w sl → bad w r sl →
      Raises .loop s r { code := codeLoopNest, lanes := effMask w sl, addr := 0, pc := faultPc sl })

/-- exit of a warp's last path, with no memory effect held in its log, makes the warp Exited with no live slot, and ends the block when its
other warps have exited; with one held it waits. With another path it removes the path's lanes: with an empty spill stack the slot is free, the
other slot's path goes on without those lanes, past its join if it waited there for this one, and its reconvergence PC is none; with entries on
the stack, where those may be used, the lanes have exited and the warp has not. join does nothing when the path does not reconverge there, waits
while another path runs to it, and merges with the path that waits in the other slot: one path with both masks goes on after the join; with
entries on the stack, where those may be used, the path goes on after the join and keeps its lanes. No memory changes but the stack's image. -/
def Obligations.ExitAndJoinComplete : Prop :=
  (∀ f, Does .exit (.l32 f) (ctlL f false) (fun _ r _ w _ => otherPath w r.slot = false ∧ w.heldFx = false)
    (fun s t r b w _ => OnlyGang s t b.gangId ∧ (b.saveRec = none → t.domains = s.domains) ∧
      (∃ w', t.warp? r.bid r.wi = some w' ∧ WarpExited w w') ∧
      ((∀ j x, j ≠ r.wi → b.warps[j]? = some x → x.done = true) → ∃ b', t.block? r.bid = some b' ∧ b'.phase = .ending))) ∧
  (∀ f, Does .exit (.l32 f) (ctlL f false) (fun _ r _ w _ => otherPath w r.slot = false ∧ w.heldFx = true)
    (fun s t r b w sl => ∃ w', OnlyWarp s t r b w' ∧ Unissued w w' r.slot sl sl.path.pc (.retry false))) ∧
  (∀ f, Does .exit (.l32 f) (ctlL f false)
    (fun _ r _ w sl => w.spill = [] ∧ w.slots.length = 2 ∧ r.slot < 2 ∧
      ∃ o, w.slots[1 - r.slot]? = some o ∧ o.live = true ∧ o.path.mask &&& ~~~sl.path.mask ≠ 0)
    (fun s t r b w sl => ∃ w' o, OnlyWarp s t r b w' ∧ LanesLeft w w' r.slot sl 4 ∧ w.slots[1 - r.slot]? = some o ∧
      (o.wait ≠ .join → w'.slots[1 - r.slot]? =
        some { o.older with path := { o.path with mask := o.path.mask &&& ~~~sl.path.mask, rpc := none } }) ∧
      (∀ y, o.wait = .join → o.path.rpc = some y → w'.slots[1 - r.slot]? =
        some { o.older with wait := .ready, path := { pc := (loopEnd 3 w (o.path.pc + 4)).1, rpc := none, mask := o.path.mask &&& ~~~sl.path.mask } }))) ∧
  (∀ f, Does .exit (.l32 f) (ctlL f false)
    (fun s r b w sl => ((∃ j o, j ≠ r.slot ∧ w.slots[j]? = some o ∧ o.live = true ∧ o.path.mask &&& ~~~sl.path.mask ≠ 0) ∨
        ∃ p j, .path p j ∈ w.spill ∧ p.mask &&& ~~~sl.path.mask ≠ 0) ∧
      StackUsable .exit (.l32 f) s r b w sl 0 w.spill.length)
    (fun s t r _ w sl => ∃ w', t.warp? r.bid r.wi = some w' ∧ w'.exited = w.exited ||| sl.path.mask ∧ w'.done = w.done ∧
      w'.v = w.v ∧ w'.o = w.o ∧ w'.k = w.k ∧ w'.h = w.h ∧ w'.p = w.p ∧ w'.empty = w.empty ∧
      ∀ bid, bid ≠ r.bid → t.block? bid = s.block? bid)) ∧
  (∀ f, Does .join (.l32 f) (ctlL f false) (fun _ _ _ _ sl => sl.path.rpc ≠ some sl.path.pc)
    (fun s t r b w sl => ∃ w', OnlyWarp s t r b w' ∧ PassedOn w w' r.slot sl 4)) ∧
  (∀ f, Does .join (.l32 f) (ctlL f false)
    (fun _ r _ w sl => sl.path.rpc = some sl.path.pc ∧ (0 < w.running (some r.slot) sl.path.pc ∨ w.joinTo sl.path.pc = true))
    (fun s t r b w sl => ∃ w', OnlyWarp s t r b (w'.onSlot r.slot (fun x => { x with wait := .join })) ∧
      StandsAt w w' r.slot sl sl.path.pc 4)) ∧
  (∀ f, Does .join (.l32 f) (ctlL f false)
    (fun _ r _ w sl => sl.path.rpc = some sl.path.pc ∧ w.spill = [] ∧ w.slots.length = 2 ∧ r.slot < 2 ∧
      ∃ o, w.slots[1 - r.slot]? = some o ∧ o.waitsAt sl.path.pc = true)
    (fun s t r b w sl => let q := loopEnd 3 w (sl.path.pc + 4)
      ∃ w' x o, OnlyWarp s t r b w' ∧ w.slots[1 - r.slot]? = some o ∧
        w'.slots[r.slot]? = some x ∧ x.live = true ∧ x.wait = .ready ∧
        x.path = { pc := q.1, rpc := none, mask := sl.path.mask ||| o.path.mask } ∧ w'.slots[1 - r.slot]? = some Slot.empty ∧
        w' = { w with slots := w'.slots, l := w'.l, lc0 := q.2.lc0, lc1 := q.2.lc1, levels := q.2.levels, rotation := 0,
                      progress := w.progress + 4, lastSlot := r.slot, freshLanes := w.freshLanes &&& ~~~sl.path.mask })) ∧
  (∀ f, Does .join (.l32 f) (ctlL f false)
    (fun s r b w sl => sl.path.rpc = some sl.path.pc ∧ w.running (some r.slot) sl.path.pc = 0 ∧ w.joinTo sl.path.pc = false ∧
      StackUsable .join (.l32 f) s r b w sl 0 w.spill.length)
    (fun s t r _ w sl => ∃ w' x, t.warp? r.bid r.wi = some w' ∧ w'.slots[r.slot]? = some x ∧ x.live = true ∧ x.wait = .ready ∧
      x.path.pc = (loopEnd 3 w (sl.path.pc + 4)).1 ∧ sl.path.mask &&& ~~~x.path.mask = 0 ∧
      w'.v = w.v ∧ w'.o = w.o ∧ w'.k = w.k ∧ w'.h = w.h ∧ w'.p = w.p ∧ w'.empty = w.empty ∧ w'.csr = w.csr ∧ w'.exited = w.exited ∧
      ∀ bid, bid ≠ r.bid → t.block? bid = s.block? bid))

/-- A fault other than ECC_UNCORRECTED on a live path of a warp outside a handler, of a grid with a handler: FAULTCODE holds its code and
kind, FAULTLANES, FAULTPC (bit 0 clear), FAULTADDR and FAULTEM its lanes, resume address, address and the execute mask; STATUS.INTRAP is 1
and its other bits as they were; the path goes to the handler with its mask, its reach suspended with KEEP set; the levels that do not
hold the handler end; every register, predicate and other special register, and all but l of the rest of the machine, is as it was. -/
def Obligations.HandlerEntrySavesTheFault : Prop :=
  ∀ s r b w sl (f : Flt), s.block? r.bid = some b → b.warps[r.wi]? = some w → w.slots[r.slot]? = some sl →
    b.lrec.handler ≠ 0 → f.code ≠ codeEcc → w.inTrap = false →
    ∃ w' sl', OnlyWarp s (takeFault s r f) r b w' ∧
      w'.csr = { w.csr with faultcode := BitVec.ofNat 22 0 ++ BitVec.ofNat 2 f.kind ++ f.code, faultlanes := f.lanes, faultem := sl.path.mask,
                            faultpc := f.pc &&& ~~~1#64, faultaddr := f.addr, status := w.csr.status ||| 1 } ∧
      w'.slots[r.slot]? = some sl' ∧ sl'.live = sl.live ∧ sl'.path = { sl.path with pc := b.lrec.handler &&& ~~~1#64 } ∧
      sl'.wait = .ready ∧ sl'.reach = 0 ∧ sl'.susp = sl.reach ||| 0x8000 ∧ sl'.ordPfx = none ∧
      (∀ j, j ≠ r.slot → w'.slots[j]? = w.slots[j]?) ∧
      w' = { w with csr := w'.csr, slots := w'.slots, l := w'.l, trapSlot := r.slot,
                    levels := (leaveLoops w (b.lrec.handler &&& ~~~1#64)).levels }

/-- In each of those cases every block of the faulting block's gang ends with all its warps Exited, the block's home Arbor counts one more
fault of the code (up to 2^32 - 1) and keeps the first fault of the grid in full, and memory and the blocks of other gangs are as they
were. -/
def Obligations.FaultRecordEndsTheGang : Prop :=
  ∀ s r b w g (f : Flt), s.block? r.bid = some b → b.warps[r.wi]? = some w → s.grid? b.gid = some g →
    (b.lrec.handler = 0 ∨ f.code = codeEcc ∨ w.inTrap = true) →
    (takeFault s r f).mem = s.mem ∧
    (∀ x, s.block? x.bid = some x → x.gangId = b.gangId →
      ∃ x', (takeFault s r f).block? x.bid = some x' ∧ x'.phase = .ending ∧ x'.warps.length = x.warps.length ∧ ∀ y ∈ x'.warps, y.done = true) ∧
    (∀ x, s.block? x.bid = some x → (∀ y ∈ s.blocks, y.gangId = b.gangId → s.block? y.bid = some y ∧ y.bid ≠ x.bid) → (takeFault s r f).block? x.bid = some x) ∧
    (∃ g', (takeFault s r f).grid? b.gid = some g' ∧
      (g'.arbors.get .zero b.home).faults.get 0 f.code.toNat =
        min (2 ^ 32 - 1) ((g.arbors.get .zero b.home).faults.get 0 f.code.toNat + 1) ∧
      ∃ ff, (g'.arbors.get .zero b.home).first = some ff ∧
        ((g.arbors.get .zero b.home).first = none → ff.code = f.code ∧ ff.lanes = f.lanes ∧ ff.pc = f.pc ∧ ff.addr = f.addr ∧ ff.warp = r.wi) ∧
        ((g.arbors.get .zero b.home).first ≠ none → (g.arbors.get .zero b.home).first = some ff))

/-- tret in a handler, with no memory effect held and a lane of FAULTEM left: STATUS.INTRAP becomes 0, the path goes on at FAULTPC (bit 0
clear) with the lanes of FAULTEM it still holds, the suspended reach is in force if KEEP is set and dropped otherwise, the levels that do
not hold that address end, and the lanes given up have exited. With a memory effect held it waits; with no lane of FAULTEM left and no other path
the warp has exited. Outside a handler tret only goes on. No register or predicate changes. -/
def Obligations.TretReturnsFromTheHandler : Prop :=
  (∀ f, Does .tret (.a f) (tretShape f) (fun _ _ _ w _ => w.inTrap = false)
    (fun s t r b w sl => ∃ w', OnlyWarp s t r b w' ∧ PassedOn w w' r.slot sl 8)) ∧
  (∀ f, Does .tret (.a f) (tretShape f)
    (fun _ _ _ w sl => w.inTrap = true ∧ w.heldFx = false ∧ w.csr.faultem &&& sl.path.mask ≠ 0)
    (fun s t r b w sl => ∃ w' x, OnlyWarp s t r b w' ∧
      w'.csr = { w.csr with status := w.csr.status &&& ~~~1#32 } ∧ w'.exited = w.exited ||| (sl.path.mask &&& ~~~w.csr.faultem) ∧
      w'.levels = (leaveLoops w (w.csr.faultpc &&& ~~~1#64)).levels ∧
      w'.slots[r.slot]? = some x ∧ x.live = true ∧ x.wait = .ready ∧ x.susp = 0 ∧
      x.path = { sl.path with pc := w.csr.faultpc &&& ~~~1#64, mask := w.csr.faultem &&& sl.path.mask } ∧
      x.reach = (if sl.susp.getLsbD 15 then sl.susp &&& 0x7FFF else 0) ∧
      (∀ j, j ≠ r.slot → w'.slots[j]? = (w.slots[j]?).map Slot.older) ∧
      w' = { w with csr := w'.csr, exited := w'.exited, levels := w'.levels, slots := w'.slots, l := w'.l, rotation := w.rotation + 1,
                    progress := w.progress + 8, lastSlot := r.slot, freshLanes := w.freshLanes &&& ~~~sl.path.mask })) ∧
  (∀ f, Does .tret (.a f) (tretShape f) (fun _ _ _ w _ => w.inTrap = true ∧ w.heldFx = true)
    (fun s t r b w sl => ∃ w', OnlyWarp s t r b w' ∧ Unissued w w' r.slot sl sl.path.pc (.retry false))) ∧
  (∀ f, Does .tret (.a f) (tretShape f)
    (fun _ r _ w sl => w.inTrap = true ∧ w.heldFx = false ∧ w.csr.faultem &&& sl.path.mask = 0 ∧ otherPath w r.slot = false)
    (fun s t r b w _ => OnlyGang s t b.gangId ∧ ∃ w', t.warp? r.bid r.wi = some w' ∧ WarpExited w w'))

/-- Both forms of trap, on a path that nothing hinders, take a precise fault of code TRAP with the path's lanes, the trap code as its address
and the next instruction as its resume address, delivered by takeFault: to the handler, or to the fault record when the grid has none or
INTRAP is 1. A negative code of the L32 form raises ILLEGAL_OPCODE. -/
def Obligations.TrapRaisesItsCode : Prop :=
  (∀ f s r b w sl, Issuing s r b w sl → s.ops = .l32 f → Unhindered (ctlL f true) b w sl →
    Raises .trapL32 s r { code := codeTrap, kind := 0, lanes := sl.path.mask, addr := f.b.setWidth 64, pc := sl.path.pc + 4 }) ∧
  (∀ f s r b w sl, Issuing s r b w sl → s.ops = .b f → Unhindered (ctlB f false false false []) b w sl →
    Raises .trap s r { code := codeTrap, kind := 0, lanes := sl.path.mask, addr := f.imm.setWidth 64, pc := sl.path.pc + 8 }) ∧
  (∀ (f : F32) s r b w sl, Issuing s r b w sl → s.ops = .l32 f → f.b.getLsbD 6 = true →
    Raises .trapL32 s r { code := codeIllegalOpcode, lanes := effMask w sl, addr := 0, pc := faultPc sl }) ∧
  (∀ s r b w (f : Flt), s.block? r.bid = some b → b.warps[r.wi]? = some w → f.code = codeTrap →
    (b.lrec.handler ≠ 0 → w.inTrap = false → takeFault s r f = enterHandler s r f b.lrec.handler) ∧
    ((b.lrec.handler = 0 ∨ w.inTrap = true) → takeFault s r f = recordFault s r.bid r.wi f))

/-- An instruction of any code-plane row whose fields hold a reserved value, a nonzero bit in a field its format or shape marks zero, or a
source-lane modifier where none may stand, raises ILLEGAL_OPCODE for the lanes of its effective mask, whatever else is wrong with it: the
lowest code. -/
def Obligations.IllFormedRaisesIllegalOpcode : Prop :=
  ∀ (x : Ins) s r b w sl, x.instr.row.1 ≠ .event → x.shaped = true → x.wf = false → Issuing s r b w sl → s.ops = x.ops →
    Raises x.instr s r { code := codeIllegalOpcode, lanes := effMask w sl, addr := 0, pc := faultPc sl }

/-- hphase, wswitch, halt, xlat.upd, pgmig and rgn.setclass, a read or write of a register number of the core's aperture, and a write of
SCHEDMODE, whose encoding and operand roles are valid, raise PRIV in a warp whose STATUS.PRIV is 0. -/
def Obligations.PrivilegedFormsRaisePriv : Prop :=
  let turned (i : Instr) (ops : Ops) (sh : Shape) : Prop := ∀ s r b w sl, Issuing s r b w sl → s.ops = ops → w.priv = false →
    sh.opcodeBad = false → (reachCount sl.reach = 0) → sl.ordPfx = none →
    (sh.fields.all (fun f => roleOk b.lrec.regs f.role f.words f.opd)) = true → sh.priv = true →
    Raises i s r { code := codePriv, lanes := effMask w sl, addr := 0, pc := faultPc sl }
  (∀ f, turned .hphase (.a f) (hphaseShape f)) ∧ (∀ f, turned .wswitch (.a f) (wswitchShape f)) ∧
  (∀ f, turned .halt (.a f) (haltShape f)) ∧ (∀ f, turned .xlatUpd (.a f) (xlatShape f)) ∧
  (∀ f, turned .pgmig (.a f) (pgmigShape f)) ∧ (∀ f, turned .rgnSetclass (.a f) (classShape f)) ∧
  (∀ f : FmtB, 0x40 ≤ csrNum f → turned .csrr (.b f) (csrShape f false false) ∧ turned .csrw (.b f) (csrShape f true false) ∧
    turned .csrs (.b f) (csrShape f true false) ∧ turned .csrc (.b f) (csrShape f true false)) ∧
  (∀ f : FmtB, csrNum f = 0x1C → turned .csrw (.b f) (csrShape f true false) ∧ turned .csrs (.b f) (csrShape f true false) ∧
    turned .csrc (.b f) (csrShape f true false))

/-- Words written out in the specification (R302, R305, R337, R349, R355 and the worked encodings of the opcode map), in memory order: each
decodes to its row with its fields, and the words of unassigned opcode numbers decode to none. -/
def Obligations.WorkedWordsDecode : Prop :=
  decode [0x01, 0x00, 0x00, 0x00] = .ok ({ instr := .nop, ops := .l32 { d := 0, a := 0, b := 0 } }, []) ∧
  decode [0x11, 0x22, 0x20, 0x20] = .ok ({ instr := .ldB32L32, ops := .l32 { d := 4, a := 8, b := 16 } }, []) ∧
  decode [0x61, 0xC1, 0xE3, 0x11] = .ok ({ instr := .uaddI32ImmL32, ops := .l32 { d := 120, a := 120, b := 8 } }, []) ∧
  decode [0x03, 0x23, 0x80, 0x00, 0x00, 0x00, 0x24, 0x00] = .ok ({ instr := .ld, ops := .c { d := 4, base := 8, data := 0, off := 4096, width := 2, hint := 0, scope := 0, order := 0, sbase := false, sdata := false } }, []) ∧
  decode [0x8F, 0x51, 0x10, 0x40, 0xC0, 0x00, 0x10, 0x09] = .ok ({ instr := .ffma, ops := .a { d := 10, a := 1, b := 2, c := 3, ty := 0, rnd := 4, strict := 0, lkind := 1, lamt := 1 } }, []) ∧
  decode [0xC1, 0x97, 0x06, 0x00] = .ok ({ instr := .pblk, ops := .pblk { p := 2, c := 2, t := 3, z := 0 } }, []) ∧
  decode [0xC5, 0x57, 0x00, 0x00] = .ok ({ instr := .ordp, ops := .ordp { o := 2, s := 2, z := 0 } }, []) ∧
  decode [0xF8, 0x00] = .ok ({ instr := .s16AddI32, ops := .s16 { d := 3, s := 28 } }, []) ∧
  decode [0x42, 0xC1] = .ok ({ instr := .s16FmulF32, ops := .s16 { d := 5, s := 1 } }, []) ∧
  decode [0xE2, 0x20] = .ok ({ instr := .s16Mov, ops := .s16 { d := 3, s := 17 } }, []) ∧
  decode [0x51, 0x28, 0x04, 0x04] = .ok ({ instr := .mulHiN32L32, ops := .l32 { d := 5, a := 1, b := 2 } }, []) ∧
  decode [0x23, 0x30, 0x20, 0x60, 0x00, 0x00, 0x02, 0x00] = .ok ({ instr := .div, ops := .a { d := 6, a := 2, b := 3, c := 0, ty := 4, rnd := 0, strict := 0, lkind := 0, lamt := 0 } }, []) ∧
  decode [0x5F, 0x01, 0x90, 0x10, 0x09, 0x00, 0x03, 0x00] = .ok ({ instr := .loop, ops := .b { d := 0, a := 265, ty := 0, imm := 0x00030009 } }, []) ∧
  decode [0x63, 0xB1, 0x98, 0x10, 0x80, 0x00, 0x00, 0x00] = .ok ({ instr := .lcmov, ops := .a { d := 278, a := 265, b := 0, c := 2, ty := 0, rnd := 0, strict := 0, lkind := 0, lamt := 0 } }, []) ∧
  decode [0x8F, 0x05, 0x00, 0x00, 0x00, 0x00, 0x00, 0x00] = .ok ({ instr := .csrc, ops := .b { d := 0, a := 0, ty := 0, imm := 0 } }, []) ∧
  decode [0xFD, 0x07, 0x00, 0x00] = .error (.unassignedL32 0x1FF) ∧ decode [0xC9, 0x07, 0x00, 0x00] = .error (.unassignedL32 0x1F2) ∧
  decode [0xD3, 0x03, 0x00, 0x00, 0x00, 0x00, 0x00, 0x00] = .error (.unassignedL64 0x0F4)

/-- For every width of 8, 16, 32 and 64 bits, signed and unsigned, the operations that the integer rows compute give, on the low bits of their
operands: sum, difference, low product and multiply-add modulo 2^n, the high half of the exact product, full products in 2n bits, the
smaller and the larger, absolute value and negation modulo 2^n, and saturated sums with ISAT exactly when a bound was met; the result
extends to 32 bits by the type's sign and to the register with zeros. -/
def Obligations.IntegerValues : Prop :=
  ∀ (n : Nat) (sg : Bool) (fp : Word) (a b c : DWord), n = 8 ∨ n = 16 ∨ n = 32 ∨ n = 64 →
    let t : VTy := { bits := n, signed := sg }
    let x : BitVec n := a.setWidth n
    let y : BitVec n := b.setWidth n
    let z : BitVec n := c.setWidth n
    let num (v : BitVec n) : Int := if sg then v.toInt else v.toNat
    let held (v : BitVec n) : DWord := if n = 64 then v.setWidth 64 else if sg then (v.signExtend 32).setWidth 64 else v.setWidth 64
    let low : Int := if sg then -(2 ^ (n - 1)) else 0
    let high : Int := if sg then 2 ^ (n - 1) - 1 else 2 ^ n - 1
    (lopAdd t).f fp a b c = (held (x + y), 0) ∧ (lopSub t).f fp a b c = (held (x - y), 0) ∧
    (lopMulLo t).f fp a b c = (held (x * y), 0) ∧ (lopMadLo t).f fp a b c = (held (x * y + z), 0) ∧
    (lopMulHi t).f fp a b c = (held (BitVec.ofInt n (num x * num y / 2 ^ n)), 0) ∧
    (lopMadHi t).f fp a b c = (held (BitVec.ofInt n (num x * num y / 2 ^ n) + z), 0) ∧
    (lopMin t).f fp a b c = (held (if num x ≤ num y then x else y), 0) ∧
    (lopMax t).f fp a b c = (held (if num x ≥ num y then x else y), 0) ∧
    (sg = true → (lopAbs t).f fp a b c = (held (if x.toInt < 0 then -x else x), 0) ∧ (lopNeg t).f fp a b c = (held (-x), 0)) ∧
    (let r := num x + num y
     (lopAddSat t).f fp a b c = (held (BitVec.ofInt n (if r < low then low else if high < r then high else r)),
       if r < low ∨ high < r then flISAT else 0)) ∧
    (let r := num x - num y
     (lopSubSat t).f fp a b c = (held (BitVec.ofInt n (if r < low then low else if high < r then high else r)),
       if r < low ∨ high < r then flISAT else 0)) ∧
    (n = 32 → ∀ op, lopMulFull t = some op → op.f fp a b c = (BitVec.ofInt 64 (num x * num y), 0)) ∧
    (lopMov t).f fp a b c = (held x, 0) ∧ (lopMovi t).f fp a b c = (held y, 0) ∧
    (lopSel t).f fp a b c = (held (if c.getLsbD 0 then x else y), 0) ∧
    ((n = 32 ∨ n = 64) → sg = false → ∀ op, lopLea t = some op →
      op.f fp a b c = (held (x + ((if n = 64 then ((b.setWidth 32).signExtend 64).setWidth n else y) <<< (c.toNat % n))), 0))

/-- For every raw type of 8, 16, 32 and 64 bits, the operations of the and, or, xor, andn and not rows give the bitwise result on the type's
bits, zero above them, and no flag. -/
def Obligations.LogicValues : Prop :=
  ∀ (ty : BitVec 3) (t : VTy) (fp : Word) (a b c : DWord), bitTy ty = some t →
    let cut (v : DWord) : DWord := (v.setWidth t.bits).setWidth 64
    (lopAnd t).f fp a b c = (cut (a &&& b), 0) ∧ (lopOr t).f fp a b c = (cut (a ||| b), 0) ∧ (lopXor t).f fp a b c = (cut (a ^^^ b), 0) ∧
    (lopAndn t).f fp a b c = (cut (a &&& ~~~b), 0) ∧ (lopNot t).f fp a b c = (cut (~~~a), 0)

/-- For every width n of 8, 16, 32 and 64 bits and s the low 32 bits of b: shl gives a shifted left by s in n bits (0 when s is n or more);
shr the logical shift for an unsigned type and the arithmetic one for a signed type; rotl and rotr the rotation by s modulo n. S16's
immediate -1 is the amount 0xFFFF_FFFF and gives 0. -/
def Obligations.ShiftValues : Prop :=
  (∀ (n : Nat) (fp : Word) (a b c : DWord), n = 8 ∨ n = 16 ∨ n = 32 ∨ n = 64 →
    let x : BitVec n := a.setWidth n
    let s : Nat := (b.setWidth 32).toNat
    let held (v : BitVec n) : DWord := v.setWidth 64
    let heldS (v : BitVec n) : DWord := if n = 64 then v.setWidth 64 else (v.signExtend 32).setWidth 64
    (lopShl { bits := n, signed := false }).f fp a b c = (held (x <<< s), 0) ∧ (n ≤ s → x <<< s = 0) ∧
    (lopShr { bits := n, signed := false }).f fp a b c = (held (x >>> s), 0) ∧
    (lopShr { bits := n, signed := true }).f fp a b c = (heldS (x.sshiftRight s), 0) ∧
    (lopRotl { bits := n, signed := false }).f fp a b c = (held (x.rotateLeft (s % n)), 0) ∧
    (lopRotr { bits := n, signed := false }).f fp a b c = (held (x.rotateRight (s % n)), 0)) ∧
  (opdS false 31 = .imm 0xFFFFFFFF ∧ ∀ (fp : Word) (a c : DWord), (lopShl tyN32).f fp a 0xFFFFFFFF c = (0, 0))

/-- For 8, 16, 32 and 64 bits: a division by zero gives all ones and the dividend as remainder; the most negative signed number divided by -1
gives itself and remainder 0; every other pair the truncated quotient and the remainder with the dividend's sign; no flag is raised. -/
def Obligations.DivisionValues : Prop :=
  ∀ (n : Nat) (sg : Bool) (fp : Word) (a b c : DWord), n = 8 ∨ n = 16 ∨ n = 32 ∨ n = 64 →
    let t : VTy := { bits := n, signed := sg }
    let x : BitVec n := a.setWidth n
    let y : BitVec n := b.setWidth n
    let num (v : BitVec n) : Int := if sg then v.toInt else v.toNat
    let held (v : BitVec n) : DWord := if n = 64 then v.setWidth 64 else if sg then (v.signExtend 32).setWidth 64 else v.setWidth 64
    (y = 0 → (lopDiv t).f fp a b c = (held (BitVec.allOnes n), 0) ∧ (lopRem t).f fp a b c = (held x, 0)) ∧
    (sg = true → x = BitVec.intMin n → y = BitVec.allOnes n →
      (lopDiv t).f fp a b c = (held x, 0) ∧ (lopRem t).f fp a b c = (0, 0)) ∧
    (y ≠ 0 → ¬(sg = true ∧ x = BitVec.intMin n ∧ y = BitVec.allOnes n) →
      (lopDiv t).f fp a b c = (held (BitVec.ofInt n ((num x).tdiv (num y))), 0) ∧
      (lopRem t).f fp a b c = (held (BitVec.ofInt n ((num x).tmod (num y))), 0))

/-- On FP32 with FTZ 0, in every rounding mode: a NaN operand gives the canonical NaN (NV for a signalling one); infinity minus infinity and
zero times infinity give the canonical NaN with NV; a finite number added to an infinity gives it; a number divided by zero gives infinity
with the product of the signs and DZ; the square root of a negative number is the canonical NaN with NV; fabs and fneg change the sign
alone. -/
def Obligations.FloatSpecialValues : Prop :=
  ∀ (md : Word → RMode) (fp a b : Word) (c : DWord), fp.getLsbD 8 = false →
    let x : DWord := a.setWidth 64
    let y : DWord := b.setWidth 64
    let isNan (v : Word) : Prop := v.extractLsb' 23 8 = 0xFF ∧ v.extractLsb' 0 23 ≠ 0
    let isInf (v : Word) : Prop := v.extractLsb' 0 31 = 0x7F800000
    let isZero (v : Word) : Prop := v.extractLsb' 0 31 = 0
    let finite (v : Word) : Prop := v.extractLsb' 23 8 ≠ 0xFF
    let nan : DWord := BitVec.ofNat 64 (Fmt.nan .f32 |>.getD 0)
    (isNan a ∨ isNan b → ((lopFadd tyF32 md).f fp x y c).1 = nan ∧ ((lopFmul tyF32 md).f fp x y c).1 = nan ∧
      (((lopFadd tyF32 md).f fp x y c).2 = if (isNan a ∧ ¬a.getLsbD 22) ∨ (isNan b ∧ ¬b.getLsbD 22) then flNV else 0)) ∧
    (isInf a → isInf b → a.getLsbD 31 ≠ b.getLsbD 31 → (lopFadd tyF32 md).f fp x y c = (nan, flNV)) ∧
    (isInf a → isInf b → a.getLsbD 31 = b.getLsbD 31 → (lopFsub tyF32 md).f fp x y c = (nan, flNV)) ∧
    (isInf a → finite b → (lopFadd tyF32 md).f fp x y c = (x, 0)) ∧
    (isInf a → isZero b → (lopFmul tyF32 md).f fp x y c = (nan, flNV)) ∧
    (finite a → ¬isZero a → isZero b → (lopFdiv tyF32 md).f fp x y c =
      (((((a ^^^ b) &&& 0x80000000) ||| 0x7F800000) : Word).setWidth 64, flDZ)) ∧
    (finite a → ¬isZero a → a.getLsbD 31 = true → (lopFsqrt tyF32 md).f fp x y c = (nan, flNV)) ∧
    (¬isNan a → (lopFabs tyF32).f fp x y c = (((a &&& 0x7FFFFFFF) : Word).setWidth 64, 0) ∧
      (lopFneg tyF32).f fp x y c = (((a ^^^ 0x80000000) : Word).setWidth 64, 0))

/-- After reset nothing is resident, queued or in flight and no memory is listed; every core issues greedily with every register of its
aperture 0; every bay has slew limits 8 and ramp times 2; every domain has a visitor partition of 4, hotness threshold 4,096 and its
queues off; every wafer a pre-emption gap of 8. These are the reset values of the register tables; values the model chose are in the log
and not here. -/
def Obligations.ResetLeaves : Prop :=
  State.reset.mem = [] ∧ State.reset.blocks = [] ∧ State.reset.grids = [] ∧ State.reset.reqs = [] ∧ State.reset.pends = [] ∧
  State.reset.msgs = [] ∧ State.reset.launches = [] ∧ State.reset.unitOps = [] ∧
  (∀ ck, (State.reset.core ck).schedmode = true ∧ (State.reset.core ck).brks = [] ∧ (State.reset.core ck).perfs = [] ∧
    (State.reset.core ck).locks = [] ∧ (State.reset.core ck).l1 = [] ∧ (State.reset.core ck).icache = []) ∧
  (∀ bk, (State.reset.bay bk).slewUp = 8 ∧ (State.reset.bay bk).slewDown = 8 ∧ (State.reset.bay bk).ramplo = 0x22222222) ∧
  (∀ dk, (State.reset.domain dk).visitor = 4 ∧ (State.reset.domain dk).hotthresh = 4096 ∧ (State.reset.domain dk).hold = false ∧
    (State.reset.domain dk).queues = [] ∧ (State.reset.domain dk).hotq = .init ∧ (State.reset.domain dk).fltq = .init) ∧
  (∀ w, (State.reset.wafer w).preemptgap = 8)

/-- ld in both extensions and ldk, and their L32 forms, where no lane's access meets a precise fault or waits: the path goes on, the
destination's registers are empty, one load of the width and extension is in flight for them in the active lanes (for ldk lane 0 whatever
the mask), and each lane has one request at base + offset, with the order given. A scratchpad lane is answered with its bytes; a strong
lane's request is on its way; lanes whose lines all stand in the L1 while no request of the core is open are answered from it, under the
core's buffered stores. With no active lane a load only goes on. No register value, predicate, special register or memory changes. -/
def Obligations.LoadsComplete : Prop :=
  (∀ f : FmtC,
    let n := widthBytes f.width
    let row (i : Instr) (sx : Bool) : Prop :=
      Loads i (.c f) (memLdShape sx f) (opd9 f.d) n sx f.hint.toNat false (fun _ => ordC f false) (plainCodes n false) (vaC f) (vaC f) ∧
      Skips i (.c f) (memLdShape sx f)
    row .ld false ∧ row .ldSx true ∧
    Loads .ldk (.c f) (memLdkShape f) (opd9 f.d) n false f.hint.toNat true (fun _ => .default false) (plainCodes n false) (vaC f) (vaC f)) ∧
  (∀ f : F32,
    let row (i : Instr) (n : Nat) (sx : Bool) : Prop :=
      Loads i (.l32 f) (memLdLShape n f) (opd7 f.d) n sx 0 false (fun c => ordL c false) (plainCodes n false) (vaL f) (vaL f) ∧
      Skips i (.l32 f) (memLdLShape n f)
    row .ldI8L32 1 true ∧
    row .ldN8L32 1 false ∧
    row .ldI16L32 2 true ∧
    row .ldN16L32 2 false ∧
    row .ldB32L32 4 false ∧
    row .ldB64L32 8 false ∧
    Loads .ldkB32L32 (.l32 f) (memLdkLShape f) (opd7 f.d) 4 false 0 true (fun _ => .default false) (plainCodes 4 false) (vaL f) (vaL f))

/-- st and its L32 forms, where no lane's access meets a precise fault, waits, or lacks room in the write buffer: the path goes on; each weak
lane's bytes are a piece of its line's entry in the write buffer, and the buffer holds no other new piece; each strong lane has a request
with its data on its way; a scratchpad lane's bytes are in the slice, where the highest lane that names a byte gives it; every other byte
of the slice and every line of the L1 that no lane names is as before; a store is in flight while a lane outside the slice has to be
acknowledged. With no active lane a store only goes on. No register, predicate, flag or byte of memory changes. -/
def Obligations.StoresComplete : Prop :=
  (∀ f : FmtC,
    let n := widthBytes f.width
    Stores .st (.c f) (memStShape f) (opd9 f.data) n f.hint.toNat (fun _ => ordC f false) (plainCodes n true) (vaC f) (vaC f) ∧
    Skips .st (.c f) (memStShape f)) ∧
  (∀ f : F32,
    let row (i : Instr) (n : Nat) : Prop :=
      Stores i (.l32 f) (memStLShape n f) (opd7 f.d) n 0 (fun c => ordL c false) (plainCodes n true) (vaL f) (vaL f) ∧
      Skips i (.l32 f) (memStLShape n f)
    row .stB8L32 1 ∧
    row .stB16L32 2 ∧
    row .stB32L32 4 ∧
    row .stB64L32 8)

/-- lds, lds.sx, sts and the L32 forms: the base plus the offset is an offset in the slice; a load's active lanes are answered with the
slice's bytes, a store's bytes are in the slice and all others as before. stm puts each active lane's bytes, where no lane waits, at the same
offset of the window of every member of the gang; of a byte that another source has stored to since the last gang barrier each member keeps
one of the racing values; other bytes of the slices, and other blocks, are as before. -/
def Obligations.ScratchpadFormsComplete : Prop :=
  (∀ f : FmtC,
    let n := widthBytes f.width
    let va (c : Ctx) (j : Nat) : DWord := sliceEa (vaC f c j)
    Loads .lds (.c f) (memLdsShape false f) (opd9 f.d) n false 0 false (fun _ => .bank) (bankCodes n false) (vaC f) va ∧
    Loads .ldsSx (.c f) (memLdsShape true f) (opd9 f.d) n true 0 false (fun _ => .bank) (bankCodes n false) (vaC f) va ∧
    Stores .sts (.c f) (memStsShape f) (opd9 f.data) n 0 (fun _ => .bank) (bankCodes n true) (vaC f) va ∧
    Skips .lds (.c f) (memLdsShape false f) ∧ Skips .ldsSx (.c f) (memLdsShape true f) ∧ Skips .sts (.c f) (memStsShape f)) ∧
  (∀ f : F32,
    let va (c : Ctx) (j : Nat) : DWord := sliceEa (vaL f c j)
    Loads .ldsB32L32 (.l32 f) (memLdsLShape f) (opd7 f.d) 4 false 0 false ordS (bankCodes 4 false) (vaL f) va ∧
    Stores .stsB32L32 (.l32 f) (memStsLShape f) (opd7 f.d) 4 0 ordS (bankCodes 4 true) (vaL f) va ∧
    Skips .ldsB32L32 (.l32 f) (memLdsLShape f) ∧ Skips .stsB32L32 (.l32 f) (memStsLShape f)) ∧
  (∀ f : FmtC,
    let n := widthBytes f.width
    let va (c : Ctx) (j : Nat) : Nat := (vaC f c j).toNat
    let at' (x : Block) (o : Nat) : Nat := 1024 * (x.lrec.scratch - x.lrec.mirror) + o
    Does .stm (.c f) (memStmShape f)
      (fun s r b w sl => let c := ctxAt s .stm (.c f) r b w sl
        ∀ j, c.m.getLsbD j = true →
          va c j % n = 0 ∧ va c j < 1024 * b.lrec.mirror ∧ lockHit s b (sliceVa (at' b (va c j))) n true = false ∧ bankHeld c s j = false)
      (fun s t r b w sl => let c := ctxAt s .stm (.c f) r b w sl
        let mine : Nat := 64 * r.bid + r.wi
        let value (j : Nat) : List Byte := bytesOfNat n (readN b c.warp r.wi (opd9 f.data) (bytesWords n) j).toNat
        let last (j : Nat) : Prop := ∀ k, j < k → c.m.getLsbD k = true → Apart n (va c j) (va c k)
        t = { s with blocks := t.blocks, cores := t.cores, freeCtr := t.freeCtr } ∧
        (∀ ck, { t.core ck with perfs := [] } = { s.core ck with perfs := [] }) ∧
        (∃ w' b', t.block? r.bid = some b' ∧ b'.warps = b.warps.set r.wi w' ∧ PassedOn w w' r.slot sl 8) ∧
        (∀ x, s.block? x.bid = some x → (∀ y ∈ s.blocks, y.gangId = b.gangId → y.bid ≠ x.bid) → x.bid ≠ r.bid → t.block? x.bid = some x) ∧
        (∀ x, s.block? x.bid = some x → x.gangId = b.gangId → ∃ x', t.block? x.bid = some x' ∧
          x' = { x with warps := x'.warps, slice := x'.slice, win := x'.win } ∧ (x.bid ≠ r.bid → x'.warps = x.warps) ∧
          (∀ a, (∀ j, c.m.getLsbD j = true → a < at' x (va c j) ∨ at' x (va c j) + n ≤ a) → memGet x'.slice a = memGet x.slice a) ∧
          (∀ j, c.m.getLsbD j = true → last j →
            (∀ i e, i < n → x.win.get? (at' x (va c j) + i) = some e → e.1 = mine) →
            memRead x'.slice (at' x (va c j)) n = value j) ∧
          (∀ j i, c.m.getLsbD j = true → last j → i < n →
            memGet x'.slice (at' x (va c j) + i) = (value j).getD i 0 ∨
            ∃ e, x.win.get? (at' x (va c j) + i) = some e ∧ e.1 ≠ mine ∧ memGet x'.slice (at' x (va c j) + i) = e.2))))

/-- Each atom of sub-format C and L32, where no lane's access meets a precise fault or waits: the destination is empty and awaits the old
values; a lane outside the slice has a strong request with the operation, the operand and, for cas, the new value; a scratchpad lane's
bytes hold the new value of R390 and it is answered with the old one. A zero destination takes no value. With no active lane it only goes
on. No register value, predicate or memory byte changes, and no flag but those of fadd in the bank. -/
def Obligations.AtomicsComplete : Prop :=
  (∀ f : FmtC,
    let row (i : Instr) (op : RmwOp) : Prop :=
      Updates i (.c f) (memAtomShape op f) op (opd9 f.d) true (opd9 f.data) (widthBytes f.width) (fun _ => ordC f true) (vaC f) ∧
      Skips i (.c f) (memAtomShape op f)
    row .atomAdd .add ∧
    row .atomFadd .fadd ∧
    row .atomMinI .minI ∧
    row .atomMinN .minN ∧
    row .atomMaxI .maxI ∧
    row .atomMaxN .maxN ∧
    row .atomAnd .and ∧
    row .atomOr .or ∧
    row .atomXor .xor ∧
    row .atomXchg .xchg ∧
    row .atomCas .cas ∧
    row .atomIncwrap .incwrap) ∧
  (∀ f : F32,
    let row (i : Instr) (op : RmwOp) : Prop :=
      Updates i (.l32 f) (memAtomLShape f) op (opd7 f.d) true (opd7 f.b) 4 (fun c => ordL c true) (vaL0 f) ∧
      Skips i (.l32 f) (memAtomLShape f)
    row .atomAddN32L32 .add ∧
    row .atomMinI32L32 .minI ∧
    row .atomMaxI32L32 .maxI ∧
    row .atomMinN32L32 .minN ∧
    row .atomMaxN32L32 .maxN ∧
    row .atomAndB32L32 .and ∧
    row .atomOrB32L32 .or ∧
    row .atomXorB32L32 .xor ∧
    row .atomXchgB32L32 .xchg)

/-- Each red of sub-format C and L32, where no lane's access meets a precise fault or waits: a lane outside the slice has a strong request
with the operation and the operand, counted as a store until it is acknowledged; a scratchpad lane's bytes hold the new value of R390; the
path goes on and no register, predicate or memory byte changes, and no flag but those of fadd in the bank. With no active lane it only
goes on. -/
def Obligations.MemoryReductionsComplete : Prop :=
  (∀ f : FmtC,
    let row (i : Instr) (op : RmwOp) : Prop :=
      Updates i (.c f) (memRedShape op f) op .zero false (opd9 f.data) (widthBytes f.width) (fun _ => ordC f true) (vaC f) ∧
      Skips i (.c f) (memRedShape op f)
    row .redAdd .add ∧
    row .redFadd .fadd ∧
    row .redMinI .minI ∧
    row .redMinN .minN ∧
    row .redMaxI .maxI ∧
    row .redMaxN .maxN ∧
    row .redAnd .and ∧
    row .redOr .or ∧
    row .redXor .xor ∧
    row .redIncwrap .incwrap) ∧
  (∀ f : F32,
    let row (i : Instr) (op : RmwOp) : Prop :=
      Updates i (.l32 f) (memRedLShape f) op .zero false (opd7 f.d) 4 (fun c => ordL c true) (vaL f) ∧
      Skips i (.l32 f) (memRedLShape f)
    row .redAddN32L32 .add ∧
    row .redMinI32L32 .minI ∧
    row .redMaxI32L32 .maxI ∧
    row .redMinN32L32 .minN ∧
    row .redMaxN32L32 .maxN ∧
    row .redAndB32L32 .and ∧
    row .redOrB32L32 .or ∧
    row .redXorB32L32 .xor)

/-- waitv sends the strong reads of its lanes and waits, its destination empty. prefetch sends a request for the line of each lane that the L1
does not hold, or none for hint 1 and for spaces without a cache, and goes on. cwb, cinv and cflush of length 0 only go on; otherwise they
wait while the core's write buffer holds a line of the range and act on its lines when it does not, and go on. A fence that has nothing to
wait for goes on, another waits; one with an acquire side and a scope wider than block has emptied the L1, and no line that was read before
it is filled any more. No register or predicate is written. -/
def Obligations.WaitsPrefetchesRangesAndFencesComplete : Prop :=
  (∀ f : FmtC, WaitsOnWord .waitv (.c f) (memWaitvShape f) (opd9 f.d) f.hint.toNat (widthBytes f.width) (opd9 f.data)
      (fun _ => ordC f true) (vaC f) ∧ Skips .waitv (.c f) (memWaitvShape f)) ∧
  (∀ f : F32,
    WaitsOnWord .waitvEqL32 (.l32 f) (memWaitvLShape f) (opd7 f.d) 0 4 (opd7 f.b) (fun c => ordL c true) (vaL0 f) ∧
    WaitsOnWord .waitvNeL32 (.l32 f) (memWaitvLShape f) (opd7 f.d) 1 4 (opd7 f.b) (fun c => ordL c true) (vaL0 f) ∧
    Skips .waitvEqL32 (.l32 f) (memWaitvLShape f) ∧ Skips .waitvNeL32 (.l32 f) (memWaitvLShape f)) ∧
  (∀ f : FmtC, Does .prefetch (.c f) (memPrefetchShape f) always (fun s t r b w sl =>
    let va := vaC f (ctxAt s .prefetch (.c f) r b w sl)
    let miss (j : Nat) : Bool := f.hint != 1 && decide (ownerOf (va j) < 56) &&
      ((s.core b.core).l1Hit (vlineOf (va j)) w.secure w.priv).isNone
    ∃ w', OnlyAccess s t r b { b with warps := b.warps.set r.wi w' } ∧ KeptCaches s t b.core ∧ PassedOn w w' r.slot sl 8 ∧
      t.pends = s.pends ∧ Sent s t (lanesWith (effMask w sl) miss) (fun q => q.kind = .prefetch ∧ q.core = b.core ∧
        q.va = va q.lane &&& ~~~127#64 ∧ q.size = 128 ∧ q.hint = f.hint.toNat ∧ q.stage = .toOwner))) ∧
  (∀ (f : FmtC) (i : Instr) (what : Nat), (i, what) ∈ [(Instr.cwb, 6), (.cinv, 7), (.cflush, 8)] →
    let len (s : State) (b : Block) (w : Warp) (r : PathRef) : Nat := (read32 b (seenWarp s w r.slot) r.wi (opd9 f.data) 0).toNat
    let unit (s : State) (r : PathRef) (b : Block) (w : Warp) (sl : Slot) : UnitOp :=
      { op := s.nextId, what := what, dk := dkOfCk b.core, lo := vaddr (vaC f (ctxAt s i (.c f) r b w sl) 0),
        hi := vaddr (vaC f (ctxAt s i (.c f) r b w sl) 0) + len s b w r, cls := 0, secure := w.secure, waitReqs := [], cores := [],
        tag := none, core := b.core, bid := r.bid, wi := r.wi, host := false, phase := 1 }
    Does i (.c f) (memRangeShape f) (fun s r b w _ => len s b w r = 0)
      (fun s t r b w sl => ∃ w', OnlyWarp s t r b w' ∧ PassedOn w w' r.slot sl 8) ∧
    Does i (.c f) (memRangeShape f) (fun s r b w sl => len s b w r ≠ 0 ∧ rangeBuffered s (unit s r b w sl) = true)
      (fun s t r b w sl => ∃ w', PassedOn w w' r.slot sl 8 ∧
        t.block? r.bid = some { b with warps := b.warps.set r.wi (w'.onSlot r.slot (fun x => { x with wait := .range s.nextId })) } ∧
        (∀ bid, bid ≠ r.bid → t.block? bid = s.block? bid) ∧ (∀ ck, { t.core ck with perfs := [] } = { s.core ck with perfs := [] }) ∧
        t.unitOps = s.unitOps ++ [unit s r b w sl] ∧
        t = { s with blocks := t.blocks, cores := t.cores, freeCtr := t.freeCtr, unitOps := t.unitOps, nextId := s.nextId + 1 }) ∧
    Does i (.c f) (memRangeShape f) (fun s r b w sl => len s b w r ≠ 0 ∧ rangeBuffered s (unit s r b w sl) = false)
      (fun s t r b w sl => ∃ w1 s1 w', OnlyWarp s s1 r b w1 ∧ t.block? r.bid = some { b with warps := b.warps.set r.wi w' } ∧
        (∀ bid, bid ≠ r.bid → t.block? bid = s.block? bid) ∧ PassedOn w w' r.slot sl 8 ∧
        t = advance (ctxOf i (.c f) r b w sl) (rangeRun { s1 with nextId := s.nextId + 1 } (unit s r b w sl)))) ∧
  (∀ (f : FmtC) (i : Instr) (acq : Bool), (i, acq) ∈ [(Instr.fenceAcq, true), (.fenceRel, false), (.fenceAr, true), (.fenceSc, true)] →
    Does i (.c f) (memFenceShape f) (fun s r b w sl => fenceWaits (scopeOf f.scope) (ctxAt s i (.c f) r b w sl) s = false)
      (fun s t r b w sl => ∃ w', OnlyAccess s t r b { b with warps := b.warps.set r.wi w' } ∧ PassedOn w w' r.slot sl 8 ∧
        (t.core b.core).wb = (s.core b.core).wb ∧ t.pends = s.pends ∧ t.nextId = s.nextId ∧
        t.reqs.map (fun q => { q with fill := false }) = s.reqs.map (fun q => { q with fill := false }) ∧
        (if acq = true ∧ scopeOf f.scope ≠ .block then (t.core b.core).l1 = [] ∧
            ∀ q ∈ t.reqs, q.core = b.core → q.stage.hasRead = true → q.fill = false
          else (t.core b.core).l1 = (s.core b.core).l1 ∧ t.reqs = s.reqs)) ∧
    Does i (.c f) (memFenceShape f) (fun s r b w sl => fenceWaits (scopeOf f.scope) (ctxAt s i (.c f) r b w sl) s = true)
      (fun s t r b w sl => ∃ w', OnlyWarp s t r b w' ∧ Unissued w w' r.slot sl sl.path.pc (.retry false)))

/-- hld, hst, hldf, hstf, hcas, hpin, hunpin and hsize, where no lane's reference meets a precise fault and nothing waits: each active lane
has a strong request for the field at the reference's address plus the offset plus the index, with the object's address, the data and the
comparand; the destinations are empty (hpin: the reference and the pair of the raw alias) and one instruction is in flight for them; a
store is in flight until it is acknowledged. With no active lane they only go on. No value, predicate, flag or byte of memory changes. -/
def Obligations.ReferenceAccessesComplete : Prop :=
  let none' : Ctx → Nat → DWord := fun _ _ => 0
  (∀ f : FmtC,
    let n := widthBytes f.width
    let off := offC f
    let mo := ordC f true
    Refers .hld (.c f) (hldShape f) .refLoad .refLoad (opd9 f.d) .zero 2 (opd9 f.base) (opd9 f.data) off 8 false mo none' none' ∧
    Refers .hst (.c f) (hstShape f) .refStore .store .zero .zero 2 (opd9 f.base) (opd9 f.d) off 8 true mo
      (fun c j => refLane c (opd9 f.data) 2 j) none' ∧
    Refers .hldf (.c f) (hldfShape f) .fieldLoad (.load n false) (opd9 f.d) .zero (bytesWords n) (opd9 f.base) (opd9 f.data) off n false mo
      none' none' ∧
    Refers .hstf (.c f) (hstfShape f) .fieldStore .store .zero .zero 2 (opd9 f.base) (opd9 f.d) off n true mo
      (fun c j => refLane c (opd9 f.data) (bytesWords n) j) none' ∧
    Refers .hcas (.c f) (hcasShape f) .refCas .refLoad (opd9 f.d) .zero 2 (opd9 f.base) .zero off 8 true mo
      (fun c j => refLane c (opd9 f.d) 2 j) (fun c j => refLane c (opd9 f.data) 2 j) ∧
    Skips .hld (.c f) (hldShape f) ∧ Skips .hst (.c f) (hstShape f) ∧ Skips .hldf (.c f) (hldfShape f) ∧ Skips .hstf (.c f) (hstfShape f) ∧
    Skips .hcas (.c f) (hcasShape f)) ∧
  (∀ f : FmtA,
    Refers .hpin (.a f) (hpinShape f) (.pin true) (.pin true) (opd9 f.d) (opd9 f.b) 2 (opd9 f.a) .zero 0 8 true
      { order := .acq, scope := .system, strong := true } (fun c j => refLane c (opd9 f.a) 2 j) none' ∧
    Refers .hunpin (.a f) (hunpinShape f) (.pin false) (.pin false) (opd9 f.d) .zero 2 (opd9 f.a) .zero 0 8 true
      { order := .rel, scope := .system, strong := true } (fun c j => refLane c (opd9 f.a) 2 j) none' ∧
    Refers .hsize (.a f) (hsizeShape f) .size .hsize (opd9 f.d) .zero 1 (opd9 f.a) .zero 0 8 false (.default true) none' none' ∧
    Skips .hpin (.a f) (hpinShape f) ∧ Skips .hunpin (.a f) (hunpinShape f) ∧ Skips .hsize (.a f) (hsizeShape f))

/-- hcopy between h registers and its export copy the 64 bits in the active lanes; its import leaves the h register empty and answers each
lane's request with the bits read, to pass the barrier; hnull writes the null reference; hcmp, with a request slot free, leaves its destination
empty, answers each lane the core decides itself, and asks to resolve each stale reference of the others. hphase of privileged code, with nothing to fence,
gives its world the new colour, empties the L1 and waits until every core's copy holds it. -/
def Obligations.ReferenceCopiesComplete : Prop :=
  ∀ f : FmtA,
    (hcopyImport f = false → ValueRow .hcopy (.a f) (hcopyShape f) (opd9 f.d) 2 (fun b w r _ i => read64 b w r.wi (opd9 f.a) i) noFlags) ∧
    ValueRow .hnull (.a f) (hnullShape f) (opd9 f.d) 2 (fun _ _ _ _ _ => nullRef) noFlags ∧
    (hcopyImport f = true → Does .hcopy (.a f) (hcopyShape f) (fun _ _ _ w sl => effMask w sl ≠ 0) (fun s t r b w sl =>
      let c := ctxAt s .hcopy (.a f) r b w sl
      ∃ w', OnlyRequests s t r b w' ∧ Emptied (regsOf (opd9 f.d) 2) w w' r sl 8 ∧
        InFlight s t c .refLoad (dstOf (opd9 f.d) 2) .none c.m .plain .block ∧
        Sent s t c.m (fun q => q.tag = s.nextId ∧ q.bid = r.bid ∧ q.wi = r.wi ∧ q.stage = .answered ∧
          q.value = (read64 b c.warp r.wi (opd9 f.a) q.lane).setWidth 128 ∧ q.va = refAddr (read64 b c.warp r.wi (opd9 f.a) q.lane)))) ∧
    Skips .hcopy (.a f) (hcopyShape f) ∧ Skips .hcmp (.a f) (hcmpShape f) ∧
    Does .hcmp (.a f) (hcmpShape f) (fun s _ b w sl => effMask w sl ≠ 0 ∧ slotsTaken s b.core = false) (fun s t r b w sl =>
      let c := ctxAt s .hcmp (.a f) r b w sl
      let x (j : Nat) : DWord := read64 b c.warp r.wi (opd9 f.a) j
      let y (j : Nat) : DWord := read64 b c.warp r.wi (opd9 f.b) j
      let wk := waferOf (dkOfCk b.core)
      let good : BitVec 2 := (s.wafer wk).phase.get 0 (worldNum w.secure)
      ∃ w', OnlyRequests s t r b w' ∧ Emptied (regsOf (opd9 f.d) 1) w w' r sl 8 ∧
        InFlight s t c .hcmp (dstOf (opd9 f.d) 1) .none c.m .plain .block ∧
        ∃ new, t.reqs = s.reqs ++ new ∧ (∀ q ∈ new, q.tag = s.nextId ∧ q.bid = r.bid ∧ q.wi = r.wi ∧ c.m.getLsbD q.lane = true) ∧
          (∀ j, c.m.getLsbD j = true → ∃ q ∈ new, q.lane = j) ∧
          ((∀ u ∈ s.unitOps, u.what = 3 → waferOf u.dk = wk → u.secure ≠ w.secure) → ∀ q ∈ new,
            (∀ v, hcmpLocal good (x q.lane) (y q.lane) = some v → q.stage = .answered ∧ q.value = if v then 1 else 0) ∧
            (hcmpLocal good (x q.lane) (y q.lane) = none →
              (q.stage = .answered ∧ q.value = 0) ∨
              (q.kind = .resolve ∧ refColour q.cmp ≠ good ∧ (q.cmp = x q.lane ∨ q.cmp = y q.lane))))) ∧
    Does .hphase (.a f) (hphaseShape f) (fun s r b w sl => fenceWaits .wafer (ctxAt s .hphase (.a f) r b w sl) s = false) (fun s t r b w sl =>
      let a := read32 b (seenWarp s w r.slot) r.wi (opd9 f.a) 0
      let wk := waferOf (dkOfCk b.core)
      let world := worldNum (w.secure && a.getLsbD 8)
      ∃ w', PassedOn w w' r.slot sl 8 ∧
        t.block? r.bid = some { b with warps := b.warps.set r.wi (w'.onSlot r.slot (fun x => { x with wait := .unit s.nextId })) } ∧
        (∀ bid, bid ≠ r.bid → t.block? bid = s.block? bid) ∧ (t.core b.core).l1 = [] ∧
        (∀ ck, { t.core ck with perfs := [], l1 := [] } = { s.core ck with perfs := [], l1 := [] }) ∧
        (∀ ck, ck ≠ b.core → (t.core ck).l1 = (s.core ck).l1) ∧
        (t.wafer wk).phase.get 0 world = a.extractLsb' 0 2 ∧
        (∀ k, { t.wafer k with phase := (s.wafer k).phase } = s.wafer k) ∧
        (∃ u, t.unitOps = s.unitOps ++ [u] ∧ u.op = s.nextId ∧ u.what = 3 ∧ u.dk = dkOfCk b.core ∧ u.secure = (w.secure && a.getLsbD 8) ∧
          u.cls = ((s.wafer wk).phase.get 0 world).toNat) ∧
        t.reqs.map (fun q => { q with fill := false }) = s.reqs.map (fun q => { q with fill := false }) ∧
        t = { s with blocks := t.blocks, cores := t.cores, freeCtr := t.freeCtr, wafers := t.wafers, reqs := t.reqs, unitOps := t.unitOps,
                     nextId := s.nextId + 1 })

/-- mma, mma.pair, mzero, mload, mrow and mdrain whose operands meet their precise checks, with the array free, fewer than 16 of the block's
operations not begun and the range-lock entries free: the operation is last in the core's matrix queue with the words of its k groups (for
mrow.put the 32 pairs), its spans stand in the lowest free entries, it is open for the next batch, and the path goes on. mrow.get leaves
its pair empty, with an instruction in flight for all 32 lanes. mdrain also puts its command last in the Fixer's queue. Nothing else
changes. -/
def Obligations.MatrixOperationsComplete : Prop :=
  ∀ f : FmtA,
    let a (n : Nat) (c : Ctx) : List Word := kGroup c.warp (opd9 f.a) n
    let b' (n : Nat) (c : Ctx) : List Word := kGroup c.warp (opd9 f.b) n
    let row (c : Ctx) : Word := read32 c.blk c.warp c.ref.wi (opd9 f.a) 0
    let mma (i : Instr) (pair : Bool) : Prop :=
      Enqueues i (.a f) (mmaShape f) (fun c => mmaChecks pair f c.blk (a 4 c) (b' 4 c) = []) (fun c => a 4 c ++ b' 4 c) (fun _ => [])
        (fun c op => [lockFor c op false (if pair then 1 else 0) (matSpan c.blk (fmtA f) (wordAt (a 4 c) 3) (addrAt (a 4 c) 0) (wordAt (a 4 c) 2)),
          lockFor c op false (if pair then 1 else 0) (matSpan c.blk (fmtB f) (wordAt (a 4 c) 3) (addrAt (b' 4 c) 0) (wordAt (b' 4 c) 2))])
    mma .mma false ∧ mma .mmaPair true ∧
    Enqueues .mzero (.a f) (mzeroShape f) (fun _ => True) (fun _ => []) (fun _ => []) (fun _ _ => []) ∧
    Enqueues .mload (.a f) (mloadShape f) (fun c => (mloadSpan f c.blk (a 4 c)).codes = []) (a 4) (fun _ => [])
      (fun c op => [lockFor c op false 2 (mloadSpan f c.blk (a 4 c))]) ∧
    (mrowPut f = true → Enqueues .mrow (.a f) (mrowShape f) (fun c => (row c).toNat ≤ 63) (fun c => [row c])
      (fun c => lanes32.map (read64 c.blk c.warp c.ref.wi (opd9 f.d))) (fun _ _ => [])) ∧
    (mrowPut f = false → DoesIn .mrow (.a f) (mrowShape f)
      (fun s r b w sl => (row (ctxAt s .mrow (.a f) r b w sl)).toNat ≤ 63 ∧ ArrayRoom s r b 0)
      (fun s t r b w sl => let c := ctxAt s .mrow (.a f) r b w sl
        ∃ w1 w', OnlyUnit s t r b w' ∧ Emptied (regsOf (opd9 f.d) 2) w w1 r sl 8 ∧ w'.engCmds = w.engCmds ∧
          Enqueued s t c w1 w' [row c] [] (s.nextId + 1) [] ∧ t.bays = s.bays ∧ t.nextId = s.nextId + 2 ∧
          ∃ p, t.pends = s.pends ++ [p] ∧ p.tag = s.nextId + 1 ∧ p.bid = r.bid ∧ p.wi = r.wi ∧ p.kind = .matrix ∧
            p.dst = dstOf (opd9 f.d) 2 ∧ p.need = BitVec.allOnes 32)) ∧
    DoesIn .mdrain (.a f) (mdrainShape f)
      (fun s r b w sl => let c := ctxAt s .mdrain (.a f) r b w sl
        shapeChecks 2 (a 8 c) (b' 4 c) b = [] ∧ ArrayRoom s r b 1 ∧ (s.bay (bkOfCk b.core)).fix.length < 32)
      (fun s t r b w sl => let c := ctxAt s .mdrain (.a f) r b w sl
        ∃ w1 w', OnlyUnit s t r b w' ∧ PassedOn w w1 r.slot sl 8 ∧ w'.engCmds = w.engCmds ++ [(s.nextId, true)] ∧
          Enqueued s t c w1 w' (a 8 c ++ b' 4 c) [] 0 [lockFor c s.nextId true 5 ((shapeOf (a 8 c)).tensorSpan b)] ∧
          EngineTook s t (bkOfCk b.core) (engCmd c s.nextId 2 (a 8 c) (b' 4 c)) ∧ t.pends = s.pends ∧ t.nextId = s.nextId + 1)

/-- mbatch numbers the open operations as the next batch, writes its number to D and lets BATCHDONE pass the batches at the head that have no
operation left; mwait goes on when its batch is done and otherwise waits for it. enl and fix whose record meets the checks, with a place
in the engine's queue and the range-lock entries free, put their command last in the bay's queue. ewait goes on when at most min(a + imm,
2^32 - 1) of the warp's commands are left, with their number in D, and otherwise waits. Nothing else changes. -/
def Obligations.BatchesAndEnginesComplete : Prop :=
  (∀ f, Does .mbatch (.a f) (mbatchShape f) always (fun s t r b w sl =>
    let n := w.csr.batchIssued + 1
    let done := advBatches (w.batches ++ [(n.toNat, w.openOps)]) w.csr.batchDone
    ∃ w1 w', OnlyWarp s t r b w' ∧ UniformDone (opd9 f.d) 1 (n.setWidth 64) w w1 r sl 8 ∧
      w' = { w1 with batches := done.1, openOps := [], csr := { w.csr with batchIssued := n, batchDone := done.2 } })) ∧
  (∀ f : FmtB,
    let batch (s : State) (b : Block) (w : Warp) (r : PathRef) (sl : Slot) : BitVec 16 :=
      let k := (read32 b (seenWarp s w r.slot) r.wi (opd9 f.a) 0).setWidth 16 + f.imm.extractLsb' 0 16
      let n := if f.imm.getLsbD 16 then w.csr.batchIssued - k else k
      match sl.wait with
      | .mwait m => BitVec.ofNat 16 m
      | _ => if batchAhead n w.csr.batchIssued then w.csr.batchIssued else n
    Does .mwait (.b f) (mwaitShape f) (fun s r b w sl => batchAhead (batch s b w r sl) w.csr.batchDone = false)
      (fun s t r b w sl => ∃ w', OnlyWarp s t r b w' ∧ PassedOn w w' r.slot sl 8) ∧
    Does .mwait (.b f) (mwaitShape f) (fun s r b w sl => batchAhead (batch s b w r sl) w.csr.batchDone = true)
      (fun s t r b w sl => ∃ w', OnlyWarp s t r b w' ∧ Unissued w w' r.slot sl (faultPc sl) (.mwait (batch s b w r sl).toNat))) ∧
  (∀ (f : FmtA) (i : Instr) (kind : Nat), (i, kind) ∈ [(Instr.enl, 0), (.fix, 1)] →
    let ws (w : Warp) : List Word := kGroup w (opd9 f.a) 8
    let cp (w : Warp) : List Word := kGroup w (opd9 f.b) 4
    let locks (c : Ctx) (id : Nat) : List RLock :=
      if kind = 0 then [lockFor c id false 3 ((shapeOf (ws c.warp)).tensorSpan c.blk), lockFor c id true 4 (shapeOf (ws c.warp)).localSpan]
      else [lockFor c id true 6 ((shapeOf (ws c.warp)).tensorSpan c.blk)]
    Does i (.a f) (engShape f)
      (fun s _ b w _ => shapeChecks kind (ws w) (cp w) b = [] ∧ 2 - kind ≤ (s.core b.core).freeLocks.length ∧ (s.core b.core).owed = [] ∧
        (if kind = 0 then (s.bay (bkOfCk b.core)).enl.length else (s.bay (bkOfCk b.core)).fix.length) < 32)
      (fun s t r b w sl => let c := ctxAt s i (.a f) r b w sl
        ∃ w1 w', OnlyUnit s t r b w' ∧ PassedOn w w1 r.slot sl 8 ∧
          w' = { w1 with engCmds := w.engCmds ++ [(s.nextId, kind != 0)] } ∧
          EngineTook s t (bkOfCk b.core) (engCmd c s.nextId kind (ws w) (cp w)) ∧
          (t.core b.core).locks = ((s.core b.core).claim (locks c s.nextId)).locks ∧ (t.core b.core).matq = (s.core b.core).matq ∧
          t.pends = s.pends ∧ t.nextId = s.nextId + 1)) ∧
  (∀ f : FmtB,
    let asked (s : State) (b : Block) (w : Warp) (r : PathRef) (sl : Slot) : List (Nat × Bool) × Nat :=
      match sl.wait with
      | .ewait ids n => (ids, n)
      | _ => (w.engCmds, min ((read32 b (seenWarp s w r.slot) r.wi (opd9 f.a) 0).toNat + f.imm.toNat) (2 ^ 32 - 1))
    let left (s : State) (ids : List (Nat × Bool)) : Nat :=
      (ids.filter (fun x => s.bays.any (fun e => e.2.enl.any (·.id == x.1) || e.2.fix.any (·.id == x.1)))).length
    Does .ewait (.b f) (ewaitShape f) (fun s r b w sl => left s (asked s b w r sl).1 ≤ (asked s b w r sl).2)
      (fun s t r b w sl => let ids := (asked s b w r sl).1
        ∃ w1 w', OnlyAccess s t r b { b with warps := b.warps.set r.wi w' } ∧
        UniformDone (opd9 f.d) 1 (BitVec.ofNat 64 (left s ids)) w w1 r sl 8 ∧
        w' = { w1 with engCmds := w.engCmds.filter (fun x => left s [x] != 0) } ∧
        (t.core b.core).wb = (s.core b.core).wb ∧ t.pends = s.pends ∧ t.nextId = s.nextId ∧
        (if ∃ x ∈ ids, x.2 = true ∧ left s [x] = 0 then (t.core b.core).l1 = [] else (t.core b.core).l1 = (s.core b.core).l1) ∧
        t.reqs.map (fun q => { q with fill := false }) = s.reqs.map (fun q => { q with fill := false })) ∧
    Does .ewait (.b f) (ewaitShape f) (fun s r b w sl => (asked s b w r sl).2 < left s (asked s b w r sl).1)
      (fun s t r b w sl => ∃ w', OnlyWarp s t r b w' ∧
        Unissued w w' r.slot sl (faultPc sl) (.ewait (asked s b w r sl).1 (asked s b w r sl).2)))

/-- For named barriers below the declared number and the gang barrier: arrive sets the warp's ARRIVED bit, clears its PASSED bit and goes on;
wait goes on and clears PASSED when ARRIVED is 0, and waits otherwise; sync arrives and waits; reset clears a word without arrivals. An arrival
whose earlier accesses a release has to wait for waits with no effect. A number at or above the declared one, an arrival of a warp that has
arrived, a wait of one that has neither arrived nor passed, and a reset with an arrival raise BARRIER_STATE. After an arrival the barrier is
tested: when every warp that has not exited has arrived, ARRIVED becomes 0 and PASSED collects the arrivals of the warps that were not waiting,
whose paths go on; for a gang in every member, whose L1 is emptied. -/
def Obligations.BarriersComplete : Prop :=
  let arrived (x : DWord) (w : Nat) : Bool := x.getLsbD w
  let passed (x : DWord) (w : Nat) : Bool := x.getLsbD (32 + w)
  let enter (x : DWord) (w : Nat) : DWord := (x &&& ~~~(1#64 <<< (32 + w))) ||| (1#64 <<< w)
  let state (w : Warp) (sl : Slot) : Flt := { code := codeBarrier, lanes := effMask w sl, addr := 0, pc := faultPc sl }
  let row (u : BarUnit) (f : F32) (arrive wait sync : Instr) : Prop :=
    let valid (b : Block) : Prop := u.gang = true ∨ u.n < b.lrec.barriers
    let held (i : Instr) (s : State) (r : PathRef) (b : Block) (w : Warp) (sl : Slot) : Bool :=
      fenceWaits (if u.gang then .domain else .block) (ctxAt s i (.l32 f) r b w sl) s
    let turned (i : Instr) (bad : Block → PathRef → Prop) : Prop :=
      ∀ s r b w sl, Issuing s r b w sl → s.ops = .l32 f → Unhindered (barShape u.gang f) b w sl → bad b r → Raises i s r (state w sl)
    let waits (i : Instr) : Prop := Does i (.l32 f) (barShape u.gang f)
      (fun s r b w sl => valid b ∧ arrived (u.word b) r.wi = false ∧ held i s r b w sl = true)
      (fun s t r b w sl => ∃ w', OnlyWarp s t r b w' ∧ Unissued w w' r.slot sl sl.path.pc (.retry false))
    Does arrive (.l32 f) (barShape u.gang f)
      (fun s r b w sl => valid b ∧ arrived (u.word b) r.wi = false ∧ held arrive s r b w sl = false)
      (fun s t r b w sl => ∃ s1 w' x, OnlyWarp s s1 r b w' ∧ PassedOn w w' r.slot sl 4 ∧
        t = u.test (s1.updBlock r.bid (fun x => u.put x (enter (u.word x) r.wi))) b ∧
        t.slot? r = some x ∧ x.live = true ∧ x.wait = .ready ∧ x.path.pc = (loopEnd 3 w (sl.path.pc + 4)).1 ∧ x.path.mask = sl.path.mask) ∧
    Does wait (.l32 f) (barShape u.gang f)
      (fun _ r b _ _ => valid b ∧ arrived (u.word b) r.wi = false ∧ passed (u.word b) r.wi = true)
      (fun s t r b w sl => ∃ s1 w', OnlyWarp s s1 r b w' ∧ PassedOn w w' r.slot sl 4 ∧
        t = s1.updBlock r.bid (fun x => u.put x (u.word x &&& ~~~(1#64 <<< (32 + r.wi))))) ∧
    Does wait (.l32 f) (barShape u.gang f) (fun _ r b _ _ => valid b ∧ arrived (u.word b) r.wi = true)
      (fun s t r b w sl => ∃ w', OnlyWaits s t r b w' ∧ t.pends = s.pends ∧ t.unitOps = s.unitOps ∧ t.nextId = s.nextId ∧
        Parked w w' r.slot sl (faultPc sl) u.wait [] 4) ∧
    Does sync (.l32 f) (barShape u.gang f)
      (fun s r b w sl => valid b ∧ arrived (u.word b) r.wi = false ∧ held sync s r b w sl = false)
      (fun s t r b w sl => ∃ s1 w' x, OnlyWarp s s1 r b w' ∧ Parked w w' r.slot sl (faultPc sl) u.wait [] 4 ∧
        t = u.test (s1.updBlock r.bid (fun x => u.put x (enter (u.word x) r.wi))) b ∧
        t.slot? r = some x ∧ x.live = true ∧ x.path.mask = sl.path.mask ∧ (x.wait = .ready ∨ x.wait = u.wait)) ∧
    waits arrive ∧ waits sync ∧
    turned arrive (fun b r => ¬valid b ∨ arrived (u.word b) r.wi = true) ∧ turned sync (fun b r => ¬valid b ∨ arrived (u.word b) r.wi = true) ∧
    turned wait (fun b r => ¬valid b ∨ (arrived (u.word b) r.wi = false ∧ passed (u.word b) r.wi = false))
  (∀ f, row (barOf f) f .barArrive .barWait .barSync ∧ row gangBar f .gbarArrive .gbarWait .gbar) ∧
  (∀ f, Does .barReset (.l32 f) (barShape false f)
    (fun _ _ b _ _ => f.b.toNat < b.lrec.barriers ∧ arrivedOf (b.bars.get 0 f.b.toNat) = 0)
    (fun s t r b w sl => ∃ s1 w', OnlyWarp s s1 r b w' ∧ PassedOn w w' r.slot sl 4 ∧
      t = s1.updBlock r.bid (fun x => { x with bars := x.bars.set f.b.toNat 0 }))) ∧
  (∀ f s r b w sl, Issuing s r b w sl → s.ops = .l32 f → Unhindered (barShape false f) b w sl →
    (b.lrec.barriers ≤ f.b.toNat ∨ arrivedOf (b.bars.get 0 f.b.toNat) ≠ 0) → Raises .barReset s r (state w sl)) ∧
  (∀ (b : Block) (n : Nat),
    let all : Prop := ∀ (i : Nat) (w : Warp), b.warps[i]? = some w → w.done = false → (arrivedOf (b.bars.get 0 n)).getLsbD i = true
    let some' := arrivedOf (b.bars.get 0 n) ≠ 0
    (¬(all ∧ some') → testBar b n = b) ∧
    (all → some' → arrivedOf ((testBar b n).bars.get 0 n) = 0 ∧
      (∀ i < 32, passed ((testBar b n).bars.get 0 n) i = ((passed (b.bars.get 0 n) i || arrived (b.bars.get 0 n) i) &&
        !(match b.warps[i]? with | some w => w.slots.any (fun sl => sl.live && sl.wait == .bar n) | none => false))) ∧
      (∀ (i : Nat) (w : Warp), b.warps[i]? = some w → ∃ w' : Warp, (testBar b n).warps[i]? = some w' ∧
        ∀ (j : Nat) (sl : Slot), w.slots[j]? = some sl → ∃ sl' : Slot, w'.slots[j]? = some sl' ∧
          sl'.wait = (if sl.live = true ∧ sl.wait = .bar n then .ready else sl.wait)) ∧
      (∀ k, k ≠ n → (testBar b n).bars.get 0 k = b.bars.get 0 k))) ∧
  (∀ (s : State) (gang : Nat),
    let members := s.blocks.filter (fun b => b.gangId == gang)
    let all : Prop := ∀ b ∈ members, ∀ (i : Nat) (w : Warp), b.warps[i]? = some w → w.done = false → (arrivedOf b.gbar).getLsbD i = true
    let some' := ∃ b ∈ members, arrivedOf b.gbar ≠ 0
    (¬(all ∧ some') → testGbar s gang = s) ∧
    (all → some' → (∀ b ∈ members, ((testGbar s gang).core b.core).l1 = []) ∧
      (∀ b, s.block? b.bid = some b → b.gangId = gang → ∃ b', (testGbar s gang).block? b.bid = some b' ∧ arrivedOf b'.gbar = 0 ∧
        (∀ i < 32, passed b'.gbar i = ((passed b.gbar i || arrived b.gbar i) &&
          !(match b.warps[i]? with | some w => w.slots.any (fun sl => sl.live && sl.wait == .gbar) | none => false))) ∧
        (∀ (i : Nat) (w : Warp), b.warps[i]? = some w → ∃ w' : Warp, b'.warps[i]? = some w' ∧
          ∀ (j : Nat) (sl : Slot), w.slots[j]? = some sl → ∃ sl' : Slot, w'.slots[j]? = some sl' ∧
            sl'.wait = (if sl.live = true ∧ sl.wait = .gbar then .ready else sl.wait))) ∧
      (∀ b, s.block? b.bid = some b → b.gangId ≠ gang → (testGbar s gang).block? b.bid = some b)))

/-- lfirst.bc and gid write their k register or pair; gpoll its predicate's active lanes or k register; gstat and perf leave their pair empty
until the count arrives; glaunch in its three scopes, whose record meets no precise fault, waits while the record is read; gcancel sends
the request that its grid's root takes, and none for a grid it does not know or of another world; ghint names a domain that is up, or
none; gfault delivers the fault it names to the fault record. Nothing else changes. -/
def Obligations.LaunchAndGridRowsComplete : Prop :=
  ∀ f : FmtA,
    let pair (s : State) (b : Block) (w : Warp) (r : PathRef) : DWord := read64 b (seenWarp s w r.slot) r.wi (opd9 f.a) 0
    let word (s : State) (b : Block) (w : Warp) (r : PathRef) : Word := read32 b (seenWarp s w r.slot) r.wi (opd9 f.a) 0
    UniValueRow .lfirstBc (.a f) (lfirstBcShape f) (opd9 f.d) 1
      (fun b w r sl => if sl.path.mask = 0 then 0 else (read32 b w r.wi (opd9 f.a) (lowLane sl.path.mask)).setWidth 64) noFlags ∧
    UniValueRow .gid (.a f) (gidShape f) (opd9 f.d) 2 (fun b _ _ _ => BitVec.ofNat 64 b.gid) noFlags ∧
    ((opd9 f.d).isPred = true → ValueRow .gpoll (.a f) (gpollShape f) (opd9 f.d) 1 (fun b _ _ _ _ => truth b.cancel) noFlags) ∧
    ((opd9 f.d).isPred = false → UniValueRow .gpoll (.a f) (gpollShape f) (opd9 f.d) 1 (fun b _ _ _ => truth b.cancel) noFlags) ∧
    Does .gstat (.a f) (gstatShape f) always (fun s t r b w sl =>
      let x : GridCnt := match s.grid? b.gid with | some g => g.arbors.get .zero (dkOfCk b.core) | none => .zero
      let n := match f.c.toNat with | 0 => x.dealt | 1 => x.started | 2 => x.retired | _ => x.discarded
      ArrivesUni s t r b w sl (opd9 f.d) 2 (BitVec.ofNat 128 n) id) ∧
    Does .perf (.a f) (perfShape f) always (fun s t r b w sl =>
      let p := (s.core b.core).perfs.get .init ((word s b w r).toNat % 4)
      ∃ k ≤ 1, ArrivesUni s t r b w sl (opd9 f.d) 2 ((p.cnt + BitVec.ofNat 64 k).setWidth 128) id ∧
        (p.sel.getLsbD 10 = false → k = 0)) ∧
    (∀ i ∈ [Instr.glaunchDomain, .glaunchWafer, .glaunchPod], Does i (.a f) (glaunchShape f)
      (fun s r b w _ => laneCodes s b (pair s b w r) 128 false true w.priv = [])
      (fun s t r b w sl => ∃ w' p, OnlyWaits s t r b w' ∧ t.unitOps = s.unitOps ∧ t.nextId = s.nextId + 1 ∧
        Parked w w' r.slot sl (faultPc sl) (.record s.nextId none) [] 8 ∧ t.pends = s.pends ++ [p] ∧ p.tag = s.nextId ∧ p.bid = r.bid ∧
        p.wi = r.wi ∧ p.kind = .record ∧ p.enc = (ctxOf i (.a f) r b w sl).enc ∧ p.aux.get? 0 = some (pair s b w r))) ∧
    Does .gcancel (.a f) (gcancelShape f) always (fun s t r b w sl => ∃ s1 w', OnlyWarp s s1 r b w' ∧ PassedOn w w' r.slot sl 8 ∧
      t = match s.grid? (pair s b w r).toNat with
        | none => s1
        | some g => if g.lrec.world = true ∧ w.secure = false then s1 else
            { s1 with msgs := s.msgs ++ [{ id := s.nextId, body := .cancel g.gid g.rootLvl g.rootKey }], nextId := s.nextId + 1 }) ∧
    Does .ghint (.a f) (ghintShape f) always (fun s t r b w sl => ∃ s1 w', OnlyWarp s s1 r b w' ∧ PassedOn w w' r.slot sl 8 ∧
      let d := (word s b w r).toNat % 64
      let able : Prop := (word s b w r).getLsbD 6 = true ∧ d < 56 ∧ (s.domain (mkDk (waferOf (dkOfCk b.core)) d)).up = true ∧ b.lrec.scope ≠ 0
      (able → t = s1.updBlock r.bid (fun x => { x with hint := some d })) ∧
      (¬able → t = s1.updBlock r.bid (fun x => { x with hint := none }))) ∧
    Does .gfault (.a f) (gfaultShape f) always (fun s t r b w sl => ∃ s1 w1, OnlyWarp s s1 r b w1 ∧
      let n := (word s b w r).toNat % 256
      let code : BitVec 8 := if 0x01 ≤ n ∧ n ≤ 0x16 then BitVec.ofNat 8 n else codeTrap
      let own : Flt := { code := code, kind := 0, lanes := sl.path.mask, addr := 0, pc := sl.path.pc }
      let kept : Flt := { code := code, kind := (w.csr.faultcode.extractLsb' 8 2).toNat, lanes := w.csr.faultlanes,
                          addr := w.csr.faultaddr, pc := w.csr.faultpc }
      t = recordFault s1 r.bid r.wi (if w.inTrap then kept else own) ∧
      ∃ b', t.block? r.bid = some b' ∧ b'.phase = .ending ∧ ∀ y ∈ b'.warps, y.done = true)

/-- csrr of every listed number leaves D empty and the value on its way, with the latch of a register read in halves set or used; of number
0x10 while no change of colour is under way the world's colour; of a number of the core's aperture, in privileged mode, its word. csrw,
csrs and csrc put x, old OR x, old AND NOT x (x the value of A in the lowest lane) into the writable bits of FPMODE, FAULTCODE, FAULTPC
and FAULTEM (a write of FAULTPC drops KEEP), leave the read-only numbers as they are, put SCHEDMODE in force at once when no user block is on
the core and make it pending otherwise, or write the core's aperture. An access to the aperture waits for the warp's earlier ones (R96). -/
def Obligations.RegisterAccessesComplete : Prop :=
  let listed (n : Nat) : Prop := n ≤ 0x0E ∨ n ∈ [0x12, 0x13, 0x14, 0x15, 0x18, 0x19, 0x1C]
  let steady (s : State) (b : Block) (w : Warp) : Prop := ∀ u ∈ s.unitOps, u.what = 3 → waferOf u.dk = waferOf (dkOfCk b.core) → u.secure ≠ w.secure
  let colour (s : State) (b : Block) (w : Warp) : Word :=
    ((s.wafer (waferOf (dkOfCk b.core))).phase.get 0 (worldNum w.secure)).setWidth 32
  (∀ f p, Does .csrr (.b f) (csrShape f false p) (fun _ _ _ w _ => w.priv = p ∧ listed (csrNum f))
    (fun s t r b w sl => ArrivesUni s t r b w sl (opd9 f.d) 1 ((registerAt s b w (csrNum f)).1.setWidth 128) (registerAt s b w (csrNum f)).2)) ∧
  (∀ f p, Does .csrr (.b f) (csrShape f false p) (fun s _ b w _ => w.priv = p ∧ csrNum f = 0x10 ∧ steady s b w)
    (fun s t r b w sl => ArrivesUni s t r b w sl (opd9 f.d) 1 ((colour s b w).setWidth 128) id)) ∧
  (∀ f, Does .csrr (.b f) (csrShape f false true)
    (fun s r _ w _ => w.priv = true ∧ 0x40 ≤ csrNum f ∧ apertureOpen s r.bid r.wi s.nextId = false)
    (fun s t r b w sl => ∃ s1, (s1 = s ∨ ∃ ps, s1 = s.updCore b.core (fun k => { k with perfs := ps })) ∧
      ArrivesUni s t r b w sl (opd9 f.d) 1 ((coreRead s1 b.core (4 * (csrNum f - 0x40)) w.secure).setWidth 128) id)) ∧
  (∀ (f : FmtB) (p : Bool) (i : Instr) (reads : Bool) (g : Word → Word → Word),
    (i, reads, g) = (Instr.csrw, false, fun _ x => x) ∨ (i, reads, g) = (Instr.csrs, true, fun o x => o ||| x) ∨
      (i, reads, g) = (Instr.csrc, true, fun o x => o &&& ~~~x) →
    let x (s : State) (b : Block) (w : Warp) (r : PathRef) (sl : Slot) : Word :=
      read32 b (seenWarp s w r.slot) r.wi (opd9 f.a) (lowLane sl.path.mask)
    let old (s : State) (b : Block) (w : Warp) : Word × (Csr → Csr) := if reads then registerAt s b w (csrNum f) else (0, id)
    Does i (.b f) (csrShape f true p) (fun _ _ _ w _ => w.priv = p ∧ listed (csrNum f) ∧ csrNum f ≠ 0x1C)
      (fun s t r b w sl => ∃ w1, PassedOn w w1 r.slot sl 8 ∧
        OnlyWarp s t r b (registerPut (csrNum f) (g (old s b w).1 (x s b w r sl)) { w1 with csr := (old s b w).2 w.csr })) ∧
    Does i (.b f) (csrShape f true p) (fun s _ b w _ => w.priv = p ∧ csrNum f = 0x10 ∧ steady s b w)
      (fun s t r b w sl => ∃ w', OnlyWarp s t r b w' ∧ PassedOn w w' r.slot sl 8) ∧
    Does i (.b f) (csrShape f true p) (fun _ _ _ w _ => w.priv = p ∧ csrNum f = 0x1C)
      (fun s t r b w sl => ∃ s1 w', OnlyWarp s s1 r b w' ∧ PassedOn w w' r.slot sl 8 ∧
        let v := (g (old s b w).1 (x s b w r sl)).getLsbD 0
        t = s1.updCore b.core (fun k => if s.blocks.all (fun y => y.core != b.core || y.lrec.privileged)
          then { k with schedmode := v, schedPending := none } else { k with schedPending := some v })) ∧
    Does i (.b f) (csrShape f true p)
      (fun s r _ w _ => w.priv = p ∧ p = true ∧ 0x40 ≤ csrNum f ∧ apertureOpen s r.bid r.wi s.nextId = false)
      (fun s t r b w sl => ∃ s1 w', OnlyWarp s s1 r b w' ∧ PassedOn w w' r.slot sl 8 ∧
        t = coreWrite s1 b.core (4 * (csrNum f - 0x40))
          (g (if reads then coreRead s1 b.core (4 * (csrNum f - 0x40)) w.secure else 0) (x s b w r sl)) w.secure) ∧
    Does i (.b f) (csrShape f true p)
      (fun s r _ w _ => w.priv = p ∧ p = true ∧ 0x40 ≤ csrNum f ∧ apertureOpen s r.bid r.wi s.nextId = true)
      (fun s t r b w sl => ∃ w', OnlyWarp s t r b w' ∧ Unissued w w' r.slot sl sl.path.pc (.retry false)))

/-- wswitch of a quiet warp sets STATUS.SECURE to bit 0 of A and empties the L1. ilock lists its range, locks the lines it can and writes the
bytes locked, or 0 when eight ranges are listed; iunlock gives up the ranges that overlap and writes the bytes still locked; iprefetch
brings lines in. halt goes on and breaks its gang into the debug state. xlat.upd of no page only goes on; otherwise the owner's operation
is listed and the path waits. pgmig and rgn.setclass leave D empty and list the owner's operation, or answer at once for owners that have
none. Nothing else changes. -/
def Obligations.SystemRowsComplete : Prop :=
  ∀ f : FmtA,
    let va (s : State) (b : Block) (w : Warp) (r : PathRef) : DWord := read64 b (seenWarp s w r.slot) r.wi (opd9 f.a) 0
    let n (s : State) (b : Block) (w : Warp) (r : PathRef) : Nat := (read32 b (seenWarp s w r.slot) r.wi (opd9 f.b) 0).toNat
    let secure (s : State) (b : Block) (w : Warp) (r : PathRef) : Bool := (read32 b (seenWarp s w r.slot) r.wi (opd9 f.a) 0).getLsbD 0
    let away (va : DWord) : Prop := ownerOf va = 56 ∨ ownerOf va = 61 ∨ ownerOf va = 62
    let noOwner (va : DWord) : Prop := (57 ≤ ownerOf va ∧ ownerOf va ≤ 60) ∨ ownerOf va = 63
    let wf (b : Block) : Nat := waferOf (dkOfCk b.core)
    Does .wswitch (.a f) (wswitchShape f)
      (fun s r b w sl => warpQuiet s (ctxAt s .wswitch (.a f) r b w sl) = true ∧ (secure s b w r = true → b.lrec.world = true))
      (fun s t r b w sl => ∃ w1, PassedOn w w1 r.slot sl 8 ∧
        let w' : Warp := { w1 with csr := { w.csr with status := setBit w.csr.status 1 (secure s b w r) } }
        OnlyAccess s t r b { b with warps := b.warps.set r.wi w' } ∧
        (t.core b.core).l1 = [] ∧ (t.core b.core).wb = (s.core b.core).wb ∧ t.pends = s.pends ∧ t.nextId = s.nextId ∧
        t.reqs.map (fun q => { q with fill := false }) = s.reqs.map (fun q => { q with fill := false })) ∧
    Does .ilock (.a f) (ilockShape f) (fun _ _ b _ _ => 8 ≤ b.ilocks.length) (fun s t r b w sl => ∃ s1 w', OnlyWarp s s1 r b w' ∧
      UniformDone (opd9 f.d) 1 0 w w' r sl 8 ∧ t = s1.updBlock r.bid (fun x => { x with ilockShort := true })) ∧
    Does .ilock (.a f) (ilockShape f) (fun _ _ b _ _ => b.ilocks.length < 8) (fun s t r b w sl => ∃ s1 w1, OnlyWarp s s1 r b w1 ∧
      let vls := codeLines (vaddr (va s b w r)) (n s b w r)
      let x := lockLines s1 b.core r.bid vls w.secure w.priv
      t = { x.1 with blocks := t.blocks } ∧ (∀ bid, bid ≠ r.bid → t.block? bid = s.block? bid) ∧
      (x.2 = true → ∃ w', t.block? r.bid = some { b with warps := b.warps.set r.wi w' } ∧ Parked w w' r.slot sl (faultPc sl) (.retry false) [] 8) ∧
      (x.2 = false →
        let got := (vls.filter (fun vl => (x.1.core b.core).icache.any (fun l => l.vline == vl && l.locks.contains r.bid))).length
        let bytes := 128 * ((x.1.core b.core).icache.filter (fun l => l.locks.contains r.bid)).length
        let listed := b.ilocks ++ [(vaddr (va s b w r), n s b w r)]
        let short := decide (got < vls.length)
        ∃ w', t.block? r.bid = some { b with warps := b.warps.set r.wi w', ilocks := listed, ilockShort := short, ilockedBytes := bytes } ∧
          UniformDone (opd9 f.d) 1 (BitVec.ofNat 64 (128 * got)) w w' r sl 8)) ∧
    Does .iunlock (.a f) (iunlockShape f) always (fun s t r b w sl =>
      let lo := vaddr (va s b w r)
      let kept := b.ilocks.filter (fun x => !((opd9 f.a == .zero && opd9 f.b == .zero) ||
        (decide (lo < x.1 + x.2) && decide (x.1 < lo + n s b w r))))
      ∃ w', t = { s with blocks := t.blocks, cores := t.cores, freeCtr := t.freeCtr } ∧
        (∀ bid, bid ≠ r.bid → t.block? bid = s.block? bid) ∧
        (∀ ck, { t.core ck with perfs := [], icache := [] } = { s.core ck with perfs := [], icache := [] }) ∧
        (∀ ck, ck ≠ b.core → (t.core ck).icache = (s.core ck).icache) ∧
        (t.core b.core).icache = (s.core b.core).icache.map (fun l =>
          if kept.any (fun x => (codeLines x.1 x.2).contains l.vline) then l else { l with locks := l.locks.filter (· != r.bid) }) ∧
        let bytes := 128 * ((t.core b.core).icache.filter (fun l => l.locks.contains r.bid)).length
        t.block? r.bid = some { b with warps := b.warps.set r.wi w', ilocks := kept, ilockedBytes := bytes } ∧
        UniformDone (opd9 f.d) 1 (BitVec.ofNat 64 bytes) w w' r sl 8) ∧
    Does .iprefetch (.a f) (iprefetchShape f) always (fun s t r b w sl => ∃ s1 w1 w', OnlyWarp s s1 r b w1 ∧
      t.block? r.bid = some { b with warps := b.warps.set r.wi w' } ∧ PassedOn w w' r.slot sl 8 ∧
      let x := ((codeLines (vaddr (va s b w r)) (n s b w r)).take 512).foldl (fun s vl => (bringLine s b.core (lineVa vl) w.secure w.priv).1) s1
      t = { x with blocks := t.blocks }) ∧
    Does .halt (.a f) (haltShape f) always (fun s t r b w sl => ∃ s1 w', OnlyWarp s s1 r b w' ∧ PassedOn w w' r.slot sl 8 ∧
      t = debugBreak s1 r ∧ t.mem = s.mem ∧ ∃ x, t.slot? r = some x ∧ x.wait = .brk) ∧
    Does .xlatUpd (.a f) (xlatShape f) (fun s r b w _ => ¬ownerBad (va s b w r) ∧ ownerOf (va s b w r) ≠ 62 ∧ n s b w r = 0)
      (fun s t r b w sl => ∃ w', OnlyWarp s t r b w' ∧ PassedOn w w' r.slot sl 8) ∧
    Does .xlatUpd (.a f) (xlatShape f) (fun s r b w _ => ¬ownerBad (va s b w r) ∧ ownerOf (va s b w r) ≠ 62 ∧ n s b w r ≠ 0 ∧
        (ownerOf (va s b w r) = 61 → podReach s (wf b) (podWafer (va s b w r)) = true))
      (fun s t r b w sl => ∃ w' u, OnlyWaits s t r b w' ∧ t.pends = s.pends ∧ t.nextId = s.nextId + 1 ∧ t.unitOps = s.unitOps ++ [u] ∧
        Parked w w' r.slot sl (faultPc sl) (.unit s.nextId) [] 8 ∧
        u = rangeOp s (ctxAt s .xlatUpd (.a f) r b w sl) 0 (va s b w r) (n s b w r) 0 none) ∧
    Does .xlatUpd (.a f) (xlatShape f) (fun s r b w _ => ¬ownerBad (va s b w r) ∧ w.done = false ∧ n s b w r ≠ 0 ∧
        ownerOf (va s b w r) = 61 ∧ podReach s (wf b) (podWafer (va s b w r)) = false)
      (fun s t r b w sl => ∃ w1 w' d, OnlyWaits s t r b w' ∧ t.pends = s.pends ∧ t.unitOps = s.unitOps ∧ t.nextId = s.nextId + 1 ∧
        PassedOn w w1 r.slot sl 8 ∧ w' = { w1 with deferred := w.deferred ++ [d] } ∧ d.code = codeLinkDown ∧ d.addr = va s b w r) ∧
    Does .pgmig (.a f) (pgmigShape f) (fun s r b w _ => ¬noOwner (va s b w r) ∧ away (va s b w r))
      (fun s t r b w sl => ArrivesUni s t r b w sl (opd9 f.d) 1 1 id) ∧
    Does .pgmig (.a f) (pgmigShape f) (fun s r b w _ => ¬noOwner (va s b w r) ∧ ¬away (va s b w r))
      (fun s t r b w sl => ∃ s1 m, ArrivesUni s s1 r b w sl (opd9 f.d) 1 0 id ∧
        let (dk, off) := translator (wf b) (va s b w r)
        t = s1.updDomain dk (fun x => { x with migs := x.migs ++ [m] }) ∧ m.vpage = off / 2 ^ 16 ∧ m.size = 2 ^ 16 ∧
          m.newPa = (read64 b (seenWarp s w r.slot) r.wi (opd9 f.b) 0).toNat ∧ m.tag = some s.nextId ∧ m.phase = 0 ∧ m.ownerDk = dk) ∧
    Does .rgnSetclass (.a f) (classShape f) (fun s r b w _ => ¬noOwner (va s b w r) ∧ away (va s b w r))
      (fun s t r b w sl => ArrivesUni s t r b w sl (opd9 f.d) 1 3 id) ∧
    Does .rgnSetclass (.a f) (classShape f) (fun s r b w _ => ¬noOwner (va s b w r) ∧ ¬away (va s b w r) ∧ n s b w r = 0)
      (fun s t r b w sl => ArrivesUni s t r b w sl (opd9 f.d) 1 0 id) ∧
    Does .rgnSetclass (.a f) (classShape f) (fun s r b w _ => ¬noOwner (va s b w r) ∧ ¬away (va s b w r) ∧ n s b w r ≠ 0)
      (fun s t r b w sl => ∃ s1 u, ArrivesUni s s1 r b w sl (opd9 f.d) 1 0 id ∧
        t = { s1 with unitOps := s.unitOps ++ [u], nextId := s.nextId + 2 } ∧ u.op = s.nextId + 1 ∧ u.what = 1 ∧ u.tag = some s.nextId ∧
          u.cls = (read32 b (seenWarp s w r.slot) r.wi (opd9 f.c) 0).toNat % 4 ∧ u.secure = w.secure ∧ u.dk = (translator (wf b) (va s b w r)).1 ∧
          u.lo = (translator (wf b) (va s b w r)).2 / 2 ^ 16 * 2 ^ 16)

/-- A sleep whose end has come leaves its path Ready. A pending warp that has been Ready for 1,024 cc changes places with the active warp of
its issue slot that entered earliest. A warp whose live paths all wait at their joins parks its last one, and after 2,048 instructions a
warp in no trap rotates the path that has been live longer: it goes to the top of the stack and the lowest path that does not wait takes
its slot. A path that meets an armed breakpoint, at its next instruction or at the one that instruction governs as a prefix, stops and asks
for the save of its gang; a block whose record is reserved halts. A line pushed for a block is brought in, or tried again. A fetch takes the
fault a pager's reply left, fills the missing line and those its warp fetches ahead, waits at the pager for a translation fault, or takes
any other fault precisely. -/
def Obligations.PathEventsHappen : Prop :=
  let path (a : EvArgs) : PathRef := { bid := a.k, wi := a.i, slot := a.j }
  (∀ sl n, Happens .sleepExpire (fun s a => s.slot? (path a) = some sl ∧ sl.wait = .sleep n ∧ n ≤ s.clock)
    (fun s t a => t = s.updSlot (path a) (fun x => { x with wait := .ready }))) ∧
  (∀ (q : IssueSlot) (before after : List (Nat × Nat × Nat)) (inn out : Nat × Nat × Nat), Happens .pendingExchange
    (fun s a =>
      let starved (e : Nat × Nat × Nat) : Prop := ∃ x ∈ q.readySince, x.1 = e.1 ∧ x.2.1 = e.2.1 ∧ x.2.2 + 1024 ≤ s.clock
      (s.core a.k).issue[a.i]? = some q ∧ q.pending = before ++ inn :: after ∧ starved inn ∧ (∀ e ∈ before, ¬starved e) ∧
      out ∈ q.active ∧ ∀ e ∈ q.active, e = out ∨ out.2.2 < e.2.2)
    (fun s t a =>
      let isOf (x e : Nat × Nat × Nat) : Bool := e.1 == x.1 && e.2.1 == x.2.1
      t = { s with cores := t.cores } ∧ (∀ ck, ck ≠ a.k → t.core ck = s.core ck) ∧
      { t.core a.k with perfs := [], issue := [] } = { s.core a.k with perfs := [], issue := [] } ∧
      (t.core a.k).issue = (s.core a.k).issue.set a.i { q with
        active := q.active.filter (fun e => !isOf out e) ++ [(inn.1, inn.2.1, s.clock + 4)],
        pending := q.pending.filter (fun e => !isOf inn e) ++ [(out.1, out.2.1, s.clock)],
        readySince := q.readySince.filter (fun e => !isOf inn e) })) ∧
  (∀ k b w sl i p, Happens .park
    (fun s a => Names s { path a with slot := k } b w sl ∧ sl.live = true ∧ LowestFree w i p ∧
      (∀ j x, w.slots[j]? = some x → x.live = true → x.wait = .join ∧ j ≤ k) ∧ (spillUsable s b a.i w k).1 = true)
    (fun s t a => PathSwapped s t { path a with slot := k } b w sl i p w.rotation)) ∧
  (∀ k b w sl i p, Happens .rotation
    (fun s a => Names s { path a with slot := k } b w sl ∧ k < 2 ∧ sl.mayRotate = true ∧ LowestFree w i p ∧ w.inTrap = false ∧
      2048 ≤ w.rotation ∧ (spillUsable s b a.i w k).1 = true ∧
      (∀ x, w.slots[1 - k]? = some x → x.mayRotate = true → x.age.toNat < sl.age.toNat ∨ (k = 0 ∧ x.age = sl.age)))
    (fun s t a => PathSwapped s t { path a with slot := k } b w sl i p 0)) ∧
  (∀ b w sl, Happens .breakpointMatch
    (fun s a => Names s (path a) b w sl ∧ w.isFresh sl = false ∧ sl.ordPfx = none ∧ pathFree s b w a.j = true ∧
      ∃ e ∈ (s.core b.core).brks, e.2.en = true ∧ (e.2.secok = true ∨ b.world = false) ∧ (vaddr e.2.addr / 2 = vaddr sl.path.pc / 2 ∨
        (vaddr e.2.addr / 2 = vaddr (sl.path.pc + 4) / 2 ∧ ∃ bs, pathBytes s b w sl.path.pc = .ok bs ∧ isOrdp bs = true)))
    (fun s t a => t.slot? (path a) = some { sl with wait := .brk } ∧
      ∀ x, s.block? x.bid = some x → x.gangId = b.gangId → x.phase ≠ .ending →
        ∃ y, t.block? x.bid = some y ∧ y.phase = x.phase.ask 0x82)) ∧
  (∀ b reason, Happens .preempt (fun s a => s.block? a.k = some b ∧ b.phase = .wantSave reason ∧ b.saveRec.isSome = true)
    (fun s t a => (∀ bid, bid ≠ a.k → t.block? bid = s.block? bid) ∧
      ∃ b', t.block? a.k = some b' ∧ b'.phase = .halting reason ∧ b'.slice = b.slice ∧ b'.tiles = b.tiles ∧
        ∀ (wi : Nat) (w : Warp), b.warps[wi]? = some w → ∃ w' : Warp, b'.warps[wi]? = some w' ∧
          (∀ y i, w'.regLane y i = w.regLane y i) ∧ w'.p = w.p ∧ w'.csr = w.csr ∧ w'.spill = w.spill ∧
          ∀ (j : Nat) (sl : Slot), w.slots[j]? = some sl → ∃ sl' : Slot, w'.slots[j]? = some sl' ∧ sl'.live = sl.live ∧ sl'.ordPfx = none ∧
            sl'.path = (match sl.ordPfx with | some o => { sl.path with pc := o.addr } | none => sl.path) ∧
            sl'.wait =
              (match sl.wait with | .join => .join | .bar n => .bar n | .gbar => .gbar | .regs r => .regs r | .mwait n => .mwait n | _ => .ready))) ∧
  (∀ b w sl va s1 again, Happens .instructionFetch
    (fun s a => Names s (path a) b w sl ∧ a.i = 0 ∧ a.j = 0 ∧ b.push = [va] ∧
      bringLine s b.core (va &&& ~~~127#64) b.world b.lrec.privileged = (s1, again))
    (fun _ t _ => t = s1.updBlock b.bid (fun b => { b with push := if again then [va] else [] }))) ∧
  (∀ b w sl, let due (s : State) (a : EvArgs) : Prop := Names s (path a) b w sl ∧ b.push = [] ∧ fetchDue s (path a) = true
    (∀ e, Happens .instructionFetch (fun s a => due s a ∧ sl.fetchFault = some e)
      (fun s t a => t = takeFault s (path a) { code := e, lanes := sl.path.mask, addr := sl.path.pc, pc := sl.path.pc })) ∧
    (∀ va s1, (∀ l, Happens .instructionFetch
        (fun s a => due s a ∧ sl.fetchFault = none ∧ pathBytes s b w sl.path.pc = .error va ∧
          fetchLine s b.core va w.secure w.priv = (.line l, s1))
        (fun _ t _ => t = fetchAhead (s1.updCore b.core (fun c => c.iFill l)) b w va ∧
          ∃ x, ((s1.updCore b.core (fun c => c.iFill l)).core b.core).iHit (vlineOf va) w.secure w.priv = some x ∧ x.bytes = l.bytes)) ∧
      (∀ e, Happens .instructionFetch
        (fun s a => due s a ∧ sl.fetchFault = none ∧ pathBytes s b w sl.path.pc = .error va ∧
          fetchLine s b.core va w.secure w.priv = (.fault e, s1) ∧ (e = codeNoPage ∨ e = codePerm) ∧ fetchCode va = none)
        (fun _ t a => t = (sendRecord s1 (faultDk (waferOf (dkOfCk b.core)) va) (warpRecord b w va e 3 0xFF sl.path.mask)
            (.fetch a.k a.i a.j e)).2.updSlot (path a) (fun x => { x with wait := .fetch (s1.nextId % 2 ^ 31) }))) ∧
      (∀ e, Happens .instructionFetch
        (fun s a => due s a ∧ sl.fetchFault = none ∧ pathBytes s b w sl.path.pc = .error va ∧
          fetchLine s b.core va w.secure w.priv = (.fault e, s1) ∧ ¬((e = codeNoPage ∨ e = codePerm) ∧ fetchCode va = none))
        (fun _ t a => t = takeFault s1 (path a) { code := e, lanes := sl.path.mask, addr := va, pc := sl.path.pc }))))

/-- A long result arrives in all its lanes together. The answer of a load, the first performed of its core and line and not sent on by a
migration that goes on, brings the loaded value, sign- or zero-extended, to its lane, and fills the L1 line where it may, or as an acquire
of domain scope or wider empties the L1. An acknowledgement takes the aliases of its line out of the L1, and its lanes owe nothing more;
registers stay. The oldest entry of a write-buffer bank none of whose entries drains sets out with its stores, one request for the stores
of each world and mode. A waitv reads its word
again, strongly, for each lane that has neither a satisfying value nor a read on its way; a word in the own scratchpad answers at once. -/
def Obligations.ArrivalsAndPollsHappen : Prop :=
  (∀ p b w, Happens .longOpArrival
    (fun s a => s.pend? a.k = some p ∧ (p.kind = .long ∨ p.kind = .reg ∨ p.kind = .matrix) ∧ p.vals ≠ [] ∧
      s.block? p.bid = some b ∧ b.warps[p.wi]? = some w)
    (fun s t _ => Delivered s t p b w p.need (fun i => p.vals.get 0 i) ∧ t = { s with blocks := t.blocks, pends := t.pends } ∧
      ∃ w', t.warp? p.bid p.wi = some w' ∧ w'.log = w.log)) ∧
  (∀ r p b w n sx, Happens .loadResponse
    (fun s a => s.req? a.k = some r ∧ r.stage = .answered ∧ forwardedOn s r.id = false ∧
      (∀ q ∈ s.reqs, q.core = r.core → q.stage = .answered → vlineOf q.va = vlineOf r.va → r.seq ≤ q.seq) ∧
      s.pend? r.tag = some p ∧ p.kind = .load n sx ∧ p.bid = r.bid ∧ p.wi = r.wi ∧ s.block? p.bid = some b ∧ b.warps[p.wi]? = some w)
    (fun s t _ => Delivered s t p b w (1#32 <<< r.lane) (fun _ =>
        let x := r.value.toNat % 2 ^ (8 * n)
        BitVec.ofNat 128 (if sx = true ∧ 2 ^ (8 * n - 1) ≤ x then x + 2 ^ 32 - 2 ^ (8 * n) else x)) ∧
      (∀ q ∈ t.reqs, q.id ≠ r.id) ∧ (r.acqWide = true → r.kind ≠ .heal → (t.core r.core).l1 = []) ∧
      (r.acqWide = false → r.fills = true → ∃ l ∈ (t.core r.core).l1, l.vline = vlineOf r.va ∧ l.bytes = r.line ∧ l.attr = r.attr) ∧
      t = { s with blocks := t.blocks, pends := t.pends, reqs := t.reqs, cores := t.cores })) ∧
  (∀ r, let acks : List (Nat × Nat) := if r.pieces = [] then [(r.tag, r.lane)] else r.pieces.map (fun p => (p.tag, p.lane))
    Happens .storeAck
    (fun s a => s.req? a.k = some r ∧ r.stage = .acked ∧ forwardedOn s r.id = false ∧
      ∀ x ∈ acks, ∀ p, s.pend? x.1 = some p → p.dst = .none ∧ p.dst2 = .none)
    (fun s t _ => (∀ q ∈ t.reqs, q.id ≠ r.id) ∧
      (∀ x ∈ acks, ∀ p, t.pend? x.1 = some p → p.need.getLsbD x.2 = false) ∧
      (∀ l ∈ (t.core r.core).l1, l ∈ (s.core r.core).l1 ∧
        ¬(l.attr.pline = r.attr.pline ∧ (l.vline ≠ vlineOf r.va ∨ r.strong = true))) ∧
      (∀ bid wi w, s.warp? bid wi = some w → ∃ w', t.warp? bid wi = some w' ∧ (∀ y i, w'.regLane y i = w.regLane y i) ∧
        (∀ y, w'.isEmpty y = w.isEmpty y) ∧ w'.p = w.p ∧ w'.csr = w.csr ∧ w'.slots = w.slots) ∧
      t = { s with blocks := t.blocks, pends := t.pends, reqs := t.reqs, cores := t.cores })) ∧
  (∀ (e : WbEnt) (rest : List WbEnt), Happens .writeBufferDrain
    (fun s a => (s.core a.k).bank a.i = e :: rest ∧ e.draining = [] ∧ (∀ x ∈ rest, x.draining = []) ∧ e.pieces ≠ [])
    (fun s t a => ∃ new, t.reqs = s.reqs ++ new ∧ new ≠ [] ∧
      t = { s with reqs := t.reqs, cores := t.cores, nextId := s.nextId + new.length } ∧ (∀ ck, ck ≠ a.k → t.core ck = s.core ck) ∧
      { t.core a.k with wb := [] } = { s.core a.k with wb := [] } ∧
      (t.core a.k).bank a.i = (e :: rest).map (fun x => if x = e then { x with draining := new.map (·.id) } else x) ∧
      (∀ k, k ≠ a.i → (t.core a.k).bank k = (s.core a.k).bank k) ∧
      (∀ p, p ∈ e.pieces ↔ ∃ r ∈ new, p ∈ r.pieces) ∧
      ∀ r ∈ new, r.core = a.k ∧ r.kind = .store ∧ r.stage = .toOwner ∧ r.strong = false ∧ r.size = 128 ∧ s.nextId ≤ r.id ∧
        r.pieces = e.pieces.filter (fun p => p.secure == r.secure && p.priv == r.priv) ∧
        ∃ p0, r.pieces.head? = some p0 ∧ r.va = p0.va - BitVec.ofNat 64 p0.off)) ∧
  (∀ p cond n b w, Happens .waitvPoll
    (fun s a => s.pend? a.k = some p ∧ p.kind = .waitv cond n ∧ s.block? p.bid = some b ∧ b.warps[p.wi]? = some w ∧
      waitvOpen s p cond n ≠ 0 ∧ ∀ j, (waitvOpen s p cond n).getLsbD j = true → ownerOf (p.aux.get 0 (32 + j)) = 62 →
        (sliceAt b (p.aux.get 0 (32 + j))).isSome = true)
    (fun s t a => t = { s with pends := t.pends, reqs := t.reqs, nextId := t.nextId } ∧
      ∃ new, t.reqs = s.reqs ++ new ∧ new.map (·.lane) = lanesOf (waitvOpen s p cond n) ∧
        ∀ q ∈ new, q.core = b.core ∧ q.bid = p.bid ∧ q.wi = p.wi ∧ q.tag = a.k ∧ q.kind = .load ∧ q.size = n ∧ q.strong = true ∧
          q.va = p.aux.get 0 (32 + q.lane) ∧ q.secure = w.secure ∧ q.priv = w.priv ∧
          (ownerOf q.va ≠ 62 → q.stage = .toOwner) ∧
          (∀ o, sliceAt b q.va = some o → q.stage = .answered ∧ q.value = BitVec.ofNat 128 (sliceNat b o n))))

/-- With no further fault on its way, the earliest deferred fault of a warp among those all of whose lanes are settled is taken at the faulting
path's boundary, and goes to the fault record when the warp has exited. An instruction all of whose lanes have been translated or have faulted is logged: its log entry is pending with a record for
each page, and no fault of it is left; with a full log the warp waits. A held record is written into a queue with room. A reply resolves
or condemns the entry that waits for its token, or lets the fetching path go on; a token nobody waits for is ignored. A resolved entry is
replayed in its lanes; a fatal one becomes a deferred fault. -/
def Obligations.FaultEventsHappen : Prop :=
  let tok (a : EvArgs) : Nat := a.v.toNat % 2 ^ 31
  (∀ w d k, Happens .deferredFault
    (fun s a => faultsFor s a.k a.i = [] ∧ s.warp? a.k a.i = some w ∧ w.done = false ∧ d ∈ w.deferred ∧
      (d.tag = 0 ∨ laneOpen s d.tag = false) ∧
      (∀ x ∈ w.deferred, x.tag = 0 ∨ laneOpen s x.tag = false → x = d ∨ d.tag < x.tag ∨ (d.tag = x.tag ∧ d.code < x.code)) ∧
      deliverySlot w d = some k)
    (fun s t a => t = takeFault (s.updWarp a.k a.i (fun x => { x with
        deferred := x.deferred.filter (fun y => !(y.tag == d.tag && y.code == d.code)) })) { bid := a.k, wi := a.i, slot := k }
      { code := d.code, kind := d.kind, lanes := d.lanes, addr := d.addr, pc := d.pc })) ∧
  (∀ b w d, Happens .deferredFault
    (fun s a => faultsFor s a.k a.i = [] ∧ s.block? a.k = some b ∧ b.warps[a.i]? = some w ∧ w.done = true ∧ b.killed = false ∧
      d ∈ w.deferred ∧ (d.tag = 0 ∨ laneOpen s d.tag = false) ∧
      (∀ x ∈ w.deferred, x.tag = 0 ∨ laneOpen s x.tag = false → x = d ∨ d.tag < x.tag ∨ (d.tag = x.tag ∧ d.code < x.code)))
    (fun s t a => t = recordFault (s.updWarp a.k a.i (fun x => { x with
        deferred := x.deferred.filter (fun y => !(y.tag == d.tag && y.code == d.code)) })) a.k a.i
      { code := d.code, kind := d.kind, lanes := d.lanes, addr := d.addr, pc := d.pc })) ∧
  (∀ p b w, let due (s : State) (a : EvArgs) : Prop := s.pend? a.k = some p ∧ s.block? p.bid = some b ∧ b.warps[p.wi]? = some w ∧
      w.done = false ∧ loggedFaults s a.k ≠ [] ∧ untranslated s a.k = false
    (∀ i, Happens .operandLogEntry (fun s a => due s a ∧ logPlace w a.k = some i ∧ i < w.log.length)
      (fun s t a => loggedFaults t a.k = [] ∧ ∃ (w' : Warp) (e : LogEnt), t.warp? p.bid p.wi = some w' ∧ w'.log[i]? = some e ∧
        e.state = .pending ∧ e.tag = a.k ∧ e.pc = p.pc ∧ e.enc = p.enc ∧
        e.tokens.map (·.2) = (pageRecords (loggedFaults s a.k)).map (·.code) ∧ e.pages = (pageRecords (loggedFaults s a.k)).map (·.page) ∧
        (∀ r ∈ loggedFaults s a.k, r.kind ≠ .resolve → r.lane < 32 → e.lanes.getLsbD r.lane = true) ∧
        (∀ j : Nat, j ≠ i → w'.log[j]? = w.log[j]?) ∧ ∀ y j, w'.regLane y j = w.regLane y j)) ∧
    Happens .operandLogEntry (fun s a => due s a ∧ logPlace w a.k = none ∧ a.k ∉ w.logWait)
      (fun s t a => t = s.updWarp p.bid p.wi (fun x => { x with logWait := x.logWait ++ [a.k] }))) ∧
  (∀ h rest, Happens .heldFaultRecordWrite
    (fun s a => (s.domain a.k).held = h :: rest ∧ (s.domain a.k).fltq.open = true)
    (fun s t a => (t.domain a.k).held = rest ∧
      (t.domain a.k).fltq = { (s.domain a.k).fltq with prod := (s.domain a.k).fltq.prod + 1 } ∧
      memRead t.mem ((s.domain a.k).fltq.slotAddr (waferOf a.k) 32) h.bytes.length = h.bytes)) ∧
  (Happens .fltreply (fun s a => (s.domain a.k).waiters.get? (tok a) = none) (fun s t _ => t = s) ∧
    (∀ tag (bid wi : Nat) (w : Warp) (i : Nat) (e : LogEnt) (x : Nat × BitVec 8), Happens .fltreply
      (fun s a => (s.domain a.k).waiters.get? (tok a) = some (.logEnt tag) ∧ s.warp? bid wi = some w ∧ w.log[i]? = some e ∧ e.state ≠ .free ∧
        e.tokens.find? (fun y => y.1 == tok a) = some x)
      (fun _ t a => (t.domain a.k).waiters.get? (tok a) = none ∧ ∃ w' e', t.warp? bid wi = some w' ∧ w'.log[i]? = some e' ∧
        let left := e.tokens.filter (· != x)
        let st : LogState := if a.v.getLsbD 31 then .fatal else if e.state = .pending ∧ left = [] then .resolved else e.state
        e' = { e with tokens := left, state := st, code := if a.v.getLsbD 31 && e.state != .fatal then x.2 else e.code })) ∧
    (∀ (bid wi k : Nat) code sl, Happens .fltreply
      (fun s a => (s.domain a.k).waiters.get? (tok a) = some (.fetch bid wi k code) ∧
        s.slot? { bid := bid, wi := wi, slot := k } = some sl ∧ sl.wait = .fetch (tok a))
      (fun _ t a => (t.domain a.k).waiters.get? (tok a) = none ∧ t.slot? { bid := bid, wi := wi, slot := k } =
        some { sl with wait := .ready, fetchFault := if a.v.getLsbD 31 then some code else sl.fetchFault }))) ∧
  (∀ (b : Block) (w : Warp) (e : LogEnt),
    let entry (s : State) (a : EvArgs) : Prop := s.block? a.k = some b ∧ b.warps[a.i]? = some w ∧ w.log[a.j]? = some e
    let turn (s : State) (a : EvArgs) : Prop := entry s a ∧ e.state = .resolved ∧
      (e.memfx = true → ∀ x ∈ w.log, x.state ≠ .free → x.memfx = true → e.seq ≤ x.seq)
    Happens .oplogReplay (fun s a => entry s a ∧ e.state = .fatal ∧ w.done = false)
      (fun _ t a => ∃ w', t.warp? a.k a.i = some w' ∧ w'.log[a.j]? = some LogEnt.empty ∧ ∃ d ∈ w'.deferred, d.code = e.code ∧ d.kind = 2 ∧
        d.pc = e.pc ∧ d.lanes = e.lanes ∧ d.addr = e.addr.get 0 (lowLane e.lanes) ∧ d.tag = e.tag) ∧
    Happens .oplogReplay (fun s a => turn s a ∧ e.kind = 4)
      (fun s t a => t.reqs = s.reqs ∧ (t.core b.core).matq = (s.core b.core).matq ++ [replayOp b w a.i e] ∧
        ∃ w', t.warp? a.k a.i = some w' ∧ w'.log[a.j]? = some { e with state := .replaying }) ∧
    (∀ x tm, Happens .oplogReplay (fun s a => turn s a ∧ e.kind ≠ 4 ∧ decodeWord e.enc = .ok x ∧ tmplOf x = some tm)
      (fun s t a => (∃ w', t.warp? a.k a.i = some w' ∧ w'.log[a.j]? = some { e with state := .replaying }) ∧
        ∃ new, t.reqs = s.reqs ++ new ∧ new.map (·.lane) = lanesOf e.lanes ∧
          ∀ q ∈ new, q.tag = e.tag ∧ q.core = b.core ∧ q.bid = b.bid ∧ q.wi = a.i ∧ q.replay = some a.j ∧ q.size = tm.size ∧
            q.va = e.addr.get 0 q.lane ∧ q.secure = w.secure ∧ q.priv = w.priv ∧
            (x.instr ≠ .hcopy → e.order.getLsbD 8 = false → q.kind = tm.kind ∧ q.stage = .toOwner))))

/-- A request whose turn it is goes to the bridge for owner 56, meets LINK_DOWN for a wafer out of reach, waits for a walk on a TLB miss, and
with a TLB entry meets XLAT_PERM, WORLD or, where its A and D bits stand or the entry in memory is the one held, goes on to the home with
its physical address. A walk that ends installs the leaf it found; a request that waited alone for it is held at its owner, meets the entry,
or with no leaf reports XLAT_NOPAGE. At the home a store puts its bytes, a load takes them, a strong 128-bit access does so in two halves,
a read-modify-write or a reduction does both, a resolve of an object that is not forwarded gives its address, a heal replaces the word it
compared. A read miss or a drain's request of a visitor
partition is granted the line, alone if no other copy or the request for ownership says so. -/
def Obligations.TranslationAndHomeHappen : Prop :=
  (∀ r, let due (s : State) (a : EvArgs) : Prop := AtStage s a r .toOwner ∧ translateDue s r = true
    let plain : Prop := r.pieces = [] ∧ r.kind ≠ .prefetch ∧ r.kind ≠ .heal
    let w := waferOf (dkOfCk r.core)
    Happens .requestTranslate (fun s a => due s a ∧ ownerOf r.target = 56 ∧ (offsetOf r.target < 2 ^ 50 ∨ (apertureOff r.target).isSome = true))
      (fun _ t a => NowAt t a r .bridge) ∧
    Happens .requestTranslate (fun s a => due s a ∧ plain ∧ ownerOf r.target = 61 ∧ podReach s w (podWafer r.target) = false)
      (fun _ t a => NowAt t a r (.faulted codeLinkDown false)) ∧
    (∀ dk off, let owner (s : State) (a : EvArgs) : Prop := due s a ∧ ownerOf r.target ≠ 56 ∧ translator w r.target = (dk, off) ∧
        (ownerOf r.target = 61 → podReach s w (podWafer r.target) = true) ∧ heldAtOwner s dk off = false
      Happens .requestTranslate (fun s a => owner s a ∧ tlbFind (s.domain dk) off = none)
        (fun s t a => let key := (pageAt s dk off).1 / 2 ^ 16; NowAt t a r (.walking key) ∧ ∃ e ∈ (t.domain dk).walks, e.1 = key) ∧
      (∀ e, let l : Leaf := { entry := e.leaf.toNat, addr := e.lpa, size := e.size }
        Happens .requestTranslate (fun s a => owner s a ∧ plain ∧ tlbFind (s.domain dk) off = some e ∧ permOk l r.access r.priv = false)
          (fun _ t a => NowAt t a { r with attr := { r.attr with size := l.size } } (.faulted codePerm true)) ∧
        Happens .requestTranslate (fun s a => owner s a ∧ plain ∧ tlbFind (s.domain dk) off = some e ∧ permOk l r.access r.priv = true ∧
            l.world ≠ r.secure)
          (fun _ t a => NowAt t a { r with attr := { r.attr with size := l.size } } (.faulted codeWorld false)) ∧
        Happens .requestTranslate (fun s a => owner s a ∧ tlbFind (s.domain dk) off = some e ∧ permOk l r.access r.priv = true ∧
            l.world = r.secure ∧ classFault r.kind l.cls = none ∧ ownerOf r.target ≠ 61 ∧ r.strong = true ∧
            ((l.bit 6 = true ∧ (r.access.writes = true → l.bit 7 = true)) ∨ (s.unitNat l.addr 8).1 = l.entry))
          (fun _ t a => ∃ q, t.req? a.k = some q ∧ q.stage = .toHome ∧ q.pa = devAddr (waferOf dk) (l.frame + off % l.size) ∧
            q.attr.cls = l.cls ∧ q.attr.world = l.world ∧ q.kind = r.kind ∧ q.va = r.va ∧ q.data = r.data ∧ q.tag = r.tag ∧ q.lane = r.lane)))) ∧
  (∀ root found s1,
    let ended (s : State) (a : EvArgs) : Prop := ((s.domain a.k).walks.take 16).find? (fun x => x.1 == a.i) = some (a.i, root) ∧
      walkRoot (s.updDomain a.k (fun d => { d with walks := d.walks.filter (fun x => x.1 != a.i) })) a.k (a.i * 2 ^ 16) false root = (found, s1)
    let held (a : EvArgs) : State := match found with | some l => tlbPut s1 a.k (a.i * 2 ^ 16) l | none => s1
    Happens .tlbWalkDone (fun s a => ended s a ∧ walkWaiters s a.k a.i = []) (fun _ t a => t = held a ∧ ∀ x ∈ (t.domain a.k).walks, x.1 ≠ a.i) ∧
    (∀ r, let off := (translator (waferOf (dkOfCk r.core)) r.target).2
      let alone (s : State) (a : EvArgs) : Prop := ended s a ∧ walkWaiters s a.k a.i = [r]
      Happens .tlbWalkDone (fun s a => alone s a ∧ heldAtOwner (held a) a.k off = true)
        (fun _ t a => t.req? r.id = some { r with stage := .heldOwner, seq := (held a).nextId }) ∧
      (∀ e, Happens .tlbWalkDone (fun s a => alone s a ∧ heldAtOwner (held a) a.k off = false ∧ tlbFind ((held a).domain a.k) off = some e)
        (fun _ t a => t = acceptReq (held a) r a.k off { entry := e.leaf.toNat, addr := e.lpa, size := e.size })) ∧
      Happens .tlbWalkDone
        (fun s a => alone s a ∧ heldAtOwner (held a) a.k off = false ∧ tlbFind ((held a).domain a.k) off = none ∧
          (walkRoot (held a) a.k off false root).1 = none ∧ r.pieces = [] ∧ r.kind ≠ .prefetch ∧ r.kind ≠ .heal)
        (fun _ t _ => t.req? r.id = some { r with stage := .faulted codeNoPage true }))) ∧
  (∀ r s1, let size := r.size
    let word := BitVec.ofNat 64 (natOfBytes (memRead s1.mem r.fieldPa size))
    Happens .homeSliceRequest (fun s a => AtHome s s1 a r ∧ r.kind = .store ∧ r.pieces = [])
      (fun _ t a => NowAt t a r .acked ∧ OnlyBytes s1 t r.pa (bytesOfNat size r.data.toNat)) ∧
    Happens .homeSliceRequest (fun s a => AtHome s s1 a r ∧ r.kind = .load ∧ r.strong = true ∧ r.pa % 128 + size ≤ 128)
      (fun _ t a => NowAnswered t a (BitVec.ofNat 128 (natOfBytes (memRead s1.mem r.pa size))) ∧ t.mem = s1.mem) ∧
    Happens .homeSliceRequest
      (fun s a => AtStage s a r .toHome ∧ lockHolds s r = false ∧ behindForward s r = false ∧ behindOthers s r = false ∧ prepHome s r = .ready ∧
        s1 = countHot s r.pa r.core ∧ homeFault s1 r = none ∧ r.splits = true)
      (fun _ t a => ∃ q up, let x := r.pa + (if up then 8 else 0)
        t.req? a.k = some q ∧ q.stage = .toHome ∧ q.half = some up ∧
        (r.kind = .load → t.mem = s1.mem ∧ q.value = BitVec.ofNat 128 (natOfBytes (memRead s1.mem x 8)) <<< (if up then 64 else 0)) ∧
        (r.kind = .store → OnlyBytes s1 t x (bytesOfNat 8 (r.data >>> (if up then 64 else 0)).toNat))) ∧
    (∀ up, let x := r.pa + (if up then 0 else 8)
      let last (s : State) (a : EvArgs) : Prop := AtStage s a r .toHome ∧ lockHolds s r = false ∧ behindForward s r = false ∧
        behindOthers s r = false ∧ prepHome s r = .ready ∧ homeFault s r = none ∧ r.half = some up
      Happens .homeSliceRequest (fun s a => last s a ∧ r.kind = .load)
        (fun s t a => t.mem = s.mem ∧
          NowAnswered t a (r.value ||| (BitVec.ofNat 128 (natOfBytes (memRead s.mem x 8)) <<< (if up then 0 else 64)))) ∧
      Happens .homeSliceRequest (fun s a => last s a ∧ r.kind = .store)
        (fun s t a => NowAt t a r .acked ∧ OnlyBytes s t x (bytesOfNat 8 (r.data >>> (if up then 0 else 64)).toNat))) ∧
    (∀ op, let old := natOfBytes (memRead s1.mem r.pa size)
      Happens .homeRmw (fun s a => AtHome s s1 a r ∧ (r.kind = .rmw op ∨ r.kind = .red op))
        (fun _ t a => OnlyBytes s1 t r.pa (bytesOfNat size
            (rmwNew (rmwOf op) size false (BitVec.ofNat 64 old) r.cmp (r.data.setWidth 64)).1.toNat) ∧
          (wantsValue s1 r = true → NowAnswered t a (BitVec.ofNat 128 old)) ∧ (wantsValue s1 r = false → NowAt t a r .acked))) ∧
    Happens .resolveRequest (fun s a => AtHome s s1 a r ∧ r.kind = .resolve ∧ forwarding s r.pa = none)
      (fun _ t a => NowAnswered t a (r.obj.setWidth 128) ∧ t.mem = s1.mem) ∧
    Happens .healingCas (fun s a => AtHome s s1 a r ∧ r.kind = .heal ∧ forwarding s r.pa = none)
        (fun _ t a => t.req? a.k = none ∧ (word ≠ r.cmp → t.mem = s1.mem) ∧
          (word = r.cmp → OnlyBytes s1 t r.fieldPa (bytesOfNat size r.data.toNat)))) ∧
  (∀ r s1, let pl := r.pa / 128
    let dk := dkOfCk r.core
    let granted (t : State) (a : EvArgs) (excl : Bool) : Prop :=
      t.req? a.k = some { r with stage := .granted, value := loadSees s1 r (s1.lineBytes pl), line := lineFill s1 r (s1.lineBytes pl), arrived := none } ∧
      ∃ id q, t.msgs.getLast? = some { id := id, body := .grant pl dk excl q r.id (s1.lineBytes pl) none }
    Happens .visitorReadRequest
      (fun s a => AtStage s a r .visitorRead ∧ lockHolds s r = false ∧ behindOthers s r = false ∧ s1 = countHot s r.pa r.core ∧
        prepLine s r pl false (some dk) = .ready ∧ prepSnoops s r (windowNeeds s r) false = .ready ∧ prepRoom s pl = .ready ∧
        r.attr.cls ≠ 3 ∧ homeFault s1 r = none ∧ noGrant s r = false ∧ noGrant s1 r = false ∧ ¬(r.hint = 3 ∧ r.attr.cls = 0))
      (fun _ t a => granted t a (!(match s1.dir? pl with | some e => e.holders.any (· != dk) | none => false) &&
        !(r.attr.cls == 2 && !(winNeeds s1 (pl * 128) 128 true).isEmpty))) ∧
    Happens .ownershipRequest
      (fun s a => AtStage s a r .ownership ∧ lockHolds s r = false ∧ behindOthers s r = false ∧ s1 = countHot s r.pa r.core ∧
        prepLine s r pl true (some dk) = .ready ∧ prepSnoops s r (if r.attr.cls = 2 then winNeeds s (pl * 128) 128 true else []) true = .ready ∧
        prepRoom s pl = .ready ∧ r.attr.cls ≠ 3 ∧ homeFault s1 r = none ∧ pageLocked s r.pa = false ∧
        forwarding s r.pa = none ∧ s.poisoned (pl * 128) 128 = false)
      (fun _ t a => granted t a true))

/-- A grant, the first of its class on its way, with a free way in its set installs its line, in E or S or as a later probe asked, and serves
the request: a load is answered, a drain makes the copy M, or goes on to the home where a probe came first. A probe takes a tracked copy, or
downgrades it, and sends its dirty data; it is answered STALE when the copy or the grant awaited is newer, and without data when none is
held. An answer's sectors reach the home and its target leaves the directory, but for one without data while a writeback is on its way. An M
copy evicted sends its dirty sectors, which are merged at the home and answer an open probe. The host reads a half shared, or alone, waits
its turn for a line that is busy, and writes back one it owns; a snoop's answer merges modified data. Each soft error is counted: it poisons
a sector or a line, drops cached lines or a visitor copy, or is delivered to a block's fault record. The starvation token changes
nothing. -/
def Obligations.CoherenceEventsHappen : Prop :=
  let sent (s t : State) (a : EvArgs) (b : MsgBody) : Prop := t.msgs = s.msgs.filter (fun m => m.id != a.k) ++ [{ id := s.nextId, body := b }]
  (∀ id pl dk excl q rid bs drop r,
    let due (s : State) (a : EvArgs) : Prop :=
      s.msg? a.k = some { id := id, body := .grant pl dk excl q rid bs drop } ∧ msgDue s { id := id, body := .grant pl dk excl q rid bs drop } = true ∧
      s.req? rid = some r ∧ r.pa / 128 = pl ∧ s.vis? dk pl = none ∧
      ∃ k < (s.domain dk).visitor, ∀ v ∈ (s.domain dk).visit, visSet v.pline = visSet pl → v.way ≠ k
    Happens .directoryGrant (fun s a => due s a ∧ r.kind = .load)
      (fun _ t a => t.msg? a.k = none ∧ (∃ x, t.req? rid = some x ∧ x.stage = .answered) ∧
        match drop with
        | some true => t.vis? dk pl = none
        | _ => ∃ v, t.vis? dk pl = some v ∧ v.seq = q ∧ v.bytes = bs ∧ v.dirty = 0 ∧
            v.state = (if drop = some false then .s else if excl then .e else .s)) ∧
    (∀ inval, Happens .directoryGrant (fun s a => due s a ∧ r.kind = .store ∧ drop = some inval)
      (fun _ t a => t.msg? a.k = none ∧ (∃ x, t.req? rid = some x ∧ x.stage = .toHome) ∧
        (inval = true → t.vis? dk pl = none) ∧ (inval = false → ∃ v, t.vis? dk pl = some v ∧ v.state = .s ∧ v.bytes = bs))) ∧
    Happens .directoryGrant (fun s a => due s a ∧ r.kind = .store ∧ drop = none)
      (fun _ t a => t.msg? a.k = none ∧ (∃ x, t.req? rid = some x ∧ x.stage = .acked) ∧
        ∃ v, t.vis? dk pl = some v ∧ v.seq = q ∧ v.state = .m ∧ v.bytes = drainInto bs r.pieces ∧ v.dirty = drainDirty r.pieces)) ∧
  (∀ id pl dk inval q,
    let here (s : State) (a : EvArgs) : Prop :=
      s.msg? a.k = some { id := id, body := .probe pl dk inval q } ∧ msgDue s { id := id, body := .probe pl dk inval q } = true
    let due (s : State) (a : EvArgs) : Prop := here s a ∧ awaited s pl dk = none
    (∀ g rid, Happens .directoryProbe (fun s a => here s a ∧ awaited s pl dk = some (g, rid))
      (fun s t a => t.vis? dk pl = s.vis? dk pl ∧
        ∃ l, t.msgs = l ++ [{ id := s.nextId, body := .answer pl dk q 0 [] (!seqAhead q g) }] ∧ ∀ m ∈ l, m.id ≠ a.k)) ∧
    (∀ v, Happens .directoryProbe (fun s a => due s a ∧ s.vis? dk pl = some v ∧ v.tracked = true ∧ seqAhead v.seq q = false)
      (fun s t a => sent s t a (.answer pl dk q (if v.state = .m then v.dirty else 0) (if v.state = .m then v.bytes else []) false) ∧
        t.vis? dk pl = if inval then none else some { v with state := .s, dirty := 0, seq := q })) ∧
    (∀ v, Happens .directoryProbe (fun s a => due s a ∧ s.vis? dk pl = some v ∧ v.tracked = true ∧ seqAhead v.seq q = true)
      (fun s t a => sent s t a (.answer pl dk q 0 [] true) ∧ t.vis? dk pl = some v)) ∧
    Happens .directoryProbe (fun s a => due s a ∧ ∀ v, s.vis? dk pl = some v → v.tracked = false)
      (fun s t a => sent s t a (.answer pl dk q 0 [] false) ∧ t.vis? dk pl = s.vis? dk pl)) ∧
  (∀ id pl dk q bs stale, Happens .probeAnswer
    (fun s a => s.msg? a.k = some { id := id, body := .answer pl dk q 0 bs stale } ∧
      msgDue s { id := id, body := .answer pl dk q 0 bs stale } = true ∧ (writebackOf s dk pl).isSome = true)
    (fun s t a => t = s.dropMsg a.k)) ∧
  (∀ id pl dk q dirty bs stale t0, Happens .probeAnswer
    (fun s a => s.msg? a.k = some { id := id, body := .answer pl dk q dirty bs stale } ∧ (dirty = 0 ∨ bs.length = 128) ∧
      msgDue s { id := id, body := .answer pl dk q dirty bs stale } = true ∧ (dirty = 0 → writebackOf s dk pl = none) ∧
      (s.domain (homeOfLine pl)).trans.find? (fun x => x.pline == pl && x.waitFor.contains (dk, q)) = some t0)
    (fun s t a => t.msgs = s.msgs.filter (fun m => m.id != a.k) ∧ OnlySectors s t pl dirty bs ∧
      (t.domain (homeOfLine pl)).trans = ((s.domain (homeOfLine pl)).trans.map (fun x => if x = t0 then
        { t0 with waitFor := t0.waitFor.filter (fun y => y != (dk, q)) } else x)).filter (fun x => x.waitFor != [] || x.req.isSome) ∧
      (t0.inval = true → ∀ e, t.dir? pl = some e → e.sharers.getLsbD (domOf dk) = false))) ∧
  (∀ v, Happens .mWriteback
    (fun s a => (∀ m ∈ s.msgs, ∀ d' b', m.body ≠ .writeback a.i a.k d' b') ∧ s.vis? a.k a.i = some v ∧ v.state = .m)
    (fun s t a => t.vis? a.k a.i = none ∧ t.mem = s.mem ∧
      t.msgs = s.msgs ++ [{ id := s.nextId, body := .writeback a.i a.k v.dirty v.bytes }])) ∧
  (∀ m dirty bs, Happens .mWriteback
    (fun s a => writebackOf s a.k a.i = some m ∧ msgDue s m = true ∧ m.body = .writeback a.i a.k dirty bs ∧ bs.length = 128 ∧
      ∀ x ∈ (s.domain (homeOfLine a.i)).trans, x.pline = a.i → ∀ y ∈ x.waitFor, y.1 ≠ a.k)
    (fun s t a => t.msgs = s.msgs.filter (fun x => x.id != m.id) ∧ OnlySectors s t a.i dirty bs ∧
      ∀ e, t.dir? a.i = some e → e.sharers.getLsbD (domOf a.k) = false)) ∧
  (∀ m dirty bs t0, Happens .mWriteback
    (fun s a => writebackOf s a.k a.i = some m ∧ msgDue s m = true ∧ m.body = .writeback a.i a.k dirty bs ∧ bs.length = 128 ∧
      (s.domain (homeOfLine a.i)).trans.find? (fun x => x.pline == a.i && x.waitFor.any (fun y => y.1 == a.k)) = some t0)
    (fun s t a => t.msgs = s.msgs.filter (fun x => x.id != m.id) ∧ OnlySectors s t a.i dirty bs ∧
      (t.domain (homeOfLine a.i)).trans = ((s.domain (homeOfLine a.i)).trans.map (fun x => if x = t0 then
        { t0 with waitFor := t0.waitFor.filter (fun y => y.1 != a.k) } else x)).filter (fun x => x.waitFor != [] || x.req.isSome) ∧
      ∀ e, t.dir? a.i = some e → e.sharers.getLsbD (domOf a.k) = false)) ∧
  (let place (a : EvArgs) : Nat := devAddr (waferOf a.k) (domOf a.k * 2 ^ 35 + 32 * (a.i % 2 ^ 30)); let row := Happens .patrolScrub;
    (∀ k i, (k, i) ∈ [(1, 0), (3, 2), (5, 4), (8, 7)] → row (fun _ a => a.j = k)
      (fun s t a => CountedUp s t a.k i ∧ t = { s with domains := t.domains })) ∧
    row (fun _ a => a.j = 2)
      (fun s t a => CountedUp s t a.k 1 ∧ place a / 32 ∈ t.poison ∧ t = { s with domains := t.domains, poison := t.poison }) ∧
    row (fun _ a => a.j = 4) (fun s t a => CountedUp s t a.k 3 ∧ a.i ∈ t.poison ∧ t.vis? a.k (a.i / 4) = none ∧
      ((∀ v, s.vis? a.k (a.i / 4) = some v → v.state ≠ .m) → t.mem = s.mem)) ∧
    row (fun _ a => a.j = 6) (fun s t a => CountedUp s t a.k 5 ∧ (∀ e, t.dir? (place a / 128) = some e → e.sharers = 0) ∧
      ∀ i < 4, place a / 128 * 4 + i ∈ t.poison) ∧
    row (fun _ a => a.j = 7) (fun s t a => CountedUp s t a.k 6 ∧ t.mem = s.mem ∧
      ∀ ck, dkOfCk ck = a.k → ∀ l ∈ (t.core ck).l1, l.attr.pline ≠ a.i / 4) ∧
    (∀ b, row (fun s a => a.j = 9 ∧ s.block? a.i = some b ∧ dkOfCk b.core = a.k)
      (fun s t a => t = recordFault (countErr s a.k 8) a.i 0 { code := codeEcc, kind := 1, lanes := 0, addr := 0, pc := 0 }))) ∧
  (∀ x, let half (t : State) (a : EvArgs) : Nat := Tab.get 0 (t.wafer a.k).halves a.i
    let place (own : Bool) (s : State) (a : EvArgs) : Nat :=
      match (s.wafer a.k).hostReads.find? (fun h => h.1 == a.i && h.2.1 == own) with | some h => h.2.2 | none => s.nextId
    let goes (own : Bool) (s : State) (a : EvArgs) : Prop := halfAddr s a.k a.i = some x ∧ hostBehind s a.k a.i (x / 128) (place own s a) = false
    let waits (own : Bool) (s : State) (a : EvArgs) : Prop := halfAddr s a.k a.i = some x ∧ hostBehind s a.k a.i (x / 128) s.nextId = true ∧
      ∀ h ∈ (s.wafer a.k).hostReads, ¬(h.1 = a.i ∧ h.2.1 = own)
    let queued (own : Bool) (s t : State) (a : EvArgs) : Prop := t = { s with wafers := t.wafers, nextId := s.nextId + 1 } ∧
      t.wafer a.k = { s.wafer a.k with hostReads := (s.wafer a.k).hostReads ++ [(a.i, own, s.nextId)] }
    Happens .cxlHostSharedRead (goes false) (fun _ t a => half t a = 1 ∧ ∀ e, t.dir? (x / 128) = some e → e.owned = false) ∧
    Happens .cxlHostSharedRead (waits false) (queued false) ∧
    Happens .cxlHostOwnershipRead (goes true) (fun _ t a => half t a = 2 ∧ ∀ e, t.dir? (x / 128) = some e → e.sharers = 0) ∧
    Happens .cxlHostOwnershipRead (waits true) (queued true) ∧
    Happens .cxlHostWriteBack (fun s a => halfAddr s a.k a.i = some x ∧ half s a = 2 ∧ a.data.length = 64)
      (fun s t a => half t a = (if a.flag then 1 else 0) ∧ OnlyBytes s t x a.data) ∧
    (∀ inval, Happens .backInvalidationResponse
      (fun s a => halfAddr s a.k a.i = some x ∧ (s.wafer a.k).snoops.find? (fun e => e.1 == a.i) = some (a.i, inval, 0))
      (fun s t a => (a.i, inval, 0) ∉ (t.wafer a.k).snoops ∧ half t a = (if inval = true ∨ half s a = 0 then 0 else 1) ∧
        (half s a = 2 → a.data.length = 64 → OnlyBytes s t x a.data) ∧ (half s a ≠ 2 → t.mem = s.mem)))) ∧
  Happens .starvationToken (fun _ _ => True) (fun s t _ => t = s)

/-- A write of L2SPLIT begins a change that ends, when no grant is on its way, with the new size, the copies in the ways that leave the
partition given up and their dirty sectors home. CNTCLR clears the counters it names. DIRRD looks a directory line up. SCHEDMODE comes into
force on a core without a user block, else later; SLEWUP, SLEWDOWN and RAMPLO come into force at the next Safelight step, which counts and
sets every busy bay's duties from the ROTOR of its wafer. ARBPRE and DBGCMD BREAK ask for the save of the blocks on a core. TOPOBASE makes
the units load their pointers from the table. A register takes its value, a refused write none; a host's write that is unaligned or of
another width than 32 bits, through a port where nothing waits, is counted and has no effect. -/
def Obligations.RegisterEventsHappen : Prop :=
  let onlyDomain (s t : State) (a : EvArgs) (f : Domain → Domain) : Prop := t = s.updDomain a.k f
  let onlyBay (s t : State) (a : EvArgs) (f : Bay → Bay) : Prop := t = s.updBay a.k f
  let asked (s t : State) (ck reason : Nat) (p : Block → Prop) : Prop := ∀ b, s.block? b.bid = some b → b.core = ck → b.phase ≠ .ending → p b →
    ∃ b', t.block? b.bid = some b' ∧ b'.phase = b.phase.ask reason
  let split (a : EvArgs) : Nat := a.v.toNat % 16
  Happens .l2split (fun s a => (s.domain a.k).splitBusy = none ∧ split a ≤ 12)
    (fun s t a => onlyDomain s t a (fun d => { d with splitBusy := some (split a) })) ∧
  Happens .l2split (fun s a => (s.domain a.k).splitBusy.isSome = true ∨ 12 < split a) (fun s t _ => t = s) ∧
  (∀ n, let due (s : State) (a : EvArgs) : Prop := (s.domain a.k).splitBusy = some n ∧ splitDue s a.k = true
    Happens .l2splitDone (fun s a => due s a ∧ ∀ v ∈ (s.domain a.k).visit, v.way < n)
      (fun s t a => onlyDomain s t a (fun d => { d with visitor := n, splitBusy := none })) ∧
    Happens .l2splitDone (fun s a => due s a)
      (fun s t a => (t.domain a.k).visitor = n ∧ (t.domain a.k).splitBusy = none ∧
        (∀ v ∈ (t.domain a.k).visit, v ∈ (s.domain a.k).visit ∧ v.way < n) ∧
        (∀ v ∈ (s.domain a.k).visit, (∀ x ∈ (s.domain a.k).visit, x.pline = v.pline → x.way < n) → v ∈ (t.domain a.k).visit) ∧
        ∀ v ∈ (s.domain a.k).visit, n ≤ v.way → v.state = .m → v.bytes.length = 128 →
          (∀ x ∈ (s.domain a.k).visit, x.pline = v.pline → x = v) →
          ∀ i < 4, v.dirty.getLsbD i = true → memRead t.mem (v.pline * 128 + 32 * i) 32 = lineSlice v.bytes (32 * i) 32)) ∧
  Happens .cntclr (fun _ _ => True) (fun s t a => t = { s with domains := t.domains } ∧
    ∀ i, (t.domain a.k).counters.get 0 i = if a.v.getLsbD i = true ∧ i < 16 ∧ i ≠ 11 then 0 else (s.domain a.k).counters.get 0 i) ∧
  Happens .dirrd (fun s a => (s.domain a.k).dirrd = none) (fun s t a =>
    onlyDomain s t a (fun d => { d with dirrd := some (devAddr (waferOf a.k) (domOf a.k * 2 ^ 35) / 128 + a.v.toNat % 2 ^ 28) })) ∧
  (∀ pl e, Happens .dirrdDone (fun s a => (s.domain a.k).dirrd = some pl ∧ s.dir? pl = some e ∧ e.owner < 64)
    (fun _ t a => let d := t.domain a.k
      d.dirrd = none ∧ d.dirHit = true ∧ d.dirent.extractLsb' 0 56 = e.sharers ∧ d.dirent.extractLsb' 56 6 = BitVec.ofNat 6 (if e.owned then e.owner else 0) ∧
      d.dirent.extractLsb' 62 2 = (if e.owned then 2 else 1) ∧ d.dirent.extractLsb' 64 8 = e.seq ∧
      d.dirent.extractLsb' 72 34 = BitVec.ofNat 34 e.pline)) ∧
  (∀ pl, Happens .dirrdDone (fun s a => (s.domain a.k).dirrd = some pl ∧ s.dir? pl = none)
    (fun s t a => onlyDomain s t a (fun d => { d with dirrd := none, dirHit := false, dirent := 0 }))) ∧
  Happens .schedmodeWrite (fun s a => coreOn s (dkOfCk a.k) (slotOfCk a.k) = true)
    (fun s t a => t = { s with cores := t.cores } ∧ (∀ ck, ck ≠ a.k → t.core ck = s.core ck) ∧
      t.core a.k = if ∀ b ∈ blocksOn s a.k, b.lrec.privileged = true then { s.core a.k with schedmode := a.v.getLsbD 0, schedPending := none }
        else { s.core a.k with schedPending := some (a.v.getLsbD 0) }) ∧
  (let slew (a : EvArgs) : Nat := a.v.toNat % 128; let on (s : State) (a : EvArgs) : Prop := bayOn s a.k = true;
    Happens .slewup (fun s a => on s a ∧ 1 ≤ slew a ∧ slew a ≤ 64) (fun s t a => onlyBay s t a (fun b => { b with nextUp := some (slew a) })) ∧
    Happens .slewdown (fun s a => on s a ∧ 1 ≤ slew a ∧ slew a ≤ 64) (fun s t a => onlyBay s t a (fun b => { b with nextDown := some (slew a) })) ∧
    Happens .slewup (fun s a => on s a ∧ (slew a = 0 ∨ 64 < slew a)) (fun s t _ => t = s) ∧
    Happens .slewdown (fun s a => on s a ∧ (slew a = 0 ∨ 64 < slew a)) (fun s t _ => t = s) ∧
    Happens .ramplo on (fun s t a => ∃ r, onlyBay s t a (fun b => { b with nextRamplo := some r }) ∧
      ∀ i < 8, (r.extractLsb' (4 * i) 4).toNat = min 8 (a.v.extractLsb' (4 * i) 4).toNat)) ∧
  Happens .safelightStep (fun s _ => 4 * (s.safelightSteps + 1) ≤ s.clock)
    (fun s t _ => t.safelightSteps = s.safelightSteps + 1 ∧ t.clock = s.clock ∧ ∀ e ∈ s.bays, let b := s.bay e.1
      (t.bay e.1).slewUp = b.nextUp.getD b.slewUp ∧ (t.bay e.1).slewDown = b.nextDown.getD b.slewDown ∧
      (t.bay e.1).ramplo = b.nextRamplo.getD b.ramplo ∧ (t.bay e.1).nextUp = none ∧ (t.bay e.1).nextDown = none ∧ (t.bay e.1).nextRamplo = none ∧
      ∃ dem, (t.bay e.1).duties =
        dutyStep b.latch (rotorOf s e.1) (if (t.wafer (waferOf (e.1 / 8))).reduced then 4 else 8) dem) ∧
  Happens .arbpre (fun _ _ => True) (fun s t a => asked s t (mkCk a.k (a.v.toNat % 64)) 0x80 (fun _ => True)) ∧
  Happens .dbgcmdBreak (fun _ _ => True) (fun s t a => asked s t (mkCk a.k a.i) 0x82 (fun b => a.flag = true ∨ b.world = false)) ∧
  Happens .topobaseWrite (fun _ _ => True) (fun s t a =>
    let s1 := s.updWafer a.k (fun x => { x with topobase := (x.topobase >>> 32).setWidth 32 ++ (a.v &&& 0xFFFFF000) })
    let table := (s1.unitRead (topoAddr s1 a.k 0) 8192).1
    (t.wafer a.k).topobase = (s1.wafer a.k).topobase ∧ ∀ d < 56,
      (t.domain (mkDk a.k d)).root = BitVec.ofNat 64 (fld table (0x50 + 64 * d) 8) ∧
      (t.domain (mkDk a.k d)).sftBase = BitVec.ofNat 64 (fld table (0x58 + 64 * d) 8) ∧
      (t.domain (mkDk a.k d)).hotBase = BitVec.ofNat 64 (fld table (0x60 + 64 * d) 8)) ∧
  (let at_ (o : Nat) (a : EvArgs) : Prop := a.i = o; let port (a : EvArgs) : Nat := mkDk a.k (hostDomains.getD (a.j % 4) 0);
    let write (pre : State → EvArgs → Prop) (post : State → State → EvArgs → Prop) : Prop :=
      Happens .registerWrite (fun s a => (a.orig = .host → (s.domain (port a)).portq = [] ∧ a.data = []) ∧ pre s a) post
    let secure (a : EvArgs) : Bool := match a.orig with | .host => false | .firmware x => x | .device x => x;
    write (fun _ a => a.i % 4 ≠ 0 ∧ a.orig ≠ .host) (fun s t _ => t = s) ∧
    Happens .registerWrite (fun s a => a.orig = .host ∧ (s.domain (port a)).portq = [] ∧ (a.i % 4 ≠ 0 ∨ (a.data ≠ [] ∧ a.data.length ≠ 4)))
      (fun s t a => CountedUp s t (port a) 10 ∧ t = { s with domains := t.domains }) ∧
    write (fun _ a => 0x50 ≤ a.i ∧ a.i < 0x60 ∧ a.i % 4 = 0 ∧ secure a = false) (fun s t _ => t = s) ∧
    write (fun _ a => at_ 0x10 a ∧ ∀ x, a.orig ≠ .firmware x) (fun s t _ => t = s) ∧
    (∀ x, write (fun _ a => at_ 0x10 a ∧ a.orig = .firmware x) (fun s t a => t = s.updWafer a.k (fun x => { x with podmap := a.v.setWidth 16 }))) ∧
    write (fun _ a => at_ 4 a ∧ a.v.toNat % 64 ≠ 0) (fun s t a => t = s.updWafer a.k (fun x => { x with preemptgap := a.v.toNat % 64 })) ∧
    write (fun s a => at_ 0x30 a ∧ (s.wafer a.k).hostwinEn = false)
      (fun _ t a => apRead t a.k 0x30 false = a.v &&& 0xF0000000) ∧
    (∀ d, write (fun _ a => d < 56 ∧ at_ (0x1000000 + 0x100000 * d + 0x28) a)
      (fun s t a => t = s.updDomain (mkDk a.k d) (fun x => { x with hotthresh := a.v.setWidth 16 }))) ∧
    (∀ d, write (fun s a => d < 56 ∧ at_ (0x1000000 + 0x100000 * d + 0x18) a ∧ (s.domain (mkDk a.k d)).saves = [])
      (fun s t a => t = s.updDomain (mkDk a.k d) (fun x => { x with savePages := a.v.toNat % 2 ^ 20 }))))

/-- A core that acknowledges a purge drops the range's lines but for locked code. A migration is turned away with its status or moves its
page: the page is locked at its home and the TLB entry moves; then its bytes are copied and the purge is sent; with every forwarded write
accepted the lock ends, the held requests go on and the status is 0. A valid relocation set comes in force and its spans' copies are
recalled, replicas too, an invalid one sets ERR, RETIRE ends it; the Orangery skips a pinned object, copies another, and ends the set. A
sweep goes over its words, rewriting a stale reference; a record without words ends it, one with a reserved field set ends it with ERR. -/
def Obligations.MigrationAndRelocationHappen : Prop :=
  let status (s t : State) (tag : Option Nat) (n : Nat) : Prop := ∀ x p, tag = some x → s.pend? x = some p →
    t.pend? x = some { p with vals := [(0, BitVec.ofNat 128 n)] }
  (∀ u, Happens .xlatPurge (fun s a => s.unitOps.find? (fun x => x.op == a.k) = some u ∧ u.phase = 2 ∧ a.i ∈ u.cores)
    (fun s t a => (∀ ck, ck ≠ a.i → t.core ck = s.core ck) ∧
      (∀ l, l ∈ (t.core a.i).l1 ↔ l ∈ (s.core a.i).l1 ∧ u.hasLine l.vline = false) ∧
      (∀ l, l ∈ (t.core a.i).icache ↔ l ∈ (s.core a.i).icache ∧ (u.hasLine l.vline = false ∨ l.locks ≠ [])) ∧
      t.unitOps.find? (fun x => x.op == a.k) = some { u with cores := u.cores.filter (· != a.i) })) ∧
  (∀ m rest s1, let queued (s : State) (a : EvArgs) : Prop := (s.domain a.k).migs = m :: rest ∧ m.phase = 0 ∧ m ∉ rest
    Happens .migrationStart (fun s a => queued s a ∧ findLeaf s a.k (m.vpage * m.size) false = (none, s1))
      (fun s t a => (t.domain a.k).migs = rest ∧ status s t m.tag 2) ∧
    (∀ l, let leaf (s : State) (a : EvArgs) : Prop := queued s a ∧ findLeaf s a.k (m.vpage * m.size) false = (some l, s1)
      let lies : Prop := m.newPa % l.size = 0 ∧ namesMemory m.newPa = true
      Happens .migrationStart (fun s a => leaf s a ∧ l.size = 2 ^ 30) (fun s t a => (t.domain a.k).migs = rest ∧ status s t m.tag 1) ∧
      Happens .migrationStart (fun s a => leaf s a ∧ l.size ≠ 2 ^ 30 ∧ ¬lies) (fun s t a => (t.domain a.k).migs = rest ∧ status s t m.tag 3) ∧
      Happens .migrationStart (fun s a => leaf s a ∧ l.size ≠ 2 ^ 30 ∧ lies ∧ m.newPa = l.frame)
        (fun s t a => (t.domain a.k).migs = rest ∧ status s t m.tag 0) ∧
      Happens .migrationStart (fun s a => leaf s a ∧ l.size ≠ 2 ^ 30 ∧ lies ∧ m.newPa ≠ l.frame ∧
          (l.cls = 1 → busySpan s1 (leafPa a.k l) l.size = false) ∧ (∀ u ∈ s1.unitOps, u.what = 1 → u.dk = a.k → u.phase = 0) ∧
          winNeeds s1 (leafPa a.k l) l.size true = [])
        (fun _ t a => (leafPa a.k l, l.size, a.k) ∈ (t.domain (homeOf (leafPa a.k l))).pageLocks ∧
          (t.domain a.k).migs = { m with vpage := m.vpage * m.size / l.size, size := l.size, oldPa := leafPa a.k l,
                                         newPa := devAddr (waferOf a.k) m.newPa, phase := 1 } :: rest ∧
          ∀ e ∈ (t.domain a.k).tlb, e.page = m.vpage * m.size / l.size → e.size = l.size → e.moving = true))) ∧
  (∀ m l s1, Happens .migrationSwitch (fun s a => s.memOk ∧ (s.domain a.k).migs.find? (fun x => x.phase == 1) = some m ∧
      findLeaf s a.k (m.vpage * m.size) false = (some l, s1))
    (fun _ t a => { m with phase := 2 } ∈ (t.domain a.k).migs ∧
      (∃ u ∈ t.unitOps, u.what = 2 ∧ u.phase = 2 ∧ u.dk = a.k ∧ u.lo = m.vpage * m.size ∧ u.hi = m.vpage * m.size + m.size) ∧
      (m.oldPa + m.size ≤ m.newPa ∨ m.newPa + m.size ≤ m.oldPa → l.addr % 8 = 0 →
        (l.addr / 128 * 128 + 128 ≤ m.newPa ∨ m.newPa + m.size ≤ l.addr / 128 * 128) → hotTable s1 (homeOf m.oldPa) = none →
        hotTable s1 (homeOf m.newPa) = none →
        ∀ i < m.size, memGet t.mem (m.newPa + i) = memGet (clearFrame s1 m.newPa m.size).mem (m.oldPa + i)))) ∧
  (∀ m, Happens .migrationRelease (fun s a => (s.domain a.k).migs.find? (fun x => x.phase == 3) = some m ∧
      ∀ id ∈ m.fwd, ∀ r, s.req? id = some r → r.stage.isOpen = false)
    (fun s t a => m ∉ (t.domain a.k).migs ∧
      (∀ x p, m.tag = some x → s.pend? x = some p → ∃ q, t.pend? x = some q ∧ q.vals = [(0, 0)] ∧ q.dst = p.dst ∧ q.need = p.need) ∧
      (∀ l ∈ (t.domain (homeOf m.oldPa)).pageLocks, ¬(l.1 = m.oldPa ∧ l.2.2 = a.k)) ∧
      ∀ q ∈ t.reqs, q.stage = .heldOwner → ∀ off, translator (waferOf (dkOfCk q.core)) q.target = (a.k, off) → ownerOf q.target ≠ 56 →
        ¬(m.vpage * m.size ≤ off ∧ off < m.vpage * m.size + m.size))) ∧
  (∀ s1, let idle (s : State) (a : EvArgs) : Prop := (s.domain a.k).relBusy = false
    Happens .relcmdStart (fun s a => idle s a ∧ readSet s a.k a.flag = (none, s1))
      (fun _ t a => t = s1.updDomain a.k (fun d => { d with relErr := true })) ∧
    (∀ r, Happens .relcmdStart (fun s a => idle s a ∧ readSet s a.k a.flag = (some r, s1))
      (fun _ t a => (t.domain a.k).rel = some r ∧ ∀ pl, homeOfLine pl = a.k → (∃ sp ∈ r.spans, sp.frame = pl / 512) →
        (∀ e, t.dir? pl = some e → e.sharers = 0) ∧
        ∀ dk ∈ domainsOf (waferOf a.k), ∀ v ∈ (t.domain dk).visit, v.pline = pl → v.state ≠ .r)) ∧
    Happens .relcmdStart (fun s a => (s.domain a.k).relBusy = true) (fun s t _ => t = s) ∧
    Happens .relcmdRetire idle (fun s t a => t = s.updDomain a.k (fun d => { d with rel := none })) ∧
    Happens .relcmdSweep idle (fun s t a =>
      let good := (s.wafer (waferOf a.k)).phase.get 0 (if a.flag then 1 else 0)
      let sw : Sweep := { rec_ := (s.domain a.k).relsweep, word := 0, world := a.flag, good := good, written := 0, skipped := 0 }
      t = s.updDomain a.k (fun d => { d with sweep := some sw }))) ∧
  (∀ r, let due (s : State) (a : EvArgs) : Prop := (s.domain a.k).rel = some r ∧ r.busy = true ∧ r.tokens = []
    Happens .orangeryCopy (fun s a => due s a ∧ ∀ e ∈ r.entries, e.state = .copied ∨ e.state = .skipped)
      (fun _ t a => (t.domain a.k).rel = some { r with busy := false } ∧ (t.domain a.k).relDone = true) ∧
    (∀ (i : Nat) e sp, let now (t : State) (a : EvArgs) (st : FwdState) : Prop :=
        ∃ r', (t.domain a.k).rel = some r' ∧ r'.entries[i]? = some { e with state := st }
      let addr := sp.frame * 2 ^ 16 + e.old % 2 ^ 16
      let next (s : State) (a : EvArgs) : Prop := due s a ∧ r.nextEntry = some i ∧ r.entries[i]? = some e ∧ e.state = .uncopied ∧
        r.spans.find? (fun x => decide (x.first ≤ i) && decide (i < x.first + x.count)) = some sp
      Happens .orangeryCopy (fun s a => next s a ∧ bitsOf (s.unitNat addr 8).1 31 24 ≠ 0) (fun _ t a => now t a .skipped) ∧
      (∀ s4, Happens .orangeryCopy (fun s a => next s a ∧
          let h := s.unitNat addr 8
          let x := (setFwd h.2 a.k i .copying).unitRead addr (min (8 * (h.1 % 2 ^ 13 + 1)) (2 ^ 16 - e.old % 2 ^ 16))
          bitsOf h.1 31 24 = 0 ∧ writeObject (waferOf a.k) r ((BitVec.ofNat 57 e.new).signExtend 64) (x.1.set 3 0) x.2 = (.ok (), s4))
        (fun _ t a => now t a .copied)))) ∧
  (∀ sw s1, let reads (s : State) (a : EvArgs) (x : Option (Nat × Nat)) : Prop := (s.domain a.k).sweep = some sw ∧
      unitLoad s (waferOf a.k) sw.rec_ 16 sw.world = (x, s1)
    let ended (t : State) (a : EvArgs) : Prop := (t.domain a.k).sweep = none ∧ (t.domain a.k).relSwept = true
    Happens .sweepWord (fun s a => reads s a none) (fun _ t a => ended t a ∧ (t.domain a.k).relErr = true) ∧
    (∀ x h, let bad : Prop := bitsOf x 2 0 ≠ 0 ∨ bitsOf x 63 57 ≠ 0 ∨ (bitsOf x 95 64 ≠ 0 ∧ bitsOf x 127 96 ≠ 0)
      Happens .sweepWord (fun s a => reads s a (some (x, h)) ∧ bad) (fun _ t a => ended t a ∧ (t.domain a.k).relErr = true) ∧
      Happens .sweepWord (fun s a => reads s a (some (x, h)) ∧ ¬bad ∧ bitsOf x 95 64 = 0)
        (fun s t a => ended t a ∧ (t.domain a.k).relErr = (s.domain a.k).relErr) ∧
      (let va := ((BitVec.ofNat 57 x).signExtend 64) + BitVec.ofNat 64 (8 * sw.word); let words := bitsOf x 95 64;
        let named (s : State) (a : EvArgs) (p : Nat) (s2 : State) : Prop := reads s a (some (x, h)) ∧ words ≠ 0 ∧ bitsOf x 2 0 = 0 ∧
          bitsOf x 63 57 = 0 ∧ bitsOf x 127 96 = 0 ∧ unitXlat s1 (waferOf a.k) va .read sw.world (fun c => c == 0 || c == 1) = (some p, s2);
        ∀ p s2, let word : DWord := BitVec.ofNat 64 (s2.unitNat p 8).1
          Happens .sweepWord (fun s a => named s a p s2 ∧ (refNull word = true ∨ (refColour word = sw.good ∧
              forwardingOf (s2.unitNat p 8).2 (waferOf a.k) (vaddr (refAddr word)) = none)))
            (fun _ t a => (t.domain a.k).sweep = some (sw.next words) ∧ t.mem = (s2.unitNat p 8).2.mem) ∧
          (∀ p' s3, let new := healRef word sw.good (BitVec.ofNat 64 (vaddr (refAddr word)))
            Happens .sweepWord (fun s a => named s a p s2 ∧ refNull word = false ∧ refColour word ≠ sw.good ∧ new ≠ word ∧
                forwardingOf (s2.unitNat p 8).2 (waferOf a.k) (vaddr (refAddr word)) = none ∧
                unitXlat (s2.unitNat p 8).2 (waferOf a.k) va .rmw sw.world (fun c => c == 0 || c == 1) = (some p', s3))
              (fun _ t a => (t.domain a.k).sweep = some (Sweep.next { sw with written := sw.written + 1 } words) ∧
                memRead t.mem p' 8 = bytesOfNat 8 new.toNat)))))

/-- At the bridge an aperture load is answered with the register and a store writes it; a secure register refuses a non-secure access and the
aperture every read-modify-write; host memory is loaded, stored, and changed by add, xchg and cas only. Through an open window of a port
where nothing waits an inbound write stores its bytes and a read is completed with the data; one that cannot be made is counted and a read
completed with Completer Abort, one outside the window is unsupported, one that must wait is kept. A pod-remote request is performed at the
remote home, and ends the link's run of failed replays, or meets LINK_DOWN. A failed beat is counted, and after eight replays the link
goes down; for a trained link firmware makes GEN odd and writes the entry with its peer, and then makes GEN even again and the units reload
the table. -/
def Obligations.PortAndLinkEventsHappen : Prop :=
  (∀ r, let plain : Prop := r.pieces = [] ∧ r.kind ≠ .prefetch ∧ r.kind ≠ .heal
    let w := waferOf (dkOfCk r.core)
    (∀ o, let at_ (s : State) (a : EvArgs) : Prop := AtStage s a r .bridge ∧ apertureOff r.target = some o
      Happens .bridgeAccess (fun s a => at_ s a ∧ r.kind = .load ∧ (apSecure o = true → r.secure = true))
        (fun s t a => NowAnswered t a ((apRead s w o r.secure).setWidth 128)) ∧
      Happens .bridgeAccess (fun s a => at_ s a ∧ plain ∧ (r.kind = .load ∨ r.kind = .store) ∧ apSecure o = true ∧ r.secure = false)
        (fun _ t a => NowAt t a r (.faulted codeWorld false)) ∧
      Happens .bridgeAccess (fun s a => at_ s a ∧ plain ∧ r.kind = .store ∧ o = 4 ∧ r.data.toNat % 64 ≠ 0)
        (fun _ t a => NowAt t a r .acked ∧ (t.wafer w).preemptgap = r.data.toNat % 64) ∧
      (∀ op, Happens .bridgeAccess (fun s a => at_ s a ∧ plain ∧ (r.kind = .rmw op ∨ r.kind = .red op))
        (fun _ t a => NowAt t a r (.faulted codeAtomicClass false)))) ∧
    (∀ l s1 x s2, let dk := mkDk w 0
      let at_ (s : State) (a : EvArgs) : Prop := AtStage s a r .bridge ∧ apertureOff r.target = none ∧
        findLeaf s dk (offsetOf r.target) true = (some l, s1) ∧ useLeaf s1 dk (offsetOf r.target) true l r.access r.priv r.secure = (.ok x, s2)
      Happens .bridgeAccess (fun s a => at_ s a ∧ r.kind = .load)
        (fun _ t a => NowAnswered t a (BitVec.ofNat 128 (natOfBytes (memRead s2.mem x.addr r.size))) ∧ t.mem = s2.mem) ∧
      Happens .bridgeAccess (fun s a => at_ s a ∧ plain ∧ r.kind = .store)
        (fun _ t a => (∃ q, t.req? a.k = some q ∧ q.stage = .acked) ∧ OnlyBytes s2 t x.addr (bytesOfNat r.size r.data.toNat)) ∧
      (∀ op, let old : DWord := BitVec.ofNat 64 (natOfBytes (memRead s2.mem x.addr r.size))
        let rmw : Prop := r.kind = .rmw op ∨ r.kind = .red op
        let may : Prop := rmwOf op = .add ∨ rmwOf op = .xchg ∨ rmwOf op = .cas
        Happens .bridgeAccess (fun s a => at_ s a ∧ rmw ∧ may)
          (fun _ t _ => OnlyBytes s2 t x.addr (bytesOfNat r.size (rmwNew (rmwOf op) r.size false old r.cmp (r.data.setWidth 64)).1.toNat)) ∧
        Happens .bridgeAccess (fun s a => at_ s a ∧ plain ∧ rmw ∧ ¬may)
          (fun _ t a => ∃ q, t.req? a.k = some q ∧ q.stage = .faulted codeAtomicClass false)))) ∧
  (let here (s : State) (a : EvArgs) : Prop := (portOf a.k).isSome = true ∧ (s.domain a.k).portq = [];
    let in_ (s : State) (a : EvArgs) : Prop := here s a ∧ 30 ≤ (s.domain a.k).inwinLog ∧ (s.domain a.k).inwinLog ≤ 46 ∧
      a.i + a.data.length ≤ 2 ^ (s.domain a.k).inwinLog;
    let told (s t : State) (a : EvArgs) (c : PortCpl) : Prop :=
      (t.domain a.k).cpls = if a.flag then (s.domain a.k).cpls else (s.domain a.k).cpls ++ [c];
    let va (s : State) (a : EvArgs) : DWord := (s.domain a.k).inwin + BitVec.ofNat 64 a.i;
    let one (s : State) (a : EvArgs) : Prop := a.data ≠ [] ∧ vaddr (va s a) % 8 + a.data.length ≤ 8;
    Happens .inboundAccess (fun _ a => portOf a.k = none) (fun s t _ => t = s) ∧
    Happens .inboundAccess (fun s a => here s a ∧ ¬in_ s a) (fun s t a => t = { s with domains := t.domains } ∧ told s t a .unsupported) ∧
    (∀ x s1, Happens .inboundAccess (fun s a => in_ s a ∧ one s a ∧ a.flag = false ∧
        inboundPlace s (waferOf a.k) (va s a) a.data.length .read = (some x, s1, false))
      (fun _ t a => told s1 t a (.data (placeRead s1 x a.data.length).1))) ∧
    (∀ s1, Happens .inboundAccess (fun s a => in_ s a ∧ one s a ∧
        inboundPlace s (waferOf a.k) (va s a) a.data.length (if a.flag then .write else .read) = (none, s1, true))
      (fun _ t a => t = s1.updDomain a.k (fun d => { d with portq := [{ bar0 := false, write := a.flag, off := a.i, bytes := a.data }] }))) ∧
    (∀ x s1, Happens .inboundAccess (fun s a => in_ s a ∧ one s a ∧ a.flag = true ∧
        inboundPlace s (waferOf a.k) (va s a) a.data.length .write = (some x, s1, false))
      (fun _ t a => memRead t.mem x a.data.length = a.data)) ∧
    (∀ s1, Happens .inboundAccess (fun s a => in_ s a ∧ one s a ∧
        inboundPlace s (waferOf a.k) (va s a) a.data.length (if a.flag then .write else .read) = (none, s1, false))
      (fun _ t a => CountedUp s1 t a.k 10 ∧ told s1 t a .abort ∧ t = { s1 with domains := t.domains }))) ∧
  (∀ r s1, let w := waferOf (dkOfCk r.core)
    let w' := waferOf (homeOf r.pa)
    Happens .podRemoteRequest (fun s a => AtStage s a r .remote ∧ r.pieces = [] ∧ r.kind ≠ .prefetch ∧ r.kind ≠ .heal ∧ podReach s w w' = false)
      (fun _ t a => NowAt t a r (.faulted codeLinkDown false)) ∧
    (let at_ (s : State) (a : EvArgs) : Prop := AtStage s a r .remote ∧ podReach s w w' = true ∧ lockHolds s r = false ∧
        behindForward s r = false ∧ behindOthers s r = false ∧ prepHome s r = .ready ∧ s1 = countHot s r.pa r.core ∧ homeFault s1 r = none ∧
        r.splits = false ∧ r.half = none;
      let calm (s t : State) : Prop := ∀ n, routeLink s w (domOf (dkOfCk r.core)) w' (r.pa / 128) = some n →
        ((t.wafer w).links.get .init n).replays = 0;
      Happens .podRemoteRequest (fun s a => at_ s a ∧ r.kind = .store ∧ r.pieces = [])
        (fun s t a => NowAt t a r .acked ∧ OnlyBytes s1 t r.pa (bytesOfNat r.size r.data.toNat) ∧ calm s t) ∧
      Happens .podRemoteRequest (fun s a => at_ s a ∧ r.kind = .load ∧ r.strong = true ∧ r.pa % 128 + r.size ≤ 128)
        (fun s t a => NowAnswered t a (BitVec.ofNat 128 (natOfBytes (memRead s1.mem r.pa r.size))) ∧ calm s t))) ∧
  (∀ l, let link (s : State) (a : EvArgs) : Prop := a.i < 32 ∧ (s.wafer a.k).links.get .init a.i = l ∧ l.present = true
    let now (t : State) (a : EvArgs) : PodLink := (t.wafer a.k).links.get .init a.i
    let ctr (a : EvArgs) : Nat := 12 + 2 * (a.i % 2)
    Happens .linkBeatCrcError (fun s a => link s a ∧ l.usable = true ∧ l.replays < 8)
      (fun s t a => now t a = { l with replays := l.replays + 1 } ∧ CountedUp s t (mkDk a.k (linkDomain a.i)) (ctr a)) ∧
    Happens .linkBeatCrcError (fun s a => link s a ∧ l.usable = true ∧ 8 ≤ l.replays)
      (fun s t a => now t a = { l with usable := false, replays := 0 } ∧ CountedUp s t (mkDk a.k (linkDomain a.i)) (ctr a + 1)) ∧
    Happens .linkTraining (fun s a => link s a ∧ a.flag = true ∧ (s.wafer a.k).training = none)
      (fun s t a => t = ((genStep s a.k).unitWrite (topoAddr (genStep s a.k) a.k (linkOff a.i))
        [BitVec.ofNat 8 (a.j % 16), BitVec.ofNat 8 (a.j / 16 % 32), 3]).updWafer a.k (fun x => { x with training := some a.i })) ∧
    Happens .linkTraining (fun s a => link s a ∧ (a.flag = false ∨ (s.wafer a.k).training.isSome = true)) (fun s t _ => t = s)) ∧
  (∀ s ms w, pairPath s = none → s.agenda = .firmware w :: ms → (s.wafer w).training.isSome = true →
    let s1 : State := { s with agenda := ms }
    step s = .next (writeLinks s1 w (topoReload (genStep (s1.updWafer w (fun x => { x with training := none })) w) w)))

/-- An operation whose turn it is: mzero clears its tile; mload fills the next row; mma reads B and then computes a row, freeing its locks
after the last; mrow exchanges a row with a register pair; mdrain hands its tile to the Fixer. A translation fault logs the operation,
another abandons it. An engine command that may start, or has, does its next row: enl converts a tensor row into the slice, and a command
after its last row waits for its completion word or is off its queue. The completion writes CVAL at CADDR and frees the command's locks. -/
def Obligations.ArrayAndEngineEventsHappen : Prop :=
  (∀ (m : MatOp) (f : FmtA) (b : Block),
    let turn (i : Instr) (s : State) (a : EvArgs) : Prop :=
      matNext s a.k = some m ∧ m.fields = some (i, f) ∧ s.block? m.bid = some b ∧ m.row < 64
    let unit (a : EvArgs) : UWho := { ck := a.k, bid := m.bid, secure := m.secure, priv := m.priv }
    let tile := tileOfD f
    let old (j : Nat) : Word := b.elem tile m.row j
    let kb := m.kops.drop 4
    let k := wordAt m.kops 3
    let step (pre : State → EvArgs → Prop) (post : State → State → EvArgs → Block → Prop) : Prop :=
      Happens .matrixOpTurn pre (fun s t a => ∃ b', t.block? m.bid = some b' ∧ post s t a b')
    step (turn .mzero) (fun s t a b' => QueuedAs s t a.k m none ∧ Unlocked t a.k m.op ∧ (∀ i < 64, ∀ j < 64, b'.elem tile i j = 0) ∧
      ∀ k', k' ≠ tile → ∀ i < 64, ∀ j < 64, b'.elem k' i j = b.elem k' i j) ∧
    (∀ bs s1, step (fun s a => turn .mload s a ∧
        unitFetch s (unit a) (addrAt m.kops 0 + BitVec.ofNat 64 (m.row * wordAt m.kops 2)) (64 * mloadSize f) = (.ok bs, s1))
      (fun s t a b' => OnlyRow b b' tile m.row (fun j => BitVec.ofNat 32 (natOfBytes ((bs.drop (j * mloadSize f)).take (mloadSize f)))) ∧
        QueuedAs s t a.k m (if m.row = 63 then none else some { m with row := m.row + 1, state := 1 }))) ∧
    (∀ i, i = .mma ∨ i = .mmaPair → (∀ l s1, step (fun s a => turn i s a ∧ m.state = 0 ∧
          readCols s (unit a) (addrAt kb 0) (wordAt kb 2 * munit (fmtB f)) (rowSpan (fmtB f) k) = (.ok l, s1))
        (fun s t a b' => b'.tiles = b.tiles ∧ QueuedAs s t a.k m
          (some { m with state := 1, bdata := l.reverse, need := mmaNeed f k, startRow := m.row, work := 0 }))) ∧
      (∀ bs s1,
        let res (j : Nat) := dotElem f.ty.toNat (fmtA f) (fmtB f) k (old j) (natOfBytes bs) (natOfBytes (m.bdata.getD j []))
        let row : MatOp := { m with row := m.row + 1, flags := (List.range 64).foldl (fun x j => x ||| (res j).2) m.flags }
        step (fun s a => turn i s a ∧ m.state = 1 ∧
          unitFetch s (unit a) (addrAt m.kops 0 + BitVec.ofNat 64 (m.row * wordAt m.kops 2 * munit (fmtA f))) (rowSpan (fmtA f) k) = (.ok bs, s1))
        (fun s t a b' => OnlyRow b b' tile m.row (fun j => (res j).1) ∧ (m.row = 63 → Unlocked t a.k m.op) ∧
          QueuedAs s t a.k m (some (if m.row = 63 then { row with state := 2, bdata := [] } else row))))) ∧
    (let t0 := (f.c.extractLsb' 0 3).toNat; let row := wordAt m.kops 0;
      step (fun s a => turn .mrow s a ∧ mrowPut f = true ∧ row < 64)
        (fun s t a b' => QueuedAs s t a.k m none ∧ OnlyRow b b' t0 row (fun j => let p : DWord := m.pair.getD (j / 2) 0
          if j % 2 = 0 then p.setWidth 32 else (p >>> 32).setWidth 32)) ∧
      (∀ p, step (fun s a => turn .mrow s a ∧ mrowPut f = false ∧ s.pend? m.tag = some p ∧ p.kind = .matrix)
        (fun s t a b' => QueuedAs s t a.k m none ∧ b'.tiles = b.tiles ∧ ∃ p', t.pend? m.tag = some p' ∧ ∀ l < 32,
          p'.vals.get 0 l = ((b.elem t0 row (2 * l + 1)) ++ (b.elem t0 row (2 * l))).setWidth 128))) ∧
    step (turn .mdrain) (fun s t a b' => QueuedAs s t a.k m none ∧ b'.tiles = b.tiles ∧
      ∀ e ∈ (t.bay (bkOfCk a.k)).fix, e.id = m.op → e.waitTile = false ∧ ∀ i < (shapeOf m.kops).r, ∀ j < (shapeOf m.kops).c, j < 64 →
        e.tile.get 0 (i * 64 + j) = b.elem tile i j) ∧
    (∀ c va s1,
      let read (s : State) (a : EvArgs) (x : UAns) : Prop := turn .mload s a ∧
        unitFetch s (unit a) (addrAt m.kops 0 + BitVec.ofNat 64 (m.row * wordAt m.kops 2)) (64 * mloadSize f) = (x, s1)
      Happens .matrixOpTurn (fun s a => read s a (.log c va)) (fun _ t a => t = matLog s1 a.k m c va) ∧
      Happens .matrixOpTurn (fun s a => read s a (.fault c va)) (fun _ t a =>
        t = matAbandon s1 a.k m c (addrAt m.kops 0 + BitVec.ofNat 64 (m.row * wordAt m.kops 2))))) ∧
  (∀ c s1,
    let cmd (s : State) (a : EvArgs) : Prop := s.eng? a.k a.i a.j = some c ∧ c.token = none ∧
        (engMayStart s a.k a.i c = true ∨ c.state = 1) ∧ c.row < c.rows
    let shape := shapeOf c.shape
    let begun (s : State) (a : EvArgs) : State := if c.state = 0 then s.updEng a.k a.i a.j (fun x => { x with state := 1 }) else s
    let went (t : State) (a : EvArgs) : Prop :=
      (c.row + 1 < c.rows → t.eng? a.k a.i a.j = some { c with state := 1, row := c.row + 1 }) ∧
      (c.rows ≤ c.row + 1 → c.comp.isSome = true → t.eng? a.k a.i a.j = some { c with state := 2, row := c.row + 1 }) ∧
      (c.rows ≤ c.row + 1 → c.comp = none → t.eng? a.k a.i a.j = none ∧ Unlocked t c.core c.id)
    (∀ x, Happens .engineCommandStart (fun s a => cmd s a ∧ engRow (begun s a) c c.row = (.ok x, s1))
      (fun _ t a => went t a ∧ t.mem = s1.mem ∧ t.blocks = s1.blocks)) ∧
    (∀ b bs s2, Happens .engineCommandStart (fun s a => cmd s a ∧ c.kind = 0 ∧ c.row < shape.r ∧ s.block? c.bid = some b ∧
        unitFetch (begun s a) { ck := c.core, bid := c.bid, secure := c.secure, priv := c.priv } (shape.rowAddr c.row)
          (rowSpan shape.tfmt shape.c) = (.ok bs, s2))
      (fun _ t a => went t a ∧ ∃ b', t.block? c.bid = some b' ∧ OnlySlice b b' (shape.soff + c.row * shape.spitch)
        (convRow (engMode shape.rmode) shape.tfmt shape.lfmt shape.c bs ++ blankRow shape.lfmt (shape.cols - shape.c))))) ∧
  (∀ c q p s1, Happens .engineCompletion (fun s a => s.eng? a.k a.i a.j = some c ∧ c.comp = some q ∧ c.state = 2 ∧
      wordPlace s c (addrAt q 0) = (.ok p, s1))
    (fun _ t a => memRead t.mem p 4 = bytesOfNat 4 (wordAt q 2) ∧ t.eng? a.k a.i a.j = none ∧ Unlocked t c.core c.id))

/-- A launch that may be judged becomes a grid, with its identifier returned and all its units to be dealt, or is answered with 0. A waiting
glaunch leaves its core when its record is read, and the reply fills its destination. Pavilion gives the next unit to the hinted wafer or
the one its position falls to, Pergola sends it to the nearest domain with room and takes its cores from the view. A unit is queued, or
started one block on each core; a unit of a cancelled grid is discarded. An overdue head is offered to Pergola, which moves it or declines
for 4,096 cc. A publication sets the view less what is unacknowledged. A cancellation marks the grid at each dispatcher, ends its dealing
and goes on to the children. -/
def Obligations.LaunchPathHappens : Prop :=
  (∀ m l, let r := parseLaunch l.bytes
    let judged (s : State) (a : EvArgs) (ok : Bool) : Prop := s.msg? a.k = some m ∧ m.body = .launch l.tok ∧
      s.launches.find? (fun x => x.tok == l.tok) = some l ∧ launchDue s m l = true ∧ launchAccepted (s.dropMsg a.k) l r = ok
    Happens .launchAtRoot (fun s a => judged s a true) (fun s t _ =>
      let root := rootOf s l r
      let gid := domOf l.dk + 64 * waferOf l.dk + 1024 * ((s.domain l.dk).gridCount % 2 ^ 54)
      (∃ g ∈ t.grids, g.gid = gid ∧ g.lrec = r ∧ g.launchAddr = l.addr ∧ (g.rootLvl, g.rootKey) = root ∧ g.cancelled = false) ∧
      (∃ d ∈ dealsOf t root.1 root.2, d.gid = gid ∧ d.next = 0 ∧ d.hi = r.units) ∧
      (t.domain l.dk).gridCount = (s.domain l.dk).gridCount + 1 ∧
      (l.queue = none → ∃ x ∈ t.msgs, x.body = .reply l.tok gid)) ∧
    Happens .launchAtRoot (fun s a => judged s a false ∧ l.queue = none ∧ (r.compAddr = 0 ∨ r.compAddr.toNat % 32 ≠ 0))
      (fun s t _ => t.grids = s.grids ∧ ∃ x ∈ t.msgs, x.body = .reply l.tok 0)) ∧
  (∀ b w sl tag y p bs s1, let d := dstOf (opd9 (p.enc.extractLsb' 11 9)) 2
    let va : DWord := p.aux.get 0 0
    Happens .glaunchIssue (fun s a => Names s ⟨a.k, a.i, a.j⟩ b w sl ∧ sl.wait = .record tag y ∧ s.pend? tag = some p ∧
        mayGoOn b w a.j = true ∧ p.aux.get? 1 = none ∧ p.aux.get? 2 = none ∧ recordReady s b p va = true ∧
        recordRead s b w va = (.bytes bs, s1) ∧ (w.secure = true ∨ (parseLaunch bs).prio < 56) ∧ d.regs'.any w.isEmpty = false)
      (fun _ t a => (∃ l ∈ t.launches, l.bytes = bs ∧ l.addr = va ∧ l.dk = dkOfCk b.core ∧ l.secure = w.secure ∧ l.priv = w.priv ∧
          l.tag = some tag ∧ l.queue = none ∧ ∃ m ∈ t.msgs, m.body = .launch l.tok) ∧
        ∃ w', t.warp? a.k a.i = some w' ∧ ∀ q ∈ d.regs', w'.isEmpty q = true)) ∧
  (∀ m l tag p b w gid, Happens .glaunchReply (fun s a => s.msg? a.k = some m ∧ m.body = .reply l.tok gid ∧
        s.launches.find? (fun x => x.tok == l.tok) = some l ∧ l.tag = some tag ∧ s.pend? tag = some p ∧ p.need = 1 ∧
        s.block? p.bid = some b ∧ b.warps[p.wi]? = some w)
      (fun s t _ => Delivered s t p b w 1 (fun _ => BitVec.ofNat 128 gid) ∧ ∀ x ∈ t.launches, x.tok ≠ l.tok)) ∧
  (∀ d g h s1, let last : Prop := d.hi ≤ d.next + 1
    let goes (a : EvArgs) : Nat := match h with
      | .hint hw _ => hw
      | _ => (partyOf d.hi (weightSum (podParties s1 a.k)) d.next (podParties s1 a.k) 0).getD a.k
    Happens .pavilionDeal (fun s a => (s.wafer a.k).pavHold = false ∧ dealHead s (s.wafer a.k).pavDeal = some d ∧ s.grid? d.gid = some g ∧
        hintOf s a.k g d.next = (h, s1) ∧ h ≠ .wait ∧ pergolaTakes s1 g (goes a) = true)
      (fun _ t a =>
        let x := goes a
        let dom := match h with | .hint _ hd => some hd | _ => none
        (∃ e ∈ (t.wafer x).pergDeal, e.gid = d.gid ∧ (d.next, dom) ∈ e.extra) ∧
        (¬last → { d with next := d.next + 1 } ∈ (t.wafer a.k).pavDeal) ∧ (last → ∀ e ∈ (t.wafer a.k).pavDeal, e.gid ≠ d.gid)) ∧
    (let at_ (s : State) (a : EvArgs) : Prop := (s.wafer a.k).pergHold = false ∧ dealHead s (s.wafer a.k).pergDeal = some d ∧
        s.grid? d.gid = some g;
      let sent (s1 t : State) (a : EvArgs) (i target : Nat) : Prop :=
        (let x := (destOf s1 a.k target g.lrec.cores none).getD target;
          (∃ m ∈ t.msgs, m.body = .unit d.gid i target (mkDk a.k x) none) ∧ viewOf t a.k x = viewOf s1 a.k x - g.lrec.cores);
      Happens .pergolaPlace (fun s a => at_ s a ∧ g.lrec.scope ≠ 2 ∧ hintOf s a.k g d.next = (h, s1) ∧ h ≠ .wait)
        (fun _ t a => sent s1 t a d.next (match h with | .hint _ hd => hd | _ => nominal s1 a.k (d.hi - d.lo) (d.next - d.lo))) ∧
      (∀ i dom rest, Happens .pergolaPlace (fun s a => at_ s a ∧ g.lrec.scope = 2 ∧ d.extra = (i, dom) :: rest)
        (fun s t a => sent s t a i (dom.getD (nominal s a.k (d.hi - d.lo) (i - d.lo))))))) ∧
  (∀ gid i target s1 g, let comes (s : State) (a : EvArgs) : Prop := arrivalNext s a.k = some (gid, i, target, none, s1) ∧ s1.grid? gid = some g
    Happens .arborUnitArrival (fun s a => comes s a ∧ (g.arbors.get .zero a.k).cancelled = true)
      (fun _ t a => ∃ g', t.grid? gid = some g' ∧
        (g'.arbors.get .zero a.k).dealt = (g.arbors.get .zero a.k).dealt + g.lrec.gang ∧
        (g'.arbors.get .zero a.k).discarded = (g.arbors.get .zero a.k).discarded + g.lrec.gang) ∧
    (∀ u s2, let queued (s : State) (a : EvArgs) : Prop := comes s a ∧ enqueueUnit s1 a.k gid i target none = (some u, s2)
      Happens .arborUnitArrival (fun s a => queued s a ∧ ∀ x cs, pickUnit s2 a.k = some (x, cs) → x ≠ u)
        (fun _ t a => u.gid = gid ∧ u.linear = i ∧ u.target = target ∧ u ∈ (t.domain a.k).units) ∧
      (∀ cs, Happens .arborUnitArrival (fun s a => queued s a ∧ pickUnit s2 a.k = some (u, cs))
        (fun _ t a => UnitStarted s2 t a.k u cs)))) ∧
  (∀ u cs, Happens .blockStart (fun s a => pickUnit s a.k = some (u, cs) ∧ u.save = none ∧ (s.grid? u.gid).isSome = true)
    (fun s t a => UnitStarted s t a.k u cs)) ∧
  (∀ u, Happens .arborOffer (fun s a => offerDue s a.k = some u)
    (fun _ t a => { u with offered := true } ∈ (t.domain a.k).units ∧
      ∃ m ∈ t.msgs, m.body = .offer u.gid u.linear u.target a.k u.save)) ∧
  (∀ m gid linear target dk save u g,
    let offer (s : State) (a : EvArgs) : Prop :=
        s.msgs.find? (fun m => match m.body with | .offer _ _ _ dk _ => waferOf dk == a.k | _ => false) = some m ∧
        m.body = .offer gid linear target dk save ∧
        (s.domain dk).units.find? (fun u => u.gid == gid && u.linear == linear && u.save == save && u.offered) = some u ∧ s.grid? gid = some g
    let dest (s : State) (a : EvArgs) : Option Nat := destOf s a.k (offerTarget s dk u)
      ((if g.lrec.pair then 2 else 1) * unitSize s dk u) (some (domOf dk))
    (∀ d, Happens .pergolaOffer (fun s a => offer s a ∧ (g.pergolas.get .zero a.k).cancelled = false ∧ dest (s.dropMsg m.id) a = some d)
      (fun s t a => u ∉ (t.domain dk).units ∧
        ∃ x ∈ t.msgs, x.body = .unit u.gid u.linear (offerTarget (s.dropMsg m.id) dk u) (mkDk a.k d) u.save)) ∧
    Happens .pergolaOffer (fun s a => offer s a ∧ ((g.pergolas.get .zero a.k).cancelled = true ∨ dest (s.dropMsg m.id) a = none))
      (fun s t _ => { u with offered := false, offerAt := s.clock + 4096 } ∈ (t.domain dk).units)) ∧
  (∀ m dk free, Happens .freeCountPublish (fun s a =>
        s.msgs.find? (fun m => match m.body with | .publish dk _ => waferOf dk == a.k | _ => false) = some m ∧ m.body = .publish dk free)
      (fun s t a =>
        let acks := s.msgs.filter (fun x => decide (x.id < m.id) && (match x.body with | .ack k _ => k == dk | _ => false))
        let n := acks.foldl (fun n x => n + (match x.body with | .ack _ q => q | _ => 0)) 0
        viewOf t a.k (domOf dk) = free - (Tab.get 0 (s.wafer a.k).unacked (domOf dk) - n))) ∧
  (∀ id gid g,
    let comes (s : State) (a : EvArgs) : Prop := cancelNext s a.k a.i = some (id, gid) ∧ (s.dropMsg id).grid? gid = some g ∧
        (g.rootLvl = a.k → g.rootKey = a.i → g.cancelled = false)
    let now (t : State) (g' : Grid) (a : EvArgs) : Prop := t.grid? gid = some g' ∧ (∀ d ∈ dealsOf t a.k a.i, d.gid ≠ gid) ∧
      (g.rootLvl = a.k → g.rootKey = a.i → g'.cancelled = true)
    Happens .cancel (fun s a => comes s a ∧ a.k = 0) (fun s t a => ∃ g', now t g' a ∧ (g'.arbors.get .zero a.i).cancelled = true ∧
      (∀ u ∈ (t.domain a.i).units, u.gid = gid → u.save.isSome = true) ∧
      ∀ v ∈ (t.domain a.i).saved, v.blk.gid = gid → ∃ m ∈ s.msgs, ∃ x i y, m.body = .unit x i y a.i (some v.key)) ∧
    Happens .cancel (fun s a => comes s a ∧ a.k = 1) (fun _ t a => ∃ g', now t g' a ∧ (g'.pergolas.get .zero a.i).cancelled = true ∧
      ∀ dk ∈ domainsOf a.i, (Tab.get? dk g.arbors).isSome = true → ∃ m ∈ t.msgs, m.body = .cancel gid 0 dk) ∧
    Happens .cancel (fun s a => comes s a ∧ a.k = 2) (fun _ t a => ∃ g', now t g' a ∧ g'.pavilion.cancelled = true ∧
      ∀ e ∈ g.pergolas, e.2.dealt ≠ 0 → ∃ m ∈ t.msgs, m.body = .cancel gid 1 e.1))

/-- A block whose accesses and operations are complete leaves its core: it is no longer resident, its locks, queue entries and warp numbers
are free, and one retirement is counted at its Arbor. A due count is marked reported, and a grid whose root knows every block to be done
writes the counts and then DONE, and is gone. The oldest request for a save record gets its records, or waits. A gang all
of whose members have drained is kept as saved, each member held for a debugger where one halted it; a lone block's record is written, and
the block is queued again at once where no debugger holds it. A saved unit that is picked resumes on the cores given
and its record is given up. The debugger's release queues the saved block again; its discard counts it as discarded. -/
def Obligations.RetirementAndSavingHappen : Prop :=
  (∀ b, Happens .blockRetire (fun s a => s.block? a.k = some b ∧ retireDue s b = true) (fun s t a =>
    t.blocks = s.blocks.filter (fun x => x.bid != a.k) ∧ (∀ e ∈ (t.core b.core).locks, e.2.bid ≠ a.k) ∧
    (∀ m ∈ (t.core b.core).matq, m.bid ≠ a.k) ∧ (∀ w ∈ b.warps, w.number ∉ (t.core b.core).warpNums) ∧
    ∀ g, s.grid? b.gid = some g → ∃ g', t.grid? b.gid = some g' ∧
      (g'.arbors.get .zero b.home).retired = (g.arbors.get .zero b.home).retired + 1)) ∧
  (∀ g, let found (s : State) (a : EvArgs) : Prop := s.grid? g.gid = some g ∧ g.compPart = 0 ∧ s.grids.find? (fun x =>
        (a.k == 0 && arborReportDue s a.i x) || (a.k == 1 && pergolaReportDue s a.i x) || rootDue s a.k a.i x) = some g
    Happens .countReport (fun s a => found s a ∧ a.k = 0 ∧ arborReportDue s a.i g = true ∧ g.rootLvl = 2 ∧
        (∀ x ∈ g.pergolas, x.2.reported = false) ∧ g.pavilion.discarded ≠ g.lrec.blocks)
      (fun _ t a => ∃ g', t.grid? g.gid = some g' ∧ g'.arbors = g.arbors.set a.i { g.arbors.get .zero a.i with reported := true }) ∧
    (∀ ps s1 y s2, let part (s : State) (n : Nat) : State := s.updGrid g.gid (fun g => { g with compPart := n })
      let w := dispWafer g.rootLvl g.rootKey
      Happens .countReport (fun s a => found s a ∧ rootDue s a.k a.i g = true ∧ (a.k = 0 → arborReportDue s a.i g = false) ∧
          (a.k = 1 → pergolaReportDue s a.i g = false) ∧ g.compToken = none ∧ g.lrec.faultRec = 0 ∧
          dispPlaces (part (part s 1) 2) w g.lrec.world (g.lrec.compAddr + 8) 24 .write = (.ok ps, s1) ∧
          dispPlaces (part (ps.foldl (fun s p => unitPut s p.2.2 (((countBytes g).drop p.1).take p.2.1)) s1) 3) w g.lrec.world
            g.lrec.compAddr 8 .write = (.ok [(0, 8, y)], s2))
        (fun _ t _ => t.grid? g.gid = none ∧ memRead t.mem y 8 = bytesOfNat 7 g.lrec.compVal.toNat ++ bytesOfNat 1 g.status))) ∧
  (∀ r rest b, let comes (s : State) (a : EvArgs) : Prop := (s.domain a.k).saveReqs = r :: rest ∧ r.stands s = true ∧ s.block? r.bid = some b
    let same (s : State) (a : EvArgs) : State := s.updDomain a.k (fun d => { d with saveReqs := r :: rest })
    let owed (s : State) : List Block := (gangLive s b.gangId).filter (fun x => x.saveRec.isNone)
    Happens .saveRecordReserved (fun s a => comes s a ∧ (reserveAll (owed s) (same s a)).isSome = true)
      (fun s t a => (t.domain a.k).saveReqs = rest ∧ ∀ x ∈ owed s, ∃ x', t.block? x.bid = some x' ∧ x'.saveRec.isSome = true) ∧
    Happens .saveRecordReserved (fun s a => comes s a ∧ reserveAll (owed s) (same s a) = none)
      (fun s t a => (t.domain a.k).saveReqs = r :: rest ∧ t.blocks = s.blocks)) ∧
  (∀ b, let due (s : State) (a : EvArgs) : Prop := s.block? a.k = some b ∧ saveDue s b = true ∧
        ∀ x ∈ gangLive s b.gangId, x.member < 8 ∧ saveDue s x = true
    let kept (s t : State) : Prop := ∀ x ∈ gangLive s b.gangId, t.block? x.bid = none ∧
      (∃ v ∈ (t.domain x.home).saved, v.key = b.gangId ∧ some v.recPa = x.saveRec ∧ x.phase = .halting v.reason ∧ v.blk.bid = x.bid) ∧
      (x.phase = .halting 0x82 → x.bid ∈ (t.domain x.home).dbgHeld) ∧ ∀ w ∈ x.warps, w.number ∉ (t.core x.core).warpNums
    Happens .preemptSave due (fun s t _ => kept s t) ∧
    (∀ reason pa, let alone (s : State) : Prop := b.phase = .halting reason ∧ b.saveRec = some pa ∧ s.blocks.filter (fun x => x.gangId == b.gangId) = [b]
      Happens .preemptSave (fun s a => due s a ∧ alone s) (fun s t _ =>
        memRead t.mem (devAddr (waferOf b.home) pa) (recImage s b reason).length = recImage s b reason) ∧
      Happens .preemptSave (fun s a => due s a ∧ alone s ∧ reason ≠ 0x82 ∧ (s.domain b.home).dbgHeld = [])
        (fun _ t _ => ∃ u ∈ (t.domain b.home).units, u.save = some b.gangId)) ∧
    Happens .preemptSave (fun s a => s.block? a.k = some b ∧ ∃ x ∈ gangLive s b.gangId, x.member < 8 ∧ saveDue s x = false)
      (fun s t _ => t = s)) ∧
  (∀ u cs key, Happens .blockResume (fun s a => pickUnit s a.k = some (u, cs) ∧ u.save = some key)
    (fun s t a => u ∉ (t.domain a.k).units ∧ ∀ (i : Nat) v ck, (savedMembers s a.k key)[i]? = some v → cs[i]? = some ck →
      (∃ b ∈ t.blocks, b.bid = v.blk.bid ∧ b.gid = v.blk.gid ∧ b.linear = v.blk.linear ∧ b.member = v.blk.member ∧ b.core = ck ∧
        b.home = a.k) ∧
      ∀ x ∈ (t.domain a.k).saved, x.blk.bid ≠ v.blk.bid)) ∧
  (∀ v, let chosen (s : State) (a : EvArgs) : Prop := debugSel (s.domain a.k) = some v
    let may (a : EvArgs) : Prop := v.blk.world = true → a.flag = true
    (∀ i, i = .dbgcmdRelease ∨ i = .dbgcmdDiscard → Happens i (fun s a => chosen s a ∧ ¬may a) (fun s t _ => t = s)) ∧
    Happens .dbgcmdRelease (fun s a => chosen s a ∧ may a)
      (fun s t a => (∀ x ∈ (t.domain a.k).dbgHeld, x ≠ v.blk.bid) ∧ (t.domain a.k).saved = (s.domain a.k).saved ∧
        ((∀ b ∈ s.blocks, b.gangId ≠ v.key) →
          (∀ x ∈ (s.domain a.k).saved, x.key = v.key → x.blk.bid = v.blk.bid ∨ (s.domain a.k).dbgHeld.contains x.blk.bid = false) →
          ∃ u ∈ (t.domain a.k).units, u.save = some v.key)) ∧
    Happens .dbgcmdDiscard (fun s a => chosen s a ∧ may a)
      (fun s t a => (∀ x ∈ (t.domain a.k).dbgHeld, x ≠ v.blk.bid) ∧ (∀ x ∈ (t.domain a.k).saved, x.blk.bid ≠ v.blk.bid) ∧
        ∀ g, s.grid? v.blk.gid = some g → ∃ g', t.grid? v.blk.gid = some g' ∧
          (g'.arbors.get .zero a.k).discarded = (g.arbors.get .zero a.k).discarded + 1))

/-- A notification the Lodge and the owner let through writes PROD, or puts the queue in error 7 when more is claimed than the ring holds; a
queue that is off or of the other world is left alone. LOAD takes the record's fields with CONS as PROD and the version passed, or refuses
a bad record with error 10; DISABLE turns the queue off; both send the invalidation to every domain that is up, and wait for the end of an
entry under way. An invalidation makes a replica of another version stale and is acknowledged. NOP, a WAIT whose word holds, a SIGNAL and
a FENCE with no grid left end by advancing CONS; LAUNCH sends the record to its root; a WAIT that does not hold waits; an entry of bad
form is error 1. -/
def Obligations.HostQueueEventsHappen : Prop :=
  (∀ r s1, let owner (a : EvArgs) : Nat := queueDk (waferOf a.k) a.i
    let seen (s : State) (a : EvArgs) : Prop := a.i < 1024 ∧ (s.domain a.k).up = true ∧ (s.domain (owner a)).up = true ∧
      replicaOf s a.k a.i = (r, s1)
    let may (s : State) (a : EvArgs) : Prop := r.enabled = true ∧ (r.world = true → a.flag = true) ∧
      (s.hostq (owner a) a.i).enabled = true ∧ (s.hostq (owner a) a.i).err = false ∧ ((s.hostq (owner a) a.i).world = true → a.flag = true)
    let far (s : State) (a : EvArgs) : Prop := 2 ^ (s.hostq (owner a) a.i).log < (a.v - (s.hostq (owner a) a.i).cons).toNat
    Happens .notify (fun s a => seen s a ∧ may s a ∧ ¬far s a)
      (fun s t a => (t.hostq (owner a) a.i).prod = a.v ∧ (t.hostq (owner a) a.i).cons = (s.hostq (owner a) a.i).cons ∧
        (t.hostq (owner a) a.i).err = false) ∧
    Happens .notify (fun s a => seen s a ∧ may s a ∧ far s a ∧ (s.hostq (owner a) a.i).pendingOp = none)
      (fun _ t a => (t.hostq (owner a) a.i).err = true ∧ (t.hostq (owner a) a.i).errcode = 7) ∧
    Happens .notify (fun s a => seen s a ∧ ¬may s a) (fun s t a => t.hostq (owner a) a.i = s.hostq (owner a) a.i)) ∧
  (∀ p bs s1, let num (a : EvArgs) : Nat := 256 * p + a.i % 256
    let at_ (s : State) (a : EvArgs) : Prop := portOf a.k = some p ∧ queuesOn s a.k = true ∧ (s.domain a.k).qbusy = none ∧
      launchHeld s (s.hostq a.k (num a)) = false ∧ s.unitRead (qrecAddr s a.k (num a)) 128 = (bs, s1)
    let told (s t : State) (a : EvArgs) (v : Word) : Prop := ∀ dk ∈ domainsOf (waferOf a.k), (s.domain dk).up = true →
      ∃ m ∈ t.msgs, m.body = .qinval (num a) dk v
    Happens .qcmdLoad (fun s a => at_ s a ∧ (s.hostq a.k (num a)).inEntry = false ∧ badRecord bs = false)
      (fun s t a => let x := t.hostq a.k (num a)
        x.ring = BitVec.ofNat 64 (fld bs 0 8) ∧ x.log = fld bs 8 1 % 32 ∧ x.enabled = (fld bs 9 1).testBit 0 ∧
        x.privileged = (fld bs 9 1).testBit 1 ∧ x.world = (fld bs 9 1).testBit 2 ∧ x.err = false ∧ x.priocap = fld bs 10 1 % 64 ∧
        x.version = BitVec.ofNat 32 (fld bs 12 4 + 1) ∧ x.cons = BitVec.ofNat 32 (fld bs 16 4) ∧ x.prod = x.cons ∧
        x.consaddr = BitVec.ofNat 64 (fld bs 24 8) ∧ told s t a x.version) ∧
    Happens .qcmdLoad (fun s a => at_ s a ∧ (s.hostq a.k (num a)).inEntry = false ∧ badRecord bs = true)
      (fun _ t a => (t.hostq a.k (num a)).err = true ∧ (t.hostq a.k (num a)).errcode = 10) ∧
    Happens .qcmdDisable (fun s a => at_ s a ∧ (s.hostq a.k (num a)).inEntry = false)
      (fun s t a => let x := t.hostq a.k (num a)
        x.enabled = false ∧ x.version = (s.hostq a.k (num a)).version + 1 ∧ x.cons = (s.hostq a.k (num a)).cons ∧ told s t a x.version) ∧
    (∀ i op, (i = .qcmdLoad ∧ op = 0) ∨ (i = .qcmdDisable ∧ op = 1) →
      Happens i (fun s a => at_ s a ∧ (s.hostq a.k (num a)).inEntry = true)
        (fun _ t a => (t.hostq a.k (num a)).pendingOp = some op ∧ (t.domain a.k).qbusy = some (num a, op, [])))) ∧
  (∀ m q d v, Happens .queueInvalidation (fun s a =>
        s.msgs.find? (fun m => match m.body with | .qinval _ d _ => d == a.k | _ => false) = some m ∧ m.body = .qinval q d v)
    (fun s t a =>
      (∀ r, (s.domain a.k).replicas.get? q = some r → r.version ≠ v → (t.domain a.k).replicas.get? q = some { r with stale := true }) ∧
      ∀ op ks, (s.hostq (queueDk (waferOf a.k) q) q).version = v → (s.domain (queueDk (waferOf a.k) q)).qbusy = some (q, op, ks) →
        (t.domain (queueDk (waferOf a.k) q)).qbusy = if ks.filter (· != a.k) = [] then none else some (q, op, ks.filter (· != a.k)))) ∧
  (∀ x bs s1, let e := parseEntry bs
    let num (a : EvArgs) : Nat := a.k % 1024
    let own (a : EvArgs) : Nat := queueDk (a.k / 1024) (num a)
    let due (s : State) (a : EvArgs) (kind : Nat) (poll : Bool) : Prop := s.hostq (own a) (num a) = x ∧ x.entryDone = false ∧
      entryDue s (own a) (num a) = true ∧ x.waiting = poll ∧ queueRead s (own a) x (entryAddr x) 256 = (.ok bs, s1) ∧ e.kind = kind ∧
      entryBad bs e = false
    let lone : Prop := x.consaddr = 0 ∧ x.pendingOp = none
    let ended (t : State) (a : EvArgs) : Prop := (t.hostq (own a) (num a)).cons = x.cons + 1 ∧ (t.hostq (own a) (num a)).entryDone = false
    let even : Prop := e.addr.toNat % e.bytes = 0
    Happens .entryNop (fun s a => due s a 0 false ∧ lone) (fun _ t a => ended t a) ∧
    Happens .entryLaunch (fun s a => due s a 1 false) (fun _ t a => ∃ l ∈ t.launches, (t.hostq (own a) (num a)).launchTok = some l.tok ∧
      l.bytes = e.rec_ ∧ l.addr = entryAddr x + 0x80 ∧ l.dk = own a ∧ l.secure = x.world ∧ l.priv = x.privileged ∧ l.tag = none ∧
      l.queue = some (num a) ∧ l.scope = none ∧ l.reject = (decide (x.priocap < (parseLaunch e.rec_).prio) || (parseLaunch e.rec_).world != x.world) ∧
      ∃ m ∈ t.msgs, m.body = .launch l.tok) ∧
    (∀ i poll, (i = .entryWait ∧ poll = false) ∨ (i = .queueWaitPoll ∧ poll = true) → ∀ vs s2,
      Happens i (fun s a => due s a 2 poll ∧ even ∧ queueRead s1 (own a) x e.addr e.bytes = (.ok vs, s2) ∧ e.holds (natOfBytes vs) = true ∧ lone)
        (fun _ t a => ended t a) ∧
      Happens i (fun s a => due s a 2 poll ∧ even ∧ queueRead s1 (own a) x e.addr e.bytes = (.ok vs, s2) ∧
          e.holds (natOfBytes vs) = false ∧ x.pendingOp = none)
        (fun s t a => (t.hostq (own a) (num a)).cons = x.cons ∧ (t.hostq (own a) (num a)).polled = s.clock)) ∧
    (∀ p s2, let base (s : State) (a : EvArgs) : Nat := qrecAddr s (own a) (num a) / 128 * 128
      Happens .entrySignal (fun s a => due s a 3 false ∧ even ∧ queuePlace s1 (own a) x e.addr e.bytes .write = (.ok p, s2) ∧ lone ∧
          (p + e.bytes ≤ base s a ∨ base s a + 256 ≤ p))
        (fun _ t a => ended t a ∧ memRead t.mem p e.bytes = bytesOfNat e.bytes e.value)) ∧
    Happens .entryFence (fun s a => due s a 4 false ∧ lone ∧ ∀ g ∈ x.grids, s1.grid? g = none)
      (fun _ t a => ended t a ∧ (t.hostq (own a) (num a)).grids = []) ∧
    Happens .entryFence (fun s a => due s a 4 false ∧ x.pendingOp = none ∧ ∃ g ∈ x.grids, (s1.grid? g).isSome = true)
      (fun _ t a => t.hostq (own a) (num a) = x) ∧
    (∀ i kind, (i, kind) ∈ [(Instr.entryNop, 0), (.entryLaunch, 1), (.entryWait, 2), (.entrySignal, 3), (.entryFence, 4)] → Happens i (fun s a => s.hostq (own a) (num a) = x ∧
        x.entryDone = false ∧ entryDue s (own a) (num a) = true ∧ x.waiting = false ∧ x.pendingOp = none ∧
        queueRead s (own a) x (entryAddr x) 256 = (.ok bs, s1) ∧ (5 ≤ e.kind ∨ (e.kind = kind ∧ entryBad bs e = true)))
      (fun _ t a => (t.hostq (own a) (num a)).err = true ∧ (t.hostq (own a) (num a)).errcode = 1)))

/-- A wafer that gets power comes up in reduced service, with its table and list where D0's firmware put them. A verified domain comes up, D0
first, with a replica of every queue record, and publishes its free-core count. Every request to a wafer whose D0 is up is answered with its code and facts; a
signed one uses the next one-time-programmable index, and is refused when none is left; an unsupported one gets the error. Outside rated
conditions a wafer is held in reduced service. A firmware update that verifies on every domain raises their version and then the fused
minimum. Power loss keeps the fuses, the counters, the images and the clock, and nothing else of the wafer. What a message carries beside
its code and facts is a free value (log 12). -/
def Obligations.BringUpAndAttestationHappen : Prop :=
  Happens .powerOn (fun s a => (s.wafer a.k).powered = false ∧ a.k < Config.wafers)
    (fun s t a => (t.wafer a.k).powered = true ∧ (t.wafer a.k).reduced = true ∧ t.clock = s.clock ∧
      (verified s (mkDk a.k 0) = true → (t.wafer a.k).number = a.k ∧
        (t.wafer a.k).topobase = BitVec.ofNat 64 (4096 * a.i % 2 ^ 35) ∧ (t.wafer a.k).capbase = BitVec.ofNat 64 (4096 * a.j % 2 ^ 35))) ∧
  Happens .domainUp (fun s a => (s.wafer (waferOf a.k)).powered = true ∧ domOf a.k < Config.domains ∧ (s.domain a.k).up = false ∧
      verified s a.k = true ∧ (domOf a.k ≠ 0 → (s.domain (mkDk (waferOf a.k) 0)).up = true))
    (fun s t a => (t.domain a.k).up = true ∧ (t.domain a.k).hot = [] ∧ (t.domain a.k).replicas = fetchReplicas s (waferOf a.k) ∧ ∃ m ∈ t.msgs, m.body = .publish a.k (freeCount t a.k)) ∧
  Happens .domainUp (fun s a => verified s a.k = false) (fun s t _ => t = s) ∧
  (let said (s t : State) (a : EvArgs) (code : Nat) (facts : List Byte) : Prop :=
      (t.wafer a.k).spdmLog = (s.wafer a.k).spdmLog ++ [(code, facts ++ Config.spdmBytes code (s.wafer a.k).spdmLog.length)];
    let open_ (s : State) (a : EvArgs) : Prop := (s.wafer a.k).otpIndex < otpLimit;
    (∀ i code, ∀ facts : List Byte, (i, code, facts) ∈ [(Instr.spdmGetVersion, 0x04, [0x13]), (.spdmGetCapabilities, 0x61, []),
        (.spdmNegotiateAlgorithms, 0x63, [0x08]), (.spdmGetDigests, 0x01, []), (.spdmGetCertificate, 0x02, [])] →
      Happens i (fun s a => spdmOn s a.k = true)
        (fun s t a => said s t a code facts ∧ (t.wafer a.k).otpIndex = (s.wafer a.k).otpIndex)) ∧
    Happens .spdmChallenge (fun s a => spdmOn s a.k = true ∧ open_ s a)
      (fun s t a => said s t a 0x03 (bytesOfNat 4 (s.wafer a.k).otpIndex) ∧ (t.wafer a.k).otpIndex = (s.wafer a.k).otpIndex + 1) ∧
    Happens .spdmGetMeasurements (fun s a => spdmOn s a.k = true ∧ a.flag = false)
      (fun s t a => said s t a 0x60 (measurements s a.k) ∧ (t.wafer a.k).otpIndex = (s.wafer a.k).otpIndex) ∧
    Happens .spdmGetMeasurements (fun s a => spdmOn s a.k = true ∧ a.flag = true ∧ open_ s a)
      (fun s t a => said s t a 0x60 (measurements s a.k ++ bytesOfNat 4 (s.wafer a.k).otpIndex) ∧
        (t.wafer a.k).otpIndex = (s.wafer a.k).otpIndex + 1) ∧
    (∀ i, i = .spdmChallenge ∨ i = .spdmGetMeasurements →
      Happens i (fun s a => spdmOn s a.k = true ∧ (i = .spdmGetMeasurements → a.flag = true) ∧ ¬open_ s a)
      (fun s t a => (t.wafer a.k).spdmLog = (s.wafer a.k).spdmLog ++ [(0x7F, [0x07])] ∧
        (t.wafer a.k).otpIndex = (s.wafer a.k).otpIndex)) ∧
    Happens .spdmUnsupported (fun s a => spdmOn s a.k = true)
      (fun s t a => (t.wafer a.k).spdmLog = (s.wafer a.k).spdmLog ++ [(0x7F, [0x07])])) ∧
  Happens .outsideRatedConditions (fun s a => (s.wafer a.k).powered = true)
    (fun s t a => (t.wafer a.k).heldReduced = a.flag ∧ (a.flag = true → (t.wafer a.k).reduced = true) ∧
      (a.flag = false → (t.wafer a.k).reduced = (s.wafer a.k).reduced)) ∧
  Happens .firmwareUpdate (fun s a => (s.wafer a.k).powered = true ∧ a.flag = true ∧ (s.wafer a.k).minVersion ≤ BitVec.ofNat 32 a.i ∧
      ∃ dk ∈ domainsOf a.k, (s.domain dk).up = true)
    (fun s t a => (t.wafer a.k).minVersion = BitVec.ofNat 32 a.i ∧ ∀ dk ∈ domainsOf a.k, (t.domain dk).fwVersion =
      if (s.domain dk).up then BitVec.ofNat 32 a.i else (s.domain dk).fwVersion) ∧
  Happens .firmwareUpdate (fun s a => a.flag = false ∨ BitVec.ofNat 32 a.i < (s.wafer a.k).minVersion) (fun s t _ => t = s) ∧
  Happens .powerLoss (fun _ _ => True)
    (fun s t a => (t.wafer a.k).powered = false ∧ t.clock = s.clock ∧
      (∀ w, Tab.get? a.k s.wafers = some w → (t.wafer a.k).otpIndex = w.otpIndex ∧ (t.wafer a.k).minVersion = w.minVersion) ∧
      (∀ dk d, waferOf dk = a.k → Tab.get? dk s.domains = some d → t.domain dk = d.dark) ∧ (∀ b ∈ t.blocks, b ∈ s.blocks ∧ waferOf (dkOfCk b.core) ≠ a.k) ∧
      (∀ w, w ≠ a.k → t.wafer w = s.wafer w) ∧ ∀ x, x < 2 ^ 60 → memGet t.mem x = if x / 2 ^ 52 = a.k then memDefault else memGet s.mem x)
end

