-- ==== Sys2Proof/Laws/State.lean ====
section
/-!
SUPPORT. What each update of the state leaves alone and what it sets: one lemma for each field of State and each update, so that
no later proof unfolds a record update.
-/

namespace Sys2Proof.Machine

/-! ### updWafer -/

@[simp] theorem State.updWafer_clock (s : State) (w : Nat) (f : Wafer → Wafer) : (s.updWafer w f).clock = s.clock := rfl
@[simp] theorem State.updWafer_wafers (s : State) (w : Nat) (f : Wafer → Wafer) : (s.updWafer w f).wafers = s.wafers.set w (f (s.wafer w)) := rfl
@[simp] theorem State.updWafer_domains (s : State) (w : Nat) (f : Wafer → Wafer) : (s.updWafer w f).domains = s.domains := rfl
@[simp] theorem State.updWafer_bays (s : State) (w : Nat) (f : Wafer → Wafer) : (s.updWafer w f).bays = s.bays := rfl
@[simp] theorem State.updWafer_cores (s : State) (w : Nat) (f : Wafer → Wafer) : (s.updWafer w f).cores = s.cores := rfl
@[simp] theorem State.updWafer_blocks (s : State) (w : Nat) (f : Wafer → Wafer) : (s.updWafer w f).blocks = s.blocks := rfl
@[simp] theorem State.updWafer_grids (s : State) (w : Nat) (f : Wafer → Wafer) : (s.updWafer w f).grids = s.grids := rfl
@[simp] theorem State.updWafer_mem (s : State) (w : Nat) (f : Wafer → Wafer) : (s.updWafer w f).mem = s.mem := rfl
@[simp] theorem State.updWafer_poison (s : State) (w : Nat) (f : Wafer → Wafer) : (s.updWafer w f).poison = s.poison := rfl
@[simp] theorem State.updWafer_reqs (s : State) (w : Nat) (f : Wafer → Wafer) : (s.updWafer w f).reqs = s.reqs := rfl
@[simp] theorem State.updWafer_pends (s : State) (w : Nat) (f : Wafer → Wafer) : (s.updWafer w f).pends = s.pends := rfl
@[simp] theorem State.updWafer_msgs (s : State) (w : Nat) (f : Wafer → Wafer) : (s.updWafer w f).msgs = s.msgs := rfl
@[simp] theorem State.updWafer_launches (s : State) (w : Nat) (f : Wafer → Wafer) : (s.updWafer w f).launches = s.launches := rfl
@[simp] theorem State.updWafer_unitOps (s : State) (w : Nat) (f : Wafer → Wafer) : (s.updWafer w f).unitOps = s.unitOps := rfl
@[simp] theorem State.updWafer_safelightSteps (s : State) (w : Nat) (f : Wafer → Wafer) : (s.updWafer w f).safelightSteps = s.safelightSteps := rfl
@[simp] theorem State.updWafer_agenda (s : State) (w : Nat) (f : Wafer → Wafer) : (s.updWafer w f).agenda = s.agenda := rfl
@[simp] theorem State.updWafer_cur (s : State) (w : Nat) (f : Wafer → Wafer) : (s.updWafer w f).cur = s.cur := rfl
@[simp] theorem State.updWafer_ops (s : State) (w : Nat) (f : Wafer → Wafer) : (s.updWafer w f).ops = s.ops := rfl
@[simp] theorem State.updWafer_nextId (s : State) (w : Nat) (f : Wafer → Wafer) : (s.updWafer w f).nextId = s.nextId := rfl
@[simp] theorem State.updWafer_freeCtr (s : State) (w : Nat) (f : Wafer → Wafer) : (s.updWafer w f).freeCtr = s.freeCtr := rfl

/-! ### updDomain -/

@[simp] theorem State.updDomain_clock (s : State) (dk : Nat) (f : Domain → Domain) : (s.updDomain dk f).clock = s.clock := rfl
@[simp] theorem State.updDomain_wafers (s : State) (dk : Nat) (f : Domain → Domain) : (s.updDomain dk f).wafers = s.wafers := rfl
@[simp] theorem State.updDomain_domains (s : State) (dk : Nat) (f : Domain → Domain) : (s.updDomain dk f).domains = s.domains.set dk (f (s.domain dk)) := rfl
@[simp] theorem State.updDomain_bays (s : State) (dk : Nat) (f : Domain → Domain) : (s.updDomain dk f).bays = s.bays := rfl
@[simp] theorem State.updDomain_cores (s : State) (dk : Nat) (f : Domain → Domain) : (s.updDomain dk f).cores = s.cores := rfl
@[simp] theorem State.updDomain_blocks (s : State) (dk : Nat) (f : Domain → Domain) : (s.updDomain dk f).blocks = s.blocks := rfl
@[simp] theorem State.updDomain_grids (s : State) (dk : Nat) (f : Domain → Domain) : (s.updDomain dk f).grids = s.grids := rfl
@[simp] theorem State.updDomain_mem (s : State) (dk : Nat) (f : Domain → Domain) : (s.updDomain dk f).mem = s.mem := rfl
@[simp] theorem State.updDomain_poison (s : State) (dk : Nat) (f : Domain → Domain) : (s.updDomain dk f).poison = s.poison := rfl
@[simp] theorem State.updDomain_reqs (s : State) (dk : Nat) (f : Domain → Domain) : (s.updDomain dk f).reqs = s.reqs := rfl
@[simp] theorem State.updDomain_pends (s : State) (dk : Nat) (f : Domain → Domain) : (s.updDomain dk f).pends = s.pends := rfl
@[simp] theorem State.updDomain_msgs (s : State) (dk : Nat) (f : Domain → Domain) : (s.updDomain dk f).msgs = s.msgs := rfl
@[simp] theorem State.updDomain_launches (s : State) (dk : Nat) (f : Domain → Domain) : (s.updDomain dk f).launches = s.launches := rfl
@[simp] theorem State.updDomain_unitOps (s : State) (dk : Nat) (f : Domain → Domain) : (s.updDomain dk f).unitOps = s.unitOps := rfl
@[simp] theorem State.updDomain_safelightSteps (s : State) (dk : Nat) (f : Domain → Domain) : (s.updDomain dk f).safelightSteps = s.safelightSteps := rfl
@[simp] theorem State.updDomain_agenda (s : State) (dk : Nat) (f : Domain → Domain) : (s.updDomain dk f).agenda = s.agenda := rfl
@[simp] theorem State.updDomain_cur (s : State) (dk : Nat) (f : Domain → Domain) : (s.updDomain dk f).cur = s.cur := rfl
@[simp] theorem State.updDomain_ops (s : State) (dk : Nat) (f : Domain → Domain) : (s.updDomain dk f).ops = s.ops := rfl
@[simp] theorem State.updDomain_nextId (s : State) (dk : Nat) (f : Domain → Domain) : (s.updDomain dk f).nextId = s.nextId := rfl
@[simp] theorem State.updDomain_freeCtr (s : State) (dk : Nat) (f : Domain → Domain) : (s.updDomain dk f).freeCtr = s.freeCtr := rfl

/-! ### updBay -/

@[simp] theorem State.updBay_clock (s : State) (bk : Nat) (f : Bay → Bay) : (s.updBay bk f).clock = s.clock := rfl
@[simp] theorem State.updBay_wafers (s : State) (bk : Nat) (f : Bay → Bay) : (s.updBay bk f).wafers = s.wafers := rfl
@[simp] theorem State.updBay_domains (s : State) (bk : Nat) (f : Bay → Bay) : (s.updBay bk f).domains = s.domains := rfl
@[simp] theorem State.updBay_bays (s : State) (bk : Nat) (f : Bay → Bay) : (s.updBay bk f).bays = s.bays.set bk (f (s.bay bk)) := rfl
@[simp] theorem State.updBay_cores (s : State) (bk : Nat) (f : Bay → Bay) : (s.updBay bk f).cores = s.cores := rfl
@[simp] theorem State.updBay_blocks (s : State) (bk : Nat) (f : Bay → Bay) : (s.updBay bk f).blocks = s.blocks := rfl
@[simp] theorem State.updBay_grids (s : State) (bk : Nat) (f : Bay → Bay) : (s.updBay bk f).grids = s.grids := rfl
@[simp] theorem State.updBay_mem (s : State) (bk : Nat) (f : Bay → Bay) : (s.updBay bk f).mem = s.mem := rfl
@[simp] theorem State.updBay_poison (s : State) (bk : Nat) (f : Bay → Bay) : (s.updBay bk f).poison = s.poison := rfl
@[simp] theorem State.updBay_reqs (s : State) (bk : Nat) (f : Bay → Bay) : (s.updBay bk f).reqs = s.reqs := rfl
@[simp] theorem State.updBay_pends (s : State) (bk : Nat) (f : Bay → Bay) : (s.updBay bk f).pends = s.pends := rfl
@[simp] theorem State.updBay_msgs (s : State) (bk : Nat) (f : Bay → Bay) : (s.updBay bk f).msgs = s.msgs := rfl
@[simp] theorem State.updBay_launches (s : State) (bk : Nat) (f : Bay → Bay) : (s.updBay bk f).launches = s.launches := rfl
@[simp] theorem State.updBay_unitOps (s : State) (bk : Nat) (f : Bay → Bay) : (s.updBay bk f).unitOps = s.unitOps := rfl
@[simp] theorem State.updBay_safelightSteps (s : State) (bk : Nat) (f : Bay → Bay) : (s.updBay bk f).safelightSteps = s.safelightSteps := rfl
@[simp] theorem State.updBay_agenda (s : State) (bk : Nat) (f : Bay → Bay) : (s.updBay bk f).agenda = s.agenda := rfl
@[simp] theorem State.updBay_cur (s : State) (bk : Nat) (f : Bay → Bay) : (s.updBay bk f).cur = s.cur := rfl
@[simp] theorem State.updBay_ops (s : State) (bk : Nat) (f : Bay → Bay) : (s.updBay bk f).ops = s.ops := rfl
@[simp] theorem State.updBay_nextId (s : State) (bk : Nat) (f : Bay → Bay) : (s.updBay bk f).nextId = s.nextId := rfl
@[simp] theorem State.updBay_freeCtr (s : State) (bk : Nat) (f : Bay → Bay) : (s.updBay bk f).freeCtr = s.freeCtr := rfl

/-! ### updCore -/

@[simp] theorem State.updCore_clock (s : State) (ck : Nat) (f : Core → Core) : (s.updCore ck f).clock = s.clock := rfl
@[simp] theorem State.updCore_wafers (s : State) (ck : Nat) (f : Core → Core) : (s.updCore ck f).wafers = s.wafers := rfl
@[simp] theorem State.updCore_domains (s : State) (ck : Nat) (f : Core → Core) : (s.updCore ck f).domains = s.domains := rfl
@[simp] theorem State.updCore_bays (s : State) (ck : Nat) (f : Core → Core) : (s.updCore ck f).bays = s.bays := rfl
@[simp] theorem State.updCore_cores (s : State) (ck : Nat) (f : Core → Core) : (s.updCore ck f).cores = s.cores.set ck (f (s.core ck)) := rfl
@[simp] theorem State.updCore_blocks (s : State) (ck : Nat) (f : Core → Core) : (s.updCore ck f).blocks = s.blocks := rfl
@[simp] theorem State.updCore_grids (s : State) (ck : Nat) (f : Core → Core) : (s.updCore ck f).grids = s.grids := rfl
@[simp] theorem State.updCore_mem (s : State) (ck : Nat) (f : Core → Core) : (s.updCore ck f).mem = s.mem := rfl
@[simp] theorem State.updCore_poison (s : State) (ck : Nat) (f : Core → Core) : (s.updCore ck f).poison = s.poison := rfl
@[simp] theorem State.updCore_reqs (s : State) (ck : Nat) (f : Core → Core) : (s.updCore ck f).reqs = s.reqs := rfl
@[simp] theorem State.updCore_pends (s : State) (ck : Nat) (f : Core → Core) : (s.updCore ck f).pends = s.pends := rfl
@[simp] theorem State.updCore_msgs (s : State) (ck : Nat) (f : Core → Core) : (s.updCore ck f).msgs = s.msgs := rfl
@[simp] theorem State.updCore_launches (s : State) (ck : Nat) (f : Core → Core) : (s.updCore ck f).launches = s.launches := rfl
@[simp] theorem State.updCore_unitOps (s : State) (ck : Nat) (f : Core → Core) : (s.updCore ck f).unitOps = s.unitOps := rfl
@[simp] theorem State.updCore_safelightSteps (s : State) (ck : Nat) (f : Core → Core) : (s.updCore ck f).safelightSteps = s.safelightSteps := rfl
@[simp] theorem State.updCore_agenda (s : State) (ck : Nat) (f : Core → Core) : (s.updCore ck f).agenda = s.agenda := rfl
@[simp] theorem State.updCore_cur (s : State) (ck : Nat) (f : Core → Core) : (s.updCore ck f).cur = s.cur := rfl
@[simp] theorem State.updCore_ops (s : State) (ck : Nat) (f : Core → Core) : (s.updCore ck f).ops = s.ops := rfl
@[simp] theorem State.updCore_nextId (s : State) (ck : Nat) (f : Core → Core) : (s.updCore ck f).nextId = s.nextId := rfl
@[simp] theorem State.updCore_freeCtr (s : State) (ck : Nat) (f : Core → Core) : (s.updCore ck f).freeCtr = s.freeCtr := rfl

/-! ### updBlock -/

@[simp] theorem State.updBlock_clock (s : State) (bid : Nat) (f : Block → Block) : (s.updBlock bid f).clock = s.clock := rfl
@[simp] theorem State.updBlock_wafers (s : State) (bid : Nat) (f : Block → Block) : (s.updBlock bid f).wafers = s.wafers := rfl
@[simp] theorem State.updBlock_domains (s : State) (bid : Nat) (f : Block → Block) : (s.updBlock bid f).domains = s.domains := rfl
@[simp] theorem State.updBlock_bays (s : State) (bid : Nat) (f : Block → Block) : (s.updBlock bid f).bays = s.bays := rfl
@[simp] theorem State.updBlock_cores (s : State) (bid : Nat) (f : Block → Block) : (s.updBlock bid f).cores = s.cores := rfl
@[simp] theorem State.updBlock_blocks (s : State) (bid : Nat) (f : Block → Block) : (s.updBlock bid f).blocks = s.blocks.map (fun b => if b.bid = bid then f b else b) := rfl
@[simp] theorem State.updBlock_grids (s : State) (bid : Nat) (f : Block → Block) : (s.updBlock bid f).grids = s.grids := rfl
@[simp] theorem State.updBlock_mem (s : State) (bid : Nat) (f : Block → Block) : (s.updBlock bid f).mem = s.mem := rfl
@[simp] theorem State.updBlock_poison (s : State) (bid : Nat) (f : Block → Block) : (s.updBlock bid f).poison = s.poison := rfl
@[simp] theorem State.updBlock_reqs (s : State) (bid : Nat) (f : Block → Block) : (s.updBlock bid f).reqs = s.reqs := rfl
@[simp] theorem State.updBlock_pends (s : State) (bid : Nat) (f : Block → Block) : (s.updBlock bid f).pends = s.pends := rfl
@[simp] theorem State.updBlock_msgs (s : State) (bid : Nat) (f : Block → Block) : (s.updBlock bid f).msgs = s.msgs := rfl
@[simp] theorem State.updBlock_launches (s : State) (bid : Nat) (f : Block → Block) : (s.updBlock bid f).launches = s.launches := rfl
@[simp] theorem State.updBlock_unitOps (s : State) (bid : Nat) (f : Block → Block) : (s.updBlock bid f).unitOps = s.unitOps := rfl
@[simp] theorem State.updBlock_safelightSteps (s : State) (bid : Nat) (f : Block → Block) : (s.updBlock bid f).safelightSteps = s.safelightSteps := rfl
@[simp] theorem State.updBlock_agenda (s : State) (bid : Nat) (f : Block → Block) : (s.updBlock bid f).agenda = s.agenda := rfl
@[simp] theorem State.updBlock_cur (s : State) (bid : Nat) (f : Block → Block) : (s.updBlock bid f).cur = s.cur := rfl
@[simp] theorem State.updBlock_ops (s : State) (bid : Nat) (f : Block → Block) : (s.updBlock bid f).ops = s.ops := rfl
@[simp] theorem State.updBlock_nextId (s : State) (bid : Nat) (f : Block → Block) : (s.updBlock bid f).nextId = s.nextId := rfl
@[simp] theorem State.updBlock_freeCtr (s : State) (bid : Nat) (f : Block → Block) : (s.updBlock bid f).freeCtr = s.freeCtr := rfl

/-! ### updWarp -/

@[simp] theorem State.updWarp_clock (s : State) (bid wi : Nat) (f : Warp → Warp) : (s.updWarp bid wi f).clock = s.clock := rfl
@[simp] theorem State.updWarp_wafers (s : State) (bid wi : Nat) (f : Warp → Warp) : (s.updWarp bid wi f).wafers = s.wafers := rfl
@[simp] theorem State.updWarp_domains (s : State) (bid wi : Nat) (f : Warp → Warp) : (s.updWarp bid wi f).domains = s.domains := rfl
@[simp] theorem State.updWarp_bays (s : State) (bid wi : Nat) (f : Warp → Warp) : (s.updWarp bid wi f).bays = s.bays := rfl
@[simp] theorem State.updWarp_cores (s : State) (bid wi : Nat) (f : Warp → Warp) : (s.updWarp bid wi f).cores = s.cores := rfl
@[simp] theorem State.updWarp_grids (s : State) (bid wi : Nat) (f : Warp → Warp) : (s.updWarp bid wi f).grids = s.grids := rfl
@[simp] theorem State.updWarp_mem (s : State) (bid wi : Nat) (f : Warp → Warp) : (s.updWarp bid wi f).mem = s.mem := rfl
@[simp] theorem State.updWarp_poison (s : State) (bid wi : Nat) (f : Warp → Warp) : (s.updWarp bid wi f).poison = s.poison := rfl
@[simp] theorem State.updWarp_reqs (s : State) (bid wi : Nat) (f : Warp → Warp) : (s.updWarp bid wi f).reqs = s.reqs := rfl
@[simp] theorem State.updWarp_pends (s : State) (bid wi : Nat) (f : Warp → Warp) : (s.updWarp bid wi f).pends = s.pends := rfl
@[simp] theorem State.updWarp_msgs (s : State) (bid wi : Nat) (f : Warp → Warp) : (s.updWarp bid wi f).msgs = s.msgs := rfl
@[simp] theorem State.updWarp_launches (s : State) (bid wi : Nat) (f : Warp → Warp) : (s.updWarp bid wi f).launches = s.launches := rfl
@[simp] theorem State.updWarp_unitOps (s : State) (bid wi : Nat) (f : Warp → Warp) : (s.updWarp bid wi f).unitOps = s.unitOps := rfl
@[simp] theorem State.updWarp_safelightSteps (s : State) (bid wi : Nat) (f : Warp → Warp) : (s.updWarp bid wi f).safelightSteps = s.safelightSteps := rfl
@[simp] theorem State.updWarp_agenda (s : State) (bid wi : Nat) (f : Warp → Warp) : (s.updWarp bid wi f).agenda = s.agenda := rfl
@[simp] theorem State.updWarp_cur (s : State) (bid wi : Nat) (f : Warp → Warp) : (s.updWarp bid wi f).cur = s.cur := rfl
@[simp] theorem State.updWarp_ops (s : State) (bid wi : Nat) (f : Warp → Warp) : (s.updWarp bid wi f).ops = s.ops := rfl
@[simp] theorem State.updWarp_nextId (s : State) (bid wi : Nat) (f : Warp → Warp) : (s.updWarp bid wi f).nextId = s.nextId := rfl
@[simp] theorem State.updWarp_freeCtr (s : State) (bid wi : Nat) (f : Warp → Warp) : (s.updWarp bid wi f).freeCtr = s.freeCtr := rfl

/-! ### updSlot -/

@[simp] theorem State.updSlot_clock (s : State) (r : PathRef) (f : Slot → Slot) : (s.updSlot r f).clock = s.clock := rfl
@[simp] theorem State.updSlot_wafers (s : State) (r : PathRef) (f : Slot → Slot) : (s.updSlot r f).wafers = s.wafers := rfl
@[simp] theorem State.updSlot_domains (s : State) (r : PathRef) (f : Slot → Slot) : (s.updSlot r f).domains = s.domains := rfl
@[simp] theorem State.updSlot_bays (s : State) (r : PathRef) (f : Slot → Slot) : (s.updSlot r f).bays = s.bays := rfl
@[simp] theorem State.updSlot_cores (s : State) (r : PathRef) (f : Slot → Slot) : (s.updSlot r f).cores = s.cores := rfl
@[simp] theorem State.updSlot_grids (s : State) (r : PathRef) (f : Slot → Slot) : (s.updSlot r f).grids = s.grids := rfl
@[simp] theorem State.updSlot_mem (s : State) (r : PathRef) (f : Slot → Slot) : (s.updSlot r f).mem = s.mem := rfl
@[simp] theorem State.updSlot_poison (s : State) (r : PathRef) (f : Slot → Slot) : (s.updSlot r f).poison = s.poison := rfl
@[simp] theorem State.updSlot_reqs (s : State) (r : PathRef) (f : Slot → Slot) : (s.updSlot r f).reqs = s.reqs := rfl
@[simp] theorem State.updSlot_pends (s : State) (r : PathRef) (f : Slot → Slot) : (s.updSlot r f).pends = s.pends := rfl
@[simp] theorem State.updSlot_msgs (s : State) (r : PathRef) (f : Slot → Slot) : (s.updSlot r f).msgs = s.msgs := rfl
@[simp] theorem State.updSlot_launches (s : State) (r : PathRef) (f : Slot → Slot) : (s.updSlot r f).launches = s.launches := rfl
@[simp] theorem State.updSlot_unitOps (s : State) (r : PathRef) (f : Slot → Slot) : (s.updSlot r f).unitOps = s.unitOps := rfl
@[simp] theorem State.updSlot_safelightSteps (s : State) (r : PathRef) (f : Slot → Slot) : (s.updSlot r f).safelightSteps = s.safelightSteps := rfl
@[simp] theorem State.updSlot_agenda (s : State) (r : PathRef) (f : Slot → Slot) : (s.updSlot r f).agenda = s.agenda := rfl
@[simp] theorem State.updSlot_cur (s : State) (r : PathRef) (f : Slot → Slot) : (s.updSlot r f).cur = s.cur := rfl
@[simp] theorem State.updSlot_ops (s : State) (r : PathRef) (f : Slot → Slot) : (s.updSlot r f).ops = s.ops := rfl
@[simp] theorem State.updSlot_nextId (s : State) (r : PathRef) (f : Slot → Slot) : (s.updSlot r f).nextId = s.nextId := rfl
@[simp] theorem State.updSlot_freeCtr (s : State) (r : PathRef) (f : Slot → Slot) : (s.updSlot r f).freeCtr = s.freeCtr := rfl

/-! ### updGrid -/

@[simp] theorem State.updGrid_clock (s : State) (gid : Nat) (f : Grid → Grid) : (s.updGrid gid f).clock = s.clock := rfl
@[simp] theorem State.updGrid_wafers (s : State) (gid : Nat) (f : Grid → Grid) : (s.updGrid gid f).wafers = s.wafers := rfl
@[simp] theorem State.updGrid_domains (s : State) (gid : Nat) (f : Grid → Grid) : (s.updGrid gid f).domains = s.domains := rfl
@[simp] theorem State.updGrid_bays (s : State) (gid : Nat) (f : Grid → Grid) : (s.updGrid gid f).bays = s.bays := rfl
@[simp] theorem State.updGrid_cores (s : State) (gid : Nat) (f : Grid → Grid) : (s.updGrid gid f).cores = s.cores := rfl
@[simp] theorem State.updGrid_blocks (s : State) (gid : Nat) (f : Grid → Grid) : (s.updGrid gid f).blocks = s.blocks := rfl
@[simp] theorem State.updGrid_mem (s : State) (gid : Nat) (f : Grid → Grid) : (s.updGrid gid f).mem = s.mem := rfl
@[simp] theorem State.updGrid_poison (s : State) (gid : Nat) (f : Grid → Grid) : (s.updGrid gid f).poison = s.poison := rfl
@[simp] theorem State.updGrid_reqs (s : State) (gid : Nat) (f : Grid → Grid) : (s.updGrid gid f).reqs = s.reqs := rfl
@[simp] theorem State.updGrid_pends (s : State) (gid : Nat) (f : Grid → Grid) : (s.updGrid gid f).pends = s.pends := rfl
@[simp] theorem State.updGrid_msgs (s : State) (gid : Nat) (f : Grid → Grid) : (s.updGrid gid f).msgs = s.msgs := rfl
@[simp] theorem State.updGrid_launches (s : State) (gid : Nat) (f : Grid → Grid) : (s.updGrid gid f).launches = s.launches := rfl
@[simp] theorem State.updGrid_unitOps (s : State) (gid : Nat) (f : Grid → Grid) : (s.updGrid gid f).unitOps = s.unitOps := rfl
@[simp] theorem State.updGrid_safelightSteps (s : State) (gid : Nat) (f : Grid → Grid) : (s.updGrid gid f).safelightSteps = s.safelightSteps := rfl
@[simp] theorem State.updGrid_agenda (s : State) (gid : Nat) (f : Grid → Grid) : (s.updGrid gid f).agenda = s.agenda := rfl
@[simp] theorem State.updGrid_cur (s : State) (gid : Nat) (f : Grid → Grid) : (s.updGrid gid f).cur = s.cur := rfl
@[simp] theorem State.updGrid_ops (s : State) (gid : Nat) (f : Grid → Grid) : (s.updGrid gid f).ops = s.ops := rfl
@[simp] theorem State.updGrid_nextId (s : State) (gid : Nat) (f : Grid → Grid) : (s.updGrid gid f).nextId = s.nextId := rfl
@[simp] theorem State.updGrid_freeCtr (s : State) (gid : Nat) (f : Grid → Grid) : (s.updGrid gid f).freeCtr = s.freeCtr := rfl

/-! ### updReq -/

@[simp] theorem State.updReq_clock (s : State) (id : Nat) (f : Req → Req) : (s.updReq id f).clock = s.clock := rfl
@[simp] theorem State.updReq_wafers (s : State) (id : Nat) (f : Req → Req) : (s.updReq id f).wafers = s.wafers := rfl
@[simp] theorem State.updReq_domains (s : State) (id : Nat) (f : Req → Req) : (s.updReq id f).domains = s.domains := rfl
@[simp] theorem State.updReq_bays (s : State) (id : Nat) (f : Req → Req) : (s.updReq id f).bays = s.bays := rfl
@[simp] theorem State.updReq_cores (s : State) (id : Nat) (f : Req → Req) : (s.updReq id f).cores = s.cores := rfl
@[simp] theorem State.updReq_blocks (s : State) (id : Nat) (f : Req → Req) : (s.updReq id f).blocks = s.blocks := rfl
@[simp] theorem State.updReq_grids (s : State) (id : Nat) (f : Req → Req) : (s.updReq id f).grids = s.grids := rfl
@[simp] theorem State.updReq_mem (s : State) (id : Nat) (f : Req → Req) : (s.updReq id f).mem = s.mem := rfl
@[simp] theorem State.updReq_poison (s : State) (id : Nat) (f : Req → Req) : (s.updReq id f).poison = s.poison := rfl
@[simp] theorem State.updReq_pends (s : State) (id : Nat) (f : Req → Req) : (s.updReq id f).pends = s.pends := rfl
@[simp] theorem State.updReq_msgs (s : State) (id : Nat) (f : Req → Req) : (s.updReq id f).msgs = s.msgs := rfl
@[simp] theorem State.updReq_launches (s : State) (id : Nat) (f : Req → Req) : (s.updReq id f).launches = s.launches := rfl
@[simp] theorem State.updReq_unitOps (s : State) (id : Nat) (f : Req → Req) : (s.updReq id f).unitOps = s.unitOps := rfl
@[simp] theorem State.updReq_safelightSteps (s : State) (id : Nat) (f : Req → Req) : (s.updReq id f).safelightSteps = s.safelightSteps := rfl
@[simp] theorem State.updReq_agenda (s : State) (id : Nat) (f : Req → Req) : (s.updReq id f).agenda = s.agenda := rfl
@[simp] theorem State.updReq_cur (s : State) (id : Nat) (f : Req → Req) : (s.updReq id f).cur = s.cur := rfl
@[simp] theorem State.updReq_ops (s : State) (id : Nat) (f : Req → Req) : (s.updReq id f).ops = s.ops := rfl
@[simp] theorem State.updReq_nextId (s : State) (id : Nat) (f : Req → Req) : (s.updReq id f).nextId = s.nextId := rfl
@[simp] theorem State.updReq_freeCtr (s : State) (id : Nat) (f : Req → Req) : (s.updReq id f).freeCtr = s.freeCtr := rfl

/-! ### dropReq -/

@[simp] theorem State.dropReq_clock (s : State) (id : Nat) : (s.dropReq id).clock = s.clock := rfl
@[simp] theorem State.dropReq_wafers (s : State) (id : Nat) : (s.dropReq id).wafers = s.wafers := rfl
@[simp] theorem State.dropReq_domains (s : State) (id : Nat) : (s.dropReq id).domains = s.domains := rfl
@[simp] theorem State.dropReq_bays (s : State) (id : Nat) : (s.dropReq id).bays = s.bays := rfl
@[simp] theorem State.dropReq_cores (s : State) (id : Nat) : (s.dropReq id).cores = s.cores := rfl
@[simp] theorem State.dropReq_blocks (s : State) (id : Nat) : (s.dropReq id).blocks = s.blocks := rfl
@[simp] theorem State.dropReq_grids (s : State) (id : Nat) : (s.dropReq id).grids = s.grids := rfl
@[simp] theorem State.dropReq_mem (s : State) (id : Nat) : (s.dropReq id).mem = s.mem := rfl
@[simp] theorem State.dropReq_poison (s : State) (id : Nat) : (s.dropReq id).poison = s.poison := rfl
@[simp] theorem State.dropReq_reqs (s : State) (id : Nat) : (s.dropReq id).reqs = s.reqs.filter (fun r => r.id != id) := rfl
@[simp] theorem State.dropReq_pends (s : State) (id : Nat) : (s.dropReq id).pends = s.pends := rfl
@[simp] theorem State.dropReq_msgs (s : State) (id : Nat) : (s.dropReq id).msgs = s.msgs := rfl
@[simp] theorem State.dropReq_launches (s : State) (id : Nat) : (s.dropReq id).launches = s.launches := rfl
@[simp] theorem State.dropReq_unitOps (s : State) (id : Nat) : (s.dropReq id).unitOps = s.unitOps := rfl
@[simp] theorem State.dropReq_safelightSteps (s : State) (id : Nat) : (s.dropReq id).safelightSteps = s.safelightSteps := rfl
@[simp] theorem State.dropReq_agenda (s : State) (id : Nat) : (s.dropReq id).agenda = s.agenda := rfl
@[simp] theorem State.dropReq_cur (s : State) (id : Nat) : (s.dropReq id).cur = s.cur := rfl
@[simp] theorem State.dropReq_ops (s : State) (id : Nat) : (s.dropReq id).ops = s.ops := rfl
@[simp] theorem State.dropReq_nextId (s : State) (id : Nat) : (s.dropReq id).nextId = s.nextId := rfl
@[simp] theorem State.dropReq_freeCtr (s : State) (id : Nat) : (s.dropReq id).freeCtr = s.freeCtr := rfl

/-! ### updPend -/

@[simp] theorem State.updPend_clock (s : State) (tag : Nat) (f : Pend → Pend) : (s.updPend tag f).clock = s.clock := rfl
@[simp] theorem State.updPend_wafers (s : State) (tag : Nat) (f : Pend → Pend) : (s.updPend tag f).wafers = s.wafers := rfl
@[simp] theorem State.updPend_domains (s : State) (tag : Nat) (f : Pend → Pend) : (s.updPend tag f).domains = s.domains := rfl
@[simp] theorem State.updPend_bays (s : State) (tag : Nat) (f : Pend → Pend) : (s.updPend tag f).bays = s.bays := rfl
@[simp] theorem State.updPend_cores (s : State) (tag : Nat) (f : Pend → Pend) : (s.updPend tag f).cores = s.cores := rfl
@[simp] theorem State.updPend_blocks (s : State) (tag : Nat) (f : Pend → Pend) : (s.updPend tag f).blocks = s.blocks := rfl
@[simp] theorem State.updPend_grids (s : State) (tag : Nat) (f : Pend → Pend) : (s.updPend tag f).grids = s.grids := rfl
@[simp] theorem State.updPend_mem (s : State) (tag : Nat) (f : Pend → Pend) : (s.updPend tag f).mem = s.mem := rfl
@[simp] theorem State.updPend_poison (s : State) (tag : Nat) (f : Pend → Pend) : (s.updPend tag f).poison = s.poison := rfl
@[simp] theorem State.updPend_reqs (s : State) (tag : Nat) (f : Pend → Pend) : (s.updPend tag f).reqs = s.reqs := rfl
@[simp] theorem State.updPend_msgs (s : State) (tag : Nat) (f : Pend → Pend) : (s.updPend tag f).msgs = s.msgs := rfl
@[simp] theorem State.updPend_launches (s : State) (tag : Nat) (f : Pend → Pend) : (s.updPend tag f).launches = s.launches := rfl
@[simp] theorem State.updPend_unitOps (s : State) (tag : Nat) (f : Pend → Pend) : (s.updPend tag f).unitOps = s.unitOps := rfl
@[simp] theorem State.updPend_safelightSteps (s : State) (tag : Nat) (f : Pend → Pend) : (s.updPend tag f).safelightSteps = s.safelightSteps := rfl
@[simp] theorem State.updPend_agenda (s : State) (tag : Nat) (f : Pend → Pend) : (s.updPend tag f).agenda = s.agenda := rfl
@[simp] theorem State.updPend_cur (s : State) (tag : Nat) (f : Pend → Pend) : (s.updPend tag f).cur = s.cur := rfl
@[simp] theorem State.updPend_ops (s : State) (tag : Nat) (f : Pend → Pend) : (s.updPend tag f).ops = s.ops := rfl
@[simp] theorem State.updPend_nextId (s : State) (tag : Nat) (f : Pend → Pend) : (s.updPend tag f).nextId = s.nextId := rfl
@[simp] theorem State.updPend_freeCtr (s : State) (tag : Nat) (f : Pend → Pend) : (s.updPend tag f).freeCtr = s.freeCtr := rfl

/-! ### dropPend -/

@[simp] theorem State.dropPend_clock (s : State) (tag : Nat) : (s.dropPend tag).clock = s.clock := rfl
@[simp] theorem State.dropPend_wafers (s : State) (tag : Nat) : (s.dropPend tag).wafers = s.wafers := rfl
@[simp] theorem State.dropPend_domains (s : State) (tag : Nat) : (s.dropPend tag).domains = s.domains := rfl
@[simp] theorem State.dropPend_bays (s : State) (tag : Nat) : (s.dropPend tag).bays = s.bays := rfl
@[simp] theorem State.dropPend_cores (s : State) (tag : Nat) : (s.dropPend tag).cores = s.cores := rfl
@[simp] theorem State.dropPend_blocks (s : State) (tag : Nat) : (s.dropPend tag).blocks = s.blocks := rfl
@[simp] theorem State.dropPend_grids (s : State) (tag : Nat) : (s.dropPend tag).grids = s.grids := rfl
@[simp] theorem State.dropPend_mem (s : State) (tag : Nat) : (s.dropPend tag).mem = s.mem := rfl
@[simp] theorem State.dropPend_poison (s : State) (tag : Nat) : (s.dropPend tag).poison = s.poison := rfl
@[simp] theorem State.dropPend_reqs (s : State) (tag : Nat) : (s.dropPend tag).reqs = s.reqs := rfl
@[simp] theorem State.dropPend_pends (s : State) (tag : Nat) : (s.dropPend tag).pends = s.pends.filter (fun p => p.tag != tag) := rfl
@[simp] theorem State.dropPend_msgs (s : State) (tag : Nat) : (s.dropPend tag).msgs = s.msgs := rfl
@[simp] theorem State.dropPend_launches (s : State) (tag : Nat) : (s.dropPend tag).launches = s.launches := rfl
@[simp] theorem State.dropPend_unitOps (s : State) (tag : Nat) : (s.dropPend tag).unitOps = s.unitOps := rfl
@[simp] theorem State.dropPend_safelightSteps (s : State) (tag : Nat) : (s.dropPend tag).safelightSteps = s.safelightSteps := rfl
@[simp] theorem State.dropPend_agenda (s : State) (tag : Nat) : (s.dropPend tag).agenda = s.agenda := rfl
@[simp] theorem State.dropPend_cur (s : State) (tag : Nat) : (s.dropPend tag).cur = s.cur := rfl
@[simp] theorem State.dropPend_ops (s : State) (tag : Nat) : (s.dropPend tag).ops = s.ops := rfl
@[simp] theorem State.dropPend_nextId (s : State) (tag : Nat) : (s.dropPend tag).nextId = s.nextId := rfl
@[simp] theorem State.dropPend_freeCtr (s : State) (tag : Nat) : (s.dropPend tag).freeCtr = s.freeCtr := rfl

/-! ### dropMsg -/

@[simp] theorem State.dropMsg_clock (s : State) (id : Nat) : (s.dropMsg id).clock = s.clock := rfl
@[simp] theorem State.dropMsg_wafers (s : State) (id : Nat) : (s.dropMsg id).wafers = s.wafers := rfl
@[simp] theorem State.dropMsg_domains (s : State) (id : Nat) : (s.dropMsg id).domains = s.domains := rfl
@[simp] theorem State.dropMsg_bays (s : State) (id : Nat) : (s.dropMsg id).bays = s.bays := rfl
@[simp] theorem State.dropMsg_cores (s : State) (id : Nat) : (s.dropMsg id).cores = s.cores := rfl
@[simp] theorem State.dropMsg_blocks (s : State) (id : Nat) : (s.dropMsg id).blocks = s.blocks := rfl
@[simp] theorem State.dropMsg_grids (s : State) (id : Nat) : (s.dropMsg id).grids = s.grids := rfl
@[simp] theorem State.dropMsg_mem (s : State) (id : Nat) : (s.dropMsg id).mem = s.mem := rfl
@[simp] theorem State.dropMsg_poison (s : State) (id : Nat) : (s.dropMsg id).poison = s.poison := rfl
@[simp] theorem State.dropMsg_reqs (s : State) (id : Nat) : (s.dropMsg id).reqs = s.reqs := rfl
@[simp] theorem State.dropMsg_pends (s : State) (id : Nat) : (s.dropMsg id).pends = s.pends := rfl
@[simp] theorem State.dropMsg_msgs (s : State) (id : Nat) : (s.dropMsg id).msgs = s.msgs.filter (fun m => m.id != id) := rfl
@[simp] theorem State.dropMsg_launches (s : State) (id : Nat) : (s.dropMsg id).launches = s.launches := rfl
@[simp] theorem State.dropMsg_unitOps (s : State) (id : Nat) : (s.dropMsg id).unitOps = s.unitOps := rfl
@[simp] theorem State.dropMsg_safelightSteps (s : State) (id : Nat) : (s.dropMsg id).safelightSteps = s.safelightSteps := rfl
@[simp] theorem State.dropMsg_agenda (s : State) (id : Nat) : (s.dropMsg id).agenda = s.agenda := rfl
@[simp] theorem State.dropMsg_cur (s : State) (id : Nat) : (s.dropMsg id).cur = s.cur := rfl
@[simp] theorem State.dropMsg_ops (s : State) (id : Nat) : (s.dropMsg id).ops = s.ops := rfl
@[simp] theorem State.dropMsg_nextId (s : State) (id : Nat) : (s.dropMsg id).nextId = s.nextId := rfl
@[simp] theorem State.dropMsg_freeCtr (s : State) (id : Nat) : (s.dropMsg id).freeCtr = s.freeCtr := rfl

/-! ### send -/

@[simp] theorem State.send_clock (s : State) (b : MsgBody) : (s.send b).clock = s.clock := rfl
@[simp] theorem State.send_wafers (s : State) (b : MsgBody) : (s.send b).wafers = s.wafers := rfl
@[simp] theorem State.send_domains (s : State) (b : MsgBody) : (s.send b).domains = s.domains := rfl
@[simp] theorem State.send_bays (s : State) (b : MsgBody) : (s.send b).bays = s.bays := rfl
@[simp] theorem State.send_cores (s : State) (b : MsgBody) : (s.send b).cores = s.cores := rfl
@[simp] theorem State.send_blocks (s : State) (b : MsgBody) : (s.send b).blocks = s.blocks := rfl
@[simp] theorem State.send_grids (s : State) (b : MsgBody) : (s.send b).grids = s.grids := rfl
@[simp] theorem State.send_mem (s : State) (b : MsgBody) : (s.send b).mem = s.mem := rfl
@[simp] theorem State.send_poison (s : State) (b : MsgBody) : (s.send b).poison = s.poison := rfl
@[simp] theorem State.send_reqs (s : State) (b : MsgBody) : (s.send b).reqs = s.reqs := rfl
@[simp] theorem State.send_pends (s : State) (b : MsgBody) : (s.send b).pends = s.pends := rfl
@[simp] theorem State.send_msgs (s : State) (b : MsgBody) : (s.send b).msgs = s.msgs ++ [{ id := s.nextId, body := b }] := rfl
@[simp] theorem State.send_launches (s : State) (b : MsgBody) : (s.send b).launches = s.launches := rfl
@[simp] theorem State.send_unitOps (s : State) (b : MsgBody) : (s.send b).unitOps = s.unitOps := rfl
@[simp] theorem State.send_safelightSteps (s : State) (b : MsgBody) : (s.send b).safelightSteps = s.safelightSteps := rfl
@[simp] theorem State.send_agenda (s : State) (b : MsgBody) : (s.send b).agenda = s.agenda := rfl
@[simp] theorem State.send_cur (s : State) (b : MsgBody) : (s.send b).cur = s.cur := rfl
@[simp] theorem State.send_ops (s : State) (b : MsgBody) : (s.send b).ops = s.ops := rfl
@[simp] theorem State.send_nextId (s : State) (b : MsgBody) : (s.send b).nextId = s.nextId + 1 := rfl
@[simp] theorem State.send_freeCtr (s : State) (b : MsgBody) : (s.send b).freeCtr = s.freeCtr := rfl

/-! ### addReq -/

@[simp] theorem State.addReq_clock (s : State) (r : Req) : (s.addReq r).clock = s.clock := rfl
@[simp] theorem State.addReq_wafers (s : State) (r : Req) : (s.addReq r).wafers = s.wafers := rfl
@[simp] theorem State.addReq_domains (s : State) (r : Req) : (s.addReq r).domains = s.domains := rfl
@[simp] theorem State.addReq_bays (s : State) (r : Req) : (s.addReq r).bays = s.bays := rfl
@[simp] theorem State.addReq_cores (s : State) (r : Req) : (s.addReq r).cores = s.cores := rfl
@[simp] theorem State.addReq_blocks (s : State) (r : Req) : (s.addReq r).blocks = s.blocks := rfl
@[simp] theorem State.addReq_grids (s : State) (r : Req) : (s.addReq r).grids = s.grids := rfl
@[simp] theorem State.addReq_mem (s : State) (r : Req) : (s.addReq r).mem = s.mem := rfl
@[simp] theorem State.addReq_poison (s : State) (r : Req) : (s.addReq r).poison = s.poison := rfl
@[simp] theorem State.addReq_reqs (s : State) (r : Req) : (s.addReq r).reqs = s.reqs ++ [{ r with id := s.nextId }] := rfl
@[simp] theorem State.addReq_pends (s : State) (r : Req) : (s.addReq r).pends = s.pends := rfl
@[simp] theorem State.addReq_msgs (s : State) (r : Req) : (s.addReq r).msgs = s.msgs := rfl
@[simp] theorem State.addReq_launches (s : State) (r : Req) : (s.addReq r).launches = s.launches := rfl
@[simp] theorem State.addReq_unitOps (s : State) (r : Req) : (s.addReq r).unitOps = s.unitOps := rfl
@[simp] theorem State.addReq_safelightSteps (s : State) (r : Req) : (s.addReq r).safelightSteps = s.safelightSteps := rfl
@[simp] theorem State.addReq_agenda (s : State) (r : Req) : (s.addReq r).agenda = s.agenda := rfl
@[simp] theorem State.addReq_cur (s : State) (r : Req) : (s.addReq r).cur = s.cur := rfl
@[simp] theorem State.addReq_ops (s : State) (r : Req) : (s.addReq r).ops = s.ops := rfl
@[simp] theorem State.addReq_nextId (s : State) (r : Req) : (s.addReq r).nextId = s.nextId + 1 := rfl
@[simp] theorem State.addReq_freeCtr (s : State) (r : Req) : (s.addReq r).freeCtr = s.freeCtr := rfl

/-! ### updArbor -/

@[simp] theorem State.updArbor_clock (s : State) (gid dk : Nat) (f : GridCnt → GridCnt) : (s.updArbor gid dk f).clock = s.clock := rfl
@[simp] theorem State.updArbor_wafers (s : State) (gid dk : Nat) (f : GridCnt → GridCnt) : (s.updArbor gid dk f).wafers = s.wafers := rfl
@[simp] theorem State.updArbor_domains (s : State) (gid dk : Nat) (f : GridCnt → GridCnt) : (s.updArbor gid dk f).domains = s.domains := rfl
@[simp] theorem State.updArbor_bays (s : State) (gid dk : Nat) (f : GridCnt → GridCnt) : (s.updArbor gid dk f).bays = s.bays := rfl
@[simp] theorem State.updArbor_cores (s : State) (gid dk : Nat) (f : GridCnt → GridCnt) : (s.updArbor gid dk f).cores = s.cores := rfl
@[simp] theorem State.updArbor_blocks (s : State) (gid dk : Nat) (f : GridCnt → GridCnt) : (s.updArbor gid dk f).blocks = s.blocks := rfl
@[simp] theorem State.updArbor_mem (s : State) (gid dk : Nat) (f : GridCnt → GridCnt) : (s.updArbor gid dk f).mem = s.mem := rfl
@[simp] theorem State.updArbor_poison (s : State) (gid dk : Nat) (f : GridCnt → GridCnt) : (s.updArbor gid dk f).poison = s.poison := rfl
@[simp] theorem State.updArbor_reqs (s : State) (gid dk : Nat) (f : GridCnt → GridCnt) : (s.updArbor gid dk f).reqs = s.reqs := rfl
@[simp] theorem State.updArbor_pends (s : State) (gid dk : Nat) (f : GridCnt → GridCnt) : (s.updArbor gid dk f).pends = s.pends := rfl
@[simp] theorem State.updArbor_msgs (s : State) (gid dk : Nat) (f : GridCnt → GridCnt) : (s.updArbor gid dk f).msgs = s.msgs := rfl
@[simp] theorem State.updArbor_launches (s : State) (gid dk : Nat) (f : GridCnt → GridCnt) : (s.updArbor gid dk f).launches = s.launches := rfl
@[simp] theorem State.updArbor_unitOps (s : State) (gid dk : Nat) (f : GridCnt → GridCnt) : (s.updArbor gid dk f).unitOps = s.unitOps := rfl
@[simp] theorem State.updArbor_safelightSteps (s : State) (gid dk : Nat) (f : GridCnt → GridCnt) : (s.updArbor gid dk f).safelightSteps = s.safelightSteps := rfl
@[simp] theorem State.updArbor_agenda (s : State) (gid dk : Nat) (f : GridCnt → GridCnt) : (s.updArbor gid dk f).agenda = s.agenda := rfl
@[simp] theorem State.updArbor_cur (s : State) (gid dk : Nat) (f : GridCnt → GridCnt) : (s.updArbor gid dk f).cur = s.cur := rfl
@[simp] theorem State.updArbor_ops (s : State) (gid dk : Nat) (f : GridCnt → GridCnt) : (s.updArbor gid dk f).ops = s.ops := rfl
@[simp] theorem State.updArbor_nextId (s : State) (gid dk : Nat) (f : GridCnt → GridCnt) : (s.updArbor gid dk f).nextId = s.nextId := rfl
@[simp] theorem State.updArbor_freeCtr (s : State) (gid dk : Nat) (f : GridCnt → GridCnt) : (s.updArbor gid dk f).freeCtr = s.freeCtr := rfl

/-! ### undefL -/

@[simp] theorem State.undefL_clock (s : State) (bid wi : Nat) : (s.undefL bid wi).clock = s.clock := rfl
@[simp] theorem State.undefL_wafers (s : State) (bid wi : Nat) : (s.undefL bid wi).wafers = s.wafers := rfl
@[simp] theorem State.undefL_domains (s : State) (bid wi : Nat) : (s.undefL bid wi).domains = s.domains := rfl
@[simp] theorem State.undefL_bays (s : State) (bid wi : Nat) : (s.undefL bid wi).bays = s.bays := rfl
@[simp] theorem State.undefL_cores (s : State) (bid wi : Nat) : (s.undefL bid wi).cores = s.cores := rfl
@[simp] theorem State.undefL_grids (s : State) (bid wi : Nat) : (s.undefL bid wi).grids = s.grids := rfl
@[simp] theorem State.undefL_mem (s : State) (bid wi : Nat) : (s.undefL bid wi).mem = s.mem := rfl
@[simp] theorem State.undefL_poison (s : State) (bid wi : Nat) : (s.undefL bid wi).poison = s.poison := rfl
@[simp] theorem State.undefL_reqs (s : State) (bid wi : Nat) : (s.undefL bid wi).reqs = s.reqs := rfl
@[simp] theorem State.undefL_pends (s : State) (bid wi : Nat) : (s.undefL bid wi).pends = s.pends := rfl
@[simp] theorem State.undefL_msgs (s : State) (bid wi : Nat) : (s.undefL bid wi).msgs = s.msgs := rfl
@[simp] theorem State.undefL_launches (s : State) (bid wi : Nat) : (s.undefL bid wi).launches = s.launches := rfl
@[simp] theorem State.undefL_unitOps (s : State) (bid wi : Nat) : (s.undefL bid wi).unitOps = s.unitOps := rfl
@[simp] theorem State.undefL_safelightSteps (s : State) (bid wi : Nat) : (s.undefL bid wi).safelightSteps = s.safelightSteps := rfl
@[simp] theorem State.undefL_agenda (s : State) (bid wi : Nat) : (s.undefL bid wi).agenda = s.agenda := rfl
@[simp] theorem State.undefL_cur (s : State) (bid wi : Nat) : (s.undefL bid wi).cur = s.cur := rfl
@[simp] theorem State.undefL_ops (s : State) (bid wi : Nat) : (s.undefL bid wi).ops = s.ops := rfl
@[simp] theorem State.undefL_nextId (s : State) (bid wi : Nat) : (s.undefL bid wi).nextId = s.nextId := rfl
@[simp] theorem State.undefL_freeCtr (s : State) (bid wi : Nat) : (s.undefL bid wi).freeCtr = s.freeCtr + 32 := rfl

/-! ### atPath -/

@[simp] theorem State.atPath_clock (s : State) (r : PathRef) (o : Ops) : (s.atPath r o).clock = s.clock := rfl
@[simp] theorem State.atPath_wafers (s : State) (r : PathRef) (o : Ops) : (s.atPath r o).wafers = s.wafers := rfl
@[simp] theorem State.atPath_domains (s : State) (r : PathRef) (o : Ops) : (s.atPath r o).domains = s.domains := rfl
@[simp] theorem State.atPath_bays (s : State) (r : PathRef) (o : Ops) : (s.atPath r o).bays = s.bays := rfl
@[simp] theorem State.atPath_cores (s : State) (r : PathRef) (o : Ops) : (s.atPath r o).cores = s.cores := rfl
@[simp] theorem State.atPath_blocks (s : State) (r : PathRef) (o : Ops) : (s.atPath r o).blocks = s.blocks := rfl
@[simp] theorem State.atPath_grids (s : State) (r : PathRef) (o : Ops) : (s.atPath r o).grids = s.grids := rfl
@[simp] theorem State.atPath_mem (s : State) (r : PathRef) (o : Ops) : (s.atPath r o).mem = s.mem := rfl
@[simp] theorem State.atPath_poison (s : State) (r : PathRef) (o : Ops) : (s.atPath r o).poison = s.poison := rfl
@[simp] theorem State.atPath_reqs (s : State) (r : PathRef) (o : Ops) : (s.atPath r o).reqs = s.reqs := rfl
@[simp] theorem State.atPath_pends (s : State) (r : PathRef) (o : Ops) : (s.atPath r o).pends = s.pends := rfl
@[simp] theorem State.atPath_msgs (s : State) (r : PathRef) (o : Ops) : (s.atPath r o).msgs = s.msgs := rfl
@[simp] theorem State.atPath_launches (s : State) (r : PathRef) (o : Ops) : (s.atPath r o).launches = s.launches := rfl
@[simp] theorem State.atPath_unitOps (s : State) (r : PathRef) (o : Ops) : (s.atPath r o).unitOps = s.unitOps := rfl
@[simp] theorem State.atPath_safelightSteps (s : State) (r : PathRef) (o : Ops) : (s.atPath r o).safelightSteps = s.safelightSteps := rfl
@[simp] theorem State.atPath_agenda (s : State) (r : PathRef) (o : Ops) : (s.atPath r o).agenda = s.agenda := rfl
@[simp] theorem State.atPath_cur (s : State) (r : PathRef) (o : Ops) : (s.atPath r o).cur = some r := rfl
@[simp] theorem State.atPath_ops (s : State) (r : PathRef) (o : Ops) : (s.atPath r o).ops = o := rfl
@[simp] theorem State.atPath_nextId (s : State) (r : PathRef) (o : Ops) : (s.atPath r o).nextId = s.nextId := rfl
@[simp] theorem State.atPath_freeCtr (s : State) (r : PathRef) (o : Ops) : (s.atPath r o).freeCtr = s.freeCtr := rfl

end Sys2Proof.Machine
end

