-- ==== Sys2Proof/Laws/Tab.lean ====
section
/-!
SUPPORT. Laws of the sparse tables: a read after a write of the same key gives the value written, of another key what it gave.
-/

namespace Sys2Proof

theorem Tab.get?_set_same {α : Type} (k : Nat) (v : α) : ∀ t : Tab α, Tab.get? k (Tab.set k v t) = some v
  | [] => by simp [Tab.set, Tab.get?]
  | (k', v') :: t => by
    unfold Tab.set
    split
    · simp [Tab.get?]
    · split
      · simp [Tab.get?]
      · rename_i h _; simp [Tab.get?, h, Tab.get?_set_same k v t]

theorem Tab.get?_set_other {α : Type} {k j : Nat} (v : α) (h : j ≠ k) : ∀ t : Tab α, Tab.get? j (Tab.set k v t) = Tab.get? j t
  | [] => by simp [Tab.set, Tab.get?, h]
  | (k', v') :: t => by
    unfold Tab.set
    split
    · rename_i hk; subst hk; simp [Tab.get?, h]
    · split
      · simp [Tab.get?, h]
      · simp only [Tab.get?, Tab.get?_set_other v h t]

@[simp] theorem Tab.get_set_same {α : Type} (d : α) (t : Tab α) (k : Nat) (v : α) : (t.set k v).get d k = v := by
  simp [Tab.get, Tab.get?_set_same]

@[simp] theorem Tab.get_set_other {α : Type} (d : α) (t : Tab α) {k j : Nat} (v : α) (h : j ≠ k) :
    (t.set k v).get d j = t.get d j := by
  simp [Tab.get, Tab.get?_set_other v h]

theorem Tab.get_set {α : Type} (d : α) (t : Tab α) (k j : Nat) (v : α) :
    (t.set k v).get d j = if j = k then v else t.get d j := by
  split
  · rename_i h; subst h; simp
  · rename_i h; simp [h]

end Sys2Proof
end

