-- ==== Sys2Proof/Laws/Issue.lean ====
section
/-!
SUPPORT. The issue of an instruction, said once: what the state names is what the issue sees; an instruction that nothing hinders has its
effect; what the updates of one warp change.
-/

namespace Sys2Proof.Machine

theorem ctx?_of {i : Instr} {s : State} {r : PathRef} {b : Block} {w : Warp} {sl : Slot} (h : Issuing s r b w sl) :
    ctx? i s = some (ctxOf i s.ops r b w sl) := by
  obtain ⟨hc, hb, hw, hs, hl⟩ := h
  simp only [ctx?, hc, hb, hw, hs, hl, if_true, ctxOf]
  all_goals (cases sl.ordPfx <;> rfl)

theorem issue_of {i : Instr} {s : State} {r : PathRef} {b : Block} {w : Warp} {sl : Slot} (h : Issuing s r b w sl)
    (sh : Shape) (pre : Ctx → State → Option Flt) (eff : Ctx → State → Res) :
    issue i sh pre eff s = .next (issueCore sh pre eff (ctxOf i s.ops r b w sl) s) := by
  simp only [issue, ctx?_of h]

theorem encodingFault_of {c : Ctx} {sh : Shape} (hg : reachCount c.slot.reach = 0 ∨ sh.gov = true) (ho : ordpOk sh c.ord = true)
    (hf : sh.faults c.blk.lrec.regs c.warp.priv = []) : encodingFault c sh = none := by
  have hgov : ¬(reachCount c.slot.reach ≠ 0 ∧ sh.gov = false) := by
    rcases hg with hg | hg <;> simp [hg]
  unfold encodingFault
  simp only [hf, if_neg hgov, List.nil_append, List.append_nil]
  cases hpx : c.ord with
  | none => simp
  | some o =>
    rw [hpx] at ho
    cases hso : sh.ordp with
    | none => simp [ordpOk, hso] at ho
    | some q =>
      obtain ⟨a1, a2, a3⟩ := q
      simp only [ordpOk, hso] at ho
      cases hoo : o.order <;> simp only [hoo] at ho ⊢ <;> simp [ho]

theorem encodingFault_none {i : Instr} {ops : Ops} {r : PathRef} {sh : Shape} {b : Block} {w : Warp} {sl : Slot} (h : Unhindered sh b w sl) :
    encodingFault (ctxOf i ops r b w sl) sh = none := by
  obtain ⟨he, hm, hg, ho, hf⟩ := h
  have hr : sh.fields.all (fun f => roleOk b.lrec.regs f.role f.words f.opd) = true := by
    rw [List.all_eq_true]; intro f hfm
    have := hf f hfm
    simp only [Field.settled, Bool.and_eq_true] at this
    exact this.1
  have hp : (sh.priv && !w.priv) = false := by
    cases hsp : sh.priv <;> simp_all
  exact encodingFault_of hg ho (by simp [Shape.faults, ctxOf, he, hr, hp])

theorem emptyOf_nil {sh : Shape} {b : Block} {w : Warp} {sl : Slot} (h : Unhindered sh b w sl) (st : Bool) : emptyOf w sh st = [] := by
  simp only [emptyOf, List.flatMap_eq_nil_iff, List.filter_eq_nil_iff, List.mem_filter]
  intro f hf x hx
  have := h.fields f hf.1
  simp only [Field.settled, Bool.and_eq_true, List.all_eq_true] at this
  simpa using this.2 x hx

theorem emptyDst_nil {sh : Shape} {b : Block} {w : Warp} {sl : Slot} (h : Unhindered sh b w sl) : emptyDst w sh = [] := by
  simp only [emptyDst, List.flatMap_eq_nil_iff, List.filter_eq_nil_iff, List.mem_filter]
  intro f hf x hx
  have := h.fields f hf.1
  simp only [Field.settled, Bool.and_eq_true, List.all_eq_true] at this
  simpa using this.2 x hx

/-- An instruction that nothing hinders and that has no fault before its effect has its effect. -/
theorem issue_free {i : Instr} {s : State} {r : PathRef} {b : Block} {w : Warp} {sl : Slot} (h : Issuing s r b w sl)
    {sh : Shape} (hu : Unhindered sh b w sl) {pre : Ctx → State → Option Flt} (hp : pre (ctxAt s i s.ops r b w sl) s = none)
    (eff : Ctx → State → Res) :
    issue i sh pre eff s = .next (finish (ctxOf i s.ops r b w sl) s
      (eff (ctxAt s i s.ops r b w sl) (beginIssue (ctxOf i s.ops r b w sl) s))) := by
  rw [issue_of h]
  have h1 : emptyOf (ctxOf i s.ops r b w sl).warp sh true = [] := emptyOf_nil hu true
  have h2 : emptyOf (ctxOf i s.ops r b w sl).warp sh false = [] := emptyOf_nil hu false
  have h3 : emptyDst (ctxOf i s.ops r b w sl).warp sh = [] := emptyDst_nil hu
  have h4 : pre ((ctxOf i s.ops r b w sl).seen s) s = none := hp
  simp [issueCore, encodingFault_none hu, h1, h2, h3, h4, ctxAt]

/-! ### One warp -/

theorem find?_map_upd {bid : Nat} {b : Block} (f : Block → Block) (hf : ∀ x, (f x).bid = x.bid) (hb : b.bid = bid) :
    ∀ l : List Block, l.find? (fun x => x.bid == bid) = some b →
      (l.map (fun x => if x.bid = bid then f x else x)).find? (fun x => x.bid == bid) = some (f b)
  | [], h => by simp at h
  | x :: t, h => by
    by_cases hx : x.bid = bid
    · simp only [List.find?_cons, hx, beq_self_eq_true, Option.some.injEq] at h
      subst h
      simp [hx, hf]
    · have hx' : (x.bid == bid) = false := by simpa using hx
      simp only [List.find?_cons, hx'] at h
      simp only [List.map_cons, if_neg hx, List.find?_cons, hx']
      exact find?_map_upd f hf hb t h

theorem find?_map_upd_other {bid bid' : Nat} (f : Block → Block) (hf : ∀ x, (f x).bid = x.bid) (h : bid' ≠ bid) :
    ∀ l : List Block, (l.map (fun x => if x.bid = bid then f x else x)).find? (fun x => x.bid == bid') = l.find? (fun x => x.bid == bid')
  | [] => rfl
  | x :: t => by
    by_cases hx : x.bid = bid
    · have h1 : ((f x).bid == bid') = false := by rw [hf, hx]; simpa using fun e => h e.symm
      have h2 : (x.bid == bid') = false := by rw [hx]; simpa using fun e => h e.symm
      simp only [List.map_cons, if_pos hx, List.find?_cons, h1, h2]
      exact find?_map_upd_other f hf h t
    · simp only [List.map_cons, if_neg hx, List.find?_cons]
      rw [find?_map_upd_other f hf h t]

theorem State.block?_bid {s : State} {bid : Nat} {b : Block} (h : s.block? bid = some b) : b.bid = bid := by
  have := List.find?_some h; simpa using this

theorem State.block?_updBlock_same {s : State} {bid : Nat} {b : Block} (f : Block → Block) (hf : ∀ x, (f x).bid = x.bid)
    (h : s.block? bid = some b) : (s.updBlock bid f).block? bid = some (f b) :=
  find?_map_upd f hf (State.block?_bid h) s.blocks h

theorem State.block?_updBlock_other {s : State} {bid bid' : Nat} (f : Block → Block) (hf : ∀ x, (f x).bid = x.bid) (h : bid' ≠ bid) :
    (s.updBlock bid f).block? bid' = s.block? bid' := find?_map_upd_other f hf h s.blocks

theorem State.block?_updWarp_same {s : State} {bid wi : Nat} {b : Block} (f : Warp → Warp) (h : s.block? bid = some b) :
    (s.updWarp bid wi f).block? bid = some { b with warps := b.warps.modify wi f } :=
  State.block?_updBlock_same (fun b => { b with warps := b.warps.modify wi f }) (fun _ => rfl) h

theorem State.block?_updWarp_other {s : State} {bid bid' wi : Nat} (f : Warp → Warp) (h : bid' ≠ bid) :
    (s.updWarp bid wi f).block? bid' = s.block? bid' :=
  State.block?_updBlock_other (fun b => { b with warps := b.warps.modify wi f }) (fun _ => rfl) h

end Sys2Proof.Machine
end

