-- ==== Sys2Proof/Laws/OneWarp.lean ====
section
/-!
SUPPORT. Steps that change one warp only: how such changes follow one another, what the beginning of an issue changes, and the path's
advance.
-/

namespace Sys2Proof.Machine

theorem OnlyWarp.refl {s : State} {r : PathRef} {b : Block} {w : Warp} (hb : s.block? r.bid = some b) (hw : b.warps[r.wi]? = some w) :
    OnlyWarp s s r b w where
  block := by
    rw [hb]
    have : b.warps.set r.wi w = b.warps := by
      apply List.ext_getElem?
      intro i
      by_cases h : r.wi = i
      · subst h
        have hl : r.wi < b.warps.length := (List.getElem?_eq_some_iff.mp hw).1
        rw [List.getElem?_set_self hl, hw]
      · rw [List.getElem?_set_ne h]
    rw [this]
  others := fun _ _ => rfl
  cores := fun _ => rfl
  rest := rfl

theorem OnlyWarp.updWarp {s t : State} {r : PathRef} {b : Block} {w w1 : Warp} (hw : b.warps[r.wi]? = some w)
    (h : OnlyWarp s t r b w1) (f : Warp → Warp) : OnlyWarp s (t.updWarp r.bid r.wi f) r b (f w1) where
  block := by
    rw [State.block?_updWarp_same f h.block]
    congr 2
    have hl : r.wi < b.warps.length := (List.getElem?_eq_some_iff.mp hw).1
    apply List.ext_getElem?
    intro i
    by_cases hi : r.wi = i
    · subst hi; simp [hl]
    · simp [hi]
  others := fun bid hne => by rw [State.block?_updWarp_other f hne]; exact h.others bid hne
  cores := h.cores
  rest := by
    have := h.rest
    rw [this]; rfl

theorem OnlyWarp.perfAdd {s t : State} {r : PathRef} {b : Block} {w : Warp} (h : OnlyWarp s t r b w) (ck ev n : Nat) (p sec : Bool) :
    OnlyWarp s (Machine.perfAdd t ck ev n p sec) r b w := by
  unfold Machine.perfAdd
  split
  · exact h
  · refine ⟨h.block, h.others, fun c => ?_, ?_⟩
    · rw [← h.cores c]
      by_cases hc : c = ck
      · subst hc; simp [State.core, State.updCore]
      · simp [State.core, State.updCore, hc]
    · have := h.rest
      rw [this]; rfl

theorem OnlyWarp.undefL {s t : State} {r : PathRef} {b : Block} {w w1 : Warp} (hw : b.warps[r.wi]? = some w) (h : OnlyWarp s t r b w1) :
    ∃ l', OnlyWarp s (t.undefL r.bid r.wi) r b { w1 with l := l' } := by
  refine ⟨(t.freeLanes).1, ?_⟩
  have h' : OnlyWarp s (t.freeLanes).2 r b w1 := ⟨h.block, h.others, h.cores, by rw [h.rest]; rfl⟩
  exact h'.updWarp hw (fun w => { w with l := (t.freeLanes).1 })

/-! Aging changes a slot's age alone. -/

theorem Slot.older_live (sl : Slot) : sl.older.live = sl.live := by unfold Slot.older; split <;> rfl
theorem Slot.older_path (sl : Slot) : sl.older.path = sl.path := by unfold Slot.older; split <;> rfl
theorem Slot.older_susp (sl : Slot) : sl.older.susp = sl.susp := by unfold Slot.older; split <;> rfl
theorem Slot.older_reach (sl : Slot) : sl.older.reach = sl.reach := by unfold Slot.older; split <;> rfl
theorem Slot.older_wait (sl : Slot) : sl.older.wait = sl.wait := by unfold Slot.older; split <;> rfl

/-- A warp counts an instruction of `len` bytes. -/
def countedWarp (w : Warp) (len : Nat) : Warp :=
  { w with rotation := w.rotation + 1, progress := w.progress + len, slots := w.slots.map Slot.older }

/-- A warp whose slot `k` uses up its place in a reach and its prefix; the lanes `m` are no longer those of a fresh warp. -/
def usedWarp (w : Warp) (k : Nat) (m : Word) : Warp :=
  { w with lastSlot := k, freshLanes := w.freshLanes &&& ~~~m, slots := w.slots.modify k (fun sl =>
      { sl with reach := if reachCount sl.reach = 0 then sl.reach else reachNext sl.reach, ordPfx := none, wait := .ready }) }

/-- The warp as the effect sees it: counted, the prefix and the place in a reach used up. -/
def begunWarp (w : Warp) (k len : Nat) (m : Word) (l' : List Word) : Warp := usedWarp { countedWarp w len with l := l' } k m

theorem countIssue_eq (c : Ctx) (s : State) :
    countIssue c s = perfAdd (s.updWarp c.ref.bid c.ref.wi (fun w => countedWarp w c.len)) c.blk.core 2 1 c.warp.priv c.warp.secure :=
  rfl

theorem beginIssue_same {c : Ctx} (h : c.warp.lastSlot = c.ref.slot) (s : State) :
    beginIssue c s = (countIssue c s).updWarp c.ref.bid c.ref.wi (fun w => usedWarp w c.ref.slot c.slot.path.mask) := by
  unfold beginIssue; simp only [if_pos h]; rfl

theorem beginIssue_switch {c : Ctx} (h : ¬c.warp.lastSlot = c.ref.slot) (s : State) :
    beginIssue c s = ((countIssue c s).undefL c.ref.bid c.ref.wi).updWarp c.ref.bid c.ref.wi (fun w => usedWarp w c.ref.slot c.slot.path.mask) := by
  unfold beginIssue; simp only [if_neg h]; rfl

theorem begin_only {c : Ctx} {s : State} {b : Block} {w : Warp} (hb : s.block? c.ref.bid = some b) (hw : b.warps[c.ref.wi]? = some w)
    (hc : c.warp = w) :
    ∃ l', (w.lastSlot = c.ref.slot → l' = w.l) ∧ OnlyWarp s (beginIssue c s) c.ref b (begunWarp w c.ref.slot c.len c.slot.path.mask l') := by
  have h1 := ((OnlyWarp.refl hb hw).updWarp hw (fun w => countedWarp w c.len)).perfAdd c.blk.core 2 1 c.warp.priv c.warp.secure
  by_cases hs : w.lastSlot = c.ref.slot
  · refine ⟨w.l, fun _ => rfl, ?_⟩
    rw [beginIssue_same (hc ▸ hs), countIssue_eq]
    exact h1.updWarp hw (fun w => usedWarp w c.ref.slot c.slot.path.mask)
  · obtain ⟨l', h1'⟩ := h1.undefL hw
    refine ⟨l', fun e => absurd e hs, ?_⟩
    rw [beginIssue_switch (hc ▸ hs), countIssue_eq]
    exact h1'.updWarp hw (fun w => usedWarp w c.ref.slot c.slot.path.mask)

/-- A warp whose path in slot `k` goes on at the instruction after `pc`, with the loop end step. -/
def advancedWarp (w : Warp) (k : Nat) (next : DWord) : Warp :=
  { (loopEnd 3 w next).2 with slots := (loopEnd 3 w next).2.slots.modify k (fun sl => { sl with path := { sl.path with pc := (loopEnd 3 w next).1 } }) }

theorem advance_eq (c : Ctx) (s : State) :
    advance c s = s.updWarp c.ref.bid c.ref.wi (fun w => advancedWarp w c.ref.slot (c.pc + BitVec.ofNat 64 c.len)) := rfl

/-- One loop end step, by the innermost level. -/
theorem loopEnd_step (n : Nat) (w : Warp) (next : DWord) (lv : Level) (rest : List Level) (hl : w.levels = lv :: rest) :
    loopEnd (n + 1) w next =
      if next = lv.stop then
        (if (if lv.lc then w.lc1 else w.lc0).toNat ≤ 1 then
           loopEnd n (if lv.lc then { w with levels := rest, lc1 := 0 } else { w with levels := rest, lc0 := 0 }) next
         else (lv.start, if lv.lc then { w with lc1 := w.lc1 - 1 } else { w with lc0 := w.lc0 - 1 }))
      else (next, w) := by
  conv => lhs; unfold loopEnd
  rw [hl]
  cases h : lv.lc <;> simp [h, hl]

theorem loopEnd_flat (n : Nat) (w : Warp) (next : DWord) (hl : w.levels = []) : loopEnd n w next = (next, w) := by
  cases n with
  | zero => rfl
  | succ n => unfold loopEnd; rw [hl]

/-- The loop end step looks at the levels and the loop counters alone. -/
theorem loopEnd_congr : ∀ (n : Nat) (w w' : Warp) (next : DWord), w'.levels = w.levels → w'.lc0 = w.lc0 → w'.lc1 = w.lc1 →
    (loopEnd n w' next).1 = (loopEnd n w next).1 ∧ (loopEnd n w' next).2.levels = (loopEnd n w next).2.levels ∧
    (loopEnd n w' next).2.lc0 = (loopEnd n w next).2.lc0 ∧ (loopEnd n w' next).2.lc1 = (loopEnd n w next).2.lc1
  | 0, w, w', next, h1, h2, h3 => ⟨rfl, h1, h2, h3⟩
  | n + 1, w, w', next, h1, h2, h3 => by
    cases hl : w.levels with
    | nil => rw [loopEnd_flat _ _ _ hl, loopEnd_flat _ _ _ (h1.trans hl)]; exact ⟨rfl, h1, h2, h3⟩
    | cons lv rest =>
      rw [loopEnd_step n w next lv rest hl, loopEnd_step n w' next lv rest (h1.trans hl), h2, h3]
      by_cases hs : next = lv.stop
      · rw [if_pos hs, if_pos hs]
        by_cases hc : (if lv.lc then w.lc1 else w.lc0).toNat ≤ 1
        · rw [if_pos hc, if_pos hc]
          apply loopEnd_congr n
          · cases lv.lc <;> rfl
          · cases lv.lc <;> rfl
          · cases lv.lc <;> rfl
        · rw [if_neg hc, if_neg hc]
          refine ⟨rfl, ?_, ?_, ?_⟩
          · cases lv.lc <;> exact h1
          · cases lv.lc <;> rfl
          · cases lv.lc <;> rfl
      · rw [if_neg hs, if_neg hs]; exact ⟨rfl, h1, h2, h3⟩

/-- The loop end step changes the levels and the loop counters alone. -/
theorem loopEnd_rest : ∀ (n : Nat) (w : Warp) (next : DWord),
    ∃ lv c0 c1, (loopEnd n w next).2 = { w with levels := lv, lc0 := c0, lc1 := c1 }
  | 0, w, next => ⟨w.levels, w.lc0, w.lc1, rfl⟩
  | n + 1, w, next => by
    cases hl : w.levels with
    | nil => exact ⟨w.levels, w.lc0, w.lc1, by rw [loopEnd_flat _ _ _ hl]⟩
    | cons lv rest =>
      rw [loopEnd_step n w next lv rest hl]
      by_cases hs : next = lv.stop
      · rw [if_pos hs]
        by_cases hc : (if lv.lc then w.lc1 else w.lc0).toNat ≤ 1
        · rw [if_pos hc]
          cases hb : lv.lc
          · obtain ⟨a, b, c, e⟩ := loopEnd_rest n { w with levels := rest, lc0 := 0 } next
            exact ⟨a, b, c, e⟩
          · obtain ⟨a, b, c, e⟩ := loopEnd_rest n { w with levels := rest, lc1 := 0 } next
            exact ⟨a, b, c, e⟩
        · rw [if_neg hc]
          cases hb : lv.lc
          · exact ⟨w.levels, w.lc0 - 1, w.lc1, rfl⟩
          · exact ⟨w.levels, w.lc0, w.lc1 - 1, rfl⟩
      · rw [if_neg hs]; exact ⟨w.levels, w.lc0, w.lc1, rfl⟩

/-- A warp that differs from another in its registers, predicates, l, empty bits and special registers alone. -/
def DataOnly (w w' : Warp) : Prop :=
  w' = { w with v := w'.v, o := w'.o, k := w'.k, h := w'.h, p := w'.p, l := w'.l, empty := w'.empty, csr := w'.csr }

theorem DataOnly.refl (w : Warp) : DataOnly w w := rfl

theorem DataOnly.trans {w w1 w2 : Warp} (h1 : DataOnly w w1) (h2 : DataOnly w1 w2) : DataOnly w w2 := by
  unfold DataOnly at *
  rw [h2, h1]

/-- An effect that changes data alone, followed by the advance: the path went on. -/
theorem wentOn_of {w w2 : Warp} {k len : Nat} {l' : List Word} {sl : Slot} (hs : w.slots[k]? = some sl)
    (h2 : DataOnly (begunWarp w k len sl.path.mask l') w2) : WentOn w (advancedWarp w2 k (sl.path.pc + BitVec.ofNat 64 len)) k sl len := by
  have hsl : w2.slots = (begunWarp w k len sl.path.mask l').slots := by rw [h2]
  have hlv : w2.levels = w.levels := by rw [h2]; rfl
  have hc0 : w2.lc0 = w.lc0 := by rw [h2]; rfl
  have hc1 : w2.lc1 = w.lc1 := by rw [h2]; rfl
  obtain ⟨e1, e2, e3, e4⟩ := loopEnd_congr 3 w w2 (sl.path.pc + BitVec.ofNat 64 len) hlv hc0 hc1
  obtain ⟨a, b, c, er⟩ := loopEnd_rest 3 w2 (sl.path.pc + BitVec.ofNat 64 len)
  have hslots : (advancedWarp w2 k (sl.path.pc + BitVec.ofNat 64 len)).slots = w2.slots.modify k (fun x =>
      { x with path := { x.path with pc := (loopEnd 3 w (sl.path.pc + BitVec.ofNat 64 len)).1 } }) := by
    simp only [advancedWarp, e1]; rw [er]
  refine ⟨?_, ?_, ?_, ?_, ?_⟩
  · refine ⟨{ sl.older with reach := if reachCount sl.reach = 0 then sl.reach else reachNext sl.reach, ordPfx := none,
                            wait := .ready,
                            path := { sl.path with pc := (loopEnd 3 w (sl.path.pc + BitVec.ofNat 64 len)).1 } },
      ?_, Slot.older_live sl, rfl, rfl, rfl, Slot.older_susp sl, rfl⟩
    rw [hslots, hsl]
    simp only [begunWarp, usedWarp, countedWarp, List.getElem?_modify_eq, List.getElem?_map, hs, Option.map_eq_map, Option.map_some,
      Slot.older_path, Slot.older_reach]
  · intro j hj
    have hj' : k ≠ j := fun e => hj e.symm
    rw [hslots, hsl]
    simp only [begunWarp, usedWarp, countedWarp, List.getElem?_modify, List.getElem?_map, hj', if_false]
    cases w.slots[j]? <;> rfl
  · exact ⟨e2, e3, e4⟩
  · simp only [advancedWarp]; rw [er, h2]; exact ⟨rfl, rfl, rfl, rfl⟩
  · simp only [advancedWarp]; rw [er, h2]; rfl

end Sys2Proof.Machine
end

