-- ==== Sys2Proof/Laws/Lanes.lean ====
section
/-!
SUPPORT. What a lane instruction does, said once: writing a destination, raising flags, and the whole issue of a lane operation.
-/

namespace Sys2Proof.Machine

theorem getD_lanes32 {α : Type} (g : Nat → α) (d : α) {i : Nat} (h : i < 32) : (lanes32.map g).getD i d = g i := by
  simp [lanes32, List.getD_eq_getElem?_getD, h]

theorem putLanes_getD {α : Type} (m : Word) (old new : Nat → α) (d : α) {i : Nat} (h : i < 32) :
    (putLanes m old new).getD i d = if m.getLsbD i then new i else old i := getD_lanes32 _ d h

theorem splat_getD {α : Type} (x : α) (i : Nat) : (splat x).getD i x = x := by
  simp only [splat, List.getD_eq_getElem?_getD, List.getElem?_replicate]
  split <;> rfl

/-- The mask of a list of lanes holds exactly those below 32. -/
theorem maskOf_getLsbD (p : Nat → Bool) {i : Nat} (h : i < 32) : (maskOf (lanes32.filter p)).getLsbD i = p i := by
  have key : ∀ (l : List Nat) (m : Word), (∀ j ∈ l, j < 32) →
      (l.foldl (fun m i => m ||| (1#32 <<< i)) m).getLsbD i = (m.getLsbD i || decide (i ∈ l)) := by
    intro l
    induction l with
    | nil => intro m _; simp
    | cons a t ih =>
      intro m hl
      have ha : a < 32 := hl a (by simp)
      rw [List.foldl_cons, ih _ (fun j hj => hl j (by simp [hj]))]
      have e : (1#32 <<< a).getLsbD i = decide (i = a) := by
        rw [BitVec.getLsbD_shiftLeft, BitVec.getLsbD_one]
        by_cases hia : i = a
        · subst hia; simp [h]
        · by_cases hlt : i < a
          · simp [hlt, hia]
          · have h1 : ¬ (i - a = 0) := by omega
            simp [hia, h1]
      rw [BitVec.getLsbD_or, e]; simp [Bool.or_assoc, Bool.decide_or]
  rw [maskOf, key _ 0 (by intro j hj; simp [lanes32] at hj; exact hj.1)]
  simp [lanes32, h]

/-! ### Writing a destination -/

/-- The destinations of lane instructions: a v or o register, a predicate, zero. -/
def Opd.laneDst : Opd → Bool
  | .v _ | .o _ | .p _ | .zero => true
  | _ => false

theorem put32_v (w : Warp) (q : Nat) (m : Word) (f : Nat → Word) :
    w.put32 (.v q) m f = { w with v := w.v.set q (putLanes m (w.vLane q) f) } := rfl

theorem vLane_put (w : Warp) (q j i : Nat) (m : Word) (f : Nat → Word) (h : i < 32) :
    (w.put32 (.v q) m f).vLane j i = if j = q then (if m.getLsbD i then f i else w.vLane q i) else w.vLane j i := by
  simp only [Warp.vLane, put32_v, Tab.get_set]
  split
  · rw [putLanes_getD _ _ _ _ h]; rfl
  · rfl

theorem oLane_put (w : Warp) (q j i : Nat) (m : Word) (f : Nat → Word) (h : i < 32) :
    (w.put32 (.o q) m f).oLane j i = if j = q then (if m.getLsbD i then f i else w.oLane q i) else w.oLane j i := by
  simp only [Warp.oLane, Warp.put32, Tab.get_set]
  split
  · rw [putLanes_getD _ _ _ _ h]; rfl
  · rfl

theorem low32 (x : BitVec 128) : (x.extractLsb' 0 32) = (x.setWidth 64).setWidth 32 := by
  ext i hi
  simp only [BitVec.getElem_extractLsb', BitVec.getElem_setWidth, BitVec.getLsbD_setWidth, Nat.zero_add]
  have : i < 64 := by omega
  simp [this]

theorem high32 (x : BitVec 128) : x.extractLsb' 32 32 ++ x.extractLsb' 0 32 = x.setWidth 64 := by
  ext i hi
  simp only [BitVec.getElem_append, BitVec.getElem_extractLsb', BitVec.getElem_setWidth]
  split
  · simp
  · congr 1; omega

/-- A destination written: the lanes of the mask hold the value, the others what they held. -/
theorem putN_dst (w : Warp) (d : Opd) (n : Nat) (hd : d.laneDst = true) (hz : d ≠ .zero) (hn : n = 1 ∨ n = 2) (m : Word)
    (f : Nat → BitVec 128) {i : Nat} (h : i < 32) :
    (w.putN d n m f).dstLane d n i = if m.getLsbD i then asHeld d n ((f i).setWidth 64) else w.dstLane d n i := by
  cases d with
  | v q =>
    rcases hn with rfl | rfl
    · simp only [Warp.putN, List.range_one, List.foldl_cons, List.foldl_nil, if_true, Warp.dstLane, asHeld, vLane_put w q q i m _ h, Nat.mul_zero, low32]
      split <;> rfl
    · have e2 : List.range 2 = [0, 1] := rfl
      have n1 : ¬ (q + 1 = q) := by omega
      have n2 : ¬ (q = q + 1) := by omega
      simp only [Warp.putN, e2, List.foldl_cons, List.foldl_nil, if_true, Warp.dstLane, asHeld, show ¬ (1 = 0) by omega, if_false, Opd.next,
        vLane_put _ (q + 1) _ i m _ h, vLane_put w q _ i m _ h, show ¬ (2 = 1) by omega, n1, n2, Nat.mul_zero, Nat.mul_one]
      split
      · exact high32 (f i)
      · rfl
  | o q =>
    rcases hn with rfl | rfl
    · simp only [Warp.putN, List.range_one, List.foldl_cons, List.foldl_nil, if_true, Warp.dstLane, asHeld, oLane_put w q q i m _ h, Nat.mul_zero, low32]
      split <;> rfl
    · have e2 : List.range 2 = [0, 1] := rfl
      have n1 : ¬ (q + 1 = q) := by omega
      have n2 : ¬ (q = q + 1) := by omega
      simp only [Warp.putN, e2, List.foldl_cons, List.foldl_nil, if_true, Warp.dstLane, asHeld, show ¬ (1 = 0) by omega, if_false, Opd.next,
        oLane_put _ (q + 1) _ i m _ h, oLane_put w q _ i m _ h, show ¬ (2 = 1) by omega, n1, n2, Nat.mul_zero, Nat.mul_one]
      split
      · exact high32 (f i)
      · rfl
  | p q =>
    simp only [Warp.putN, Warp.dstLane, asHeld, Warp.pReg, Tab.get_set_same, maskOf_getLsbD _ h]
    by_cases hm : m.getLsbD i
    · simp [hm]
    · simp [hm]; rfl
  | zero => exact absurd rfl hz
  | _ => simp [Opd.laneDst] at hd

theorem vLane_put_ne (w : Warp) {q j : Nat} (i : Nat) (m : Word) (f : Nat → Word) (h : j ≠ q) :
    (w.put32 (.v q) m f).vLane j i = w.vLane j i := by
  simp only [Warp.vLane, put32_v, Tab.get_set, if_neg h]

theorem oLane_put_ne (w : Warp) {q j : Nat} (i : Nat) (m : Word) (f : Nat → Word) (h : j ≠ q) :
    (w.put32 (.o q) m f).oLane j i = w.oLane j i := by
  simp only [Warp.oLane, Warp.put32, Tab.get_set, if_neg h]

/-- What writing a destination touches: one register file. -/
theorem putN_shape (w : Warp) (d : Opd) (n : Nat) (hd : d.laneDst = true) (hn : n = 1 ∨ n = 2) (m : Word) (f : Nat → BitVec 128) :
    ∃ v' o' p', w.putN d n m f = { w with v := v', o := o', p := p' } := by
  have e2 : List.range 2 = [0, 1] := rfl
  cases d with
  | v q => rcases hn with rfl | rfl
           · exact ⟨_, w.o, w.p, rfl⟩
           · exact ⟨_, w.o, w.p, rfl⟩
  | o q => rcases hn with rfl | rfl
           · exact ⟨w.v, _, w.p, rfl⟩
           · exact ⟨w.v, _, w.p, rfl⟩
  | p q => exact ⟨w.v, w.o, _, rfl⟩
  | zero => rcases hn with rfl | rfl <;> exact ⟨w.v, w.o, w.p, rfl⟩
  | _ => simp [Opd.laneDst] at hd

/-- Writing a destination leaves the other registers. -/
theorem putN_regs (w : Warp) (d : Opd) (n : Nat) (hd : d.laneDst = true) (hn : n = 1 ∨ n = 2) (m : Word) (f : Nat → BitVec 128)
    (x : Reg) (hx : x ∉ regsOf d n) (i : Nat) : (w.putN d n m f).regLane x i = w.regLane x i := by
  have e2 : List.range 2 = [0, 1] := rfl
  cases d with
  | v q =>
    rcases hn with rfl | rfl
    · cases x with
      | v j =>
        have : j ≠ q := by intro e; subst e; simp [regsOf] at hx
        simp only [Warp.regLane, Warp.putN, List.range_one, List.foldl_cons, List.foldl_nil, if_true, vLane_put_ne w i m _ this]
      | _ => rfl
    · cases x with
      | v j =>
        have h1 : j ≠ q := by intro e; subst e; simp [regsOf, e2] at hx
        have h2 : j ≠ q + 1 := by intro e; subst e; simp [regsOf, e2] at hx
        simp only [Warp.regLane, Warp.putN, e2, List.foldl_cons, List.foldl_nil, if_true, show ¬ (1 = 0) by omega, if_false, Opd.next,
          vLane_put_ne _ i m _ h2, vLane_put_ne w i m _ h1]
      | _ => rfl
  | o q =>
    rcases hn with rfl | rfl
    · cases x with
      | o j =>
        have : j ≠ q := by intro e; subst e; simp [regsOf] at hx
        simp only [Warp.regLane, Warp.putN, List.range_one, List.foldl_cons, List.foldl_nil, if_true, oLane_put_ne w i m _ this]
      | _ => rfl
    · cases x with
      | o j =>
        have h1 : j ≠ q := by intro e; subst e; simp [regsOf, e2] at hx
        have h2 : j ≠ q + 1 := by intro e; subst e; simp [regsOf, e2] at hx
        simp only [Warp.regLane, Warp.putN, e2, List.foldl_cons, List.foldl_nil, if_true, show ¬ (1 = 0) by omega, if_false, Opd.next,
          oLane_put_ne _ i m _ h2, oLane_put_ne w i m _ h1]
      | _ => rfl
  | p q => cases x <;> rfl
  | zero => rcases hn with rfl | rfl <;> (cases x <;> rfl)
  | _ => simp [Opd.laneDst] at hd

/-- Writing a destination leaves the other predicates. -/
theorem putN_preds (w : Warp) (d : Opd) (n : Nat) (hd : d.laneDst = true) (hn : n = 1 ∨ n = 2) (m : Word) (f : Nat → BitVec 128)
    (q : Nat) (hq : d ≠ .p q) : (w.putN d n m f).pReg q = w.pReg q := by
  cases d with
  | p j =>
    have : q ≠ j := by intro e; subst e; exact hq rfl
    simp only [Warp.putN, Warp.pReg, Tab.get_set, if_neg this]
  | v j => rcases hn with rfl | rfl <;> rfl
  | o j => rcases hn with rfl | rfl <;> rfl
  | zero => rcases hn with rfl | rfl <;> rfl
  | _ => simp [Opd.laneDst] at hd

/-- Marking registers full changes nothing when none of them is empty. -/
theorem markFull_empty (w : Warp) (rs : List Reg) (h : ∀ x ∈ rs, w.isEmpty x = false) (y : Reg) : (w.markFull rs).isEmpty y = w.isEmpty y := by
  simp only [Warp.isEmpty, Warp.markFull, List.contains_eq_mem, List.mem_filter]
  by_cases hy : y ∈ rs
  · have := h y hy
    simp only [Warp.isEmpty, List.contains_eq_mem, decide_eq_false_iff_not] at this
    simp [this]
  · simp [hy]

theorem OnlyWarp.raiseFlags {s t : State} {b : Block} {w w1 : Warp} {c : Ctx} (hw : b.warps[c.ref.wi]? = some w)
    (h : OnlyWarp s t c.ref b w1) (fl : Word) : OnlyWarp s (Machine.raiseFlags c fl t) c.ref b (w1.setFlags fl) := by
  unfold Machine.raiseFlags
  split
  · rename_i h0; subst h0
    have : w1.setFlags 0 = w1 := by simp [Warp.setFlags]
    rw [this]; exact h
  · exact h.updWarp hw (fun w => w.setFlags fl)

/-! ### The whole issue of a lane operation -/

theorem opLane_eq (s : State) (op : LaneOp) (x : Opnds) (i : Instr) (ops : Ops) (r : PathRef) (b : Block) (w : Warp) (sl : Slot) (j : Nat) :
    laneValue op x (ctxAt s i ops r b w sl) j = opLane op x b (seenWarp s w r.slot) r.wi j := rfl

theorem opFlags_eq (s : State) (op : LaneOp) (x : Opnds) (i : Instr) (ops : Ops) (r : PathRef) (b : Block) (w : Warp) (sl : Slot) :
    laneFlags op x (ctxAt s i ops r b w sl) = opFlags op x b (seenWarp s w r.slot) r.wi (effMask w sl) := rfl

/-- The data part of an effect on its warp: what the final warp shows is what was written. -/
structure ValueData (d : Opd) (n : Nat) (m : Word) (val : Nat → DWord) (fl : Word) (w1 w2 : Warp) : Prop where
  data : DataOnly w1 w2
  value : d ≠ .zero → ∀ i < 32, w2.dstLane d n i = if m.getLsbD i then asHeld d n (val i) else w1.dstLane d n i
  regs : ∀ y, y ∉ regsOf d n → ∀ i, w2.regLane y i = w1.regLane y i
  full : ∀ y, w2.isEmpty y = w1.isEmpty y
  preds : ∀ q, d ≠ .p q → w2.pReg q = w1.pReg q
  flags : w2.csr = { w1.csr with fpmode := w1.csr.fpmode ||| (fl &&& 0xFF) }
  latest : d.isPred = false → n = 1 → ∀ i < 32, m.getLsbD i = true → lane w2.l i = (val i).setWidth 32
  kept : d.isPred = true ∨ m = 0 → w2.l = w1.l

theorem setWidth_back (v : DWord) : (v.setWidth 128).setWidth 64 = v := by
  ext i hi
  simp only [BitVec.getElem_setWidth, BitVec.getLsbD_setWidth]
  have : i < 128 := by omega
  simp [this, BitVec.getLsbD_eq_getElem hi]

theorem setWidth_low (v : DWord) : (v.setWidth 128).setWidth 32 = v.setWidth 32 := by
  ext i hi
  simp only [BitVec.getElem_setWidth, BitVec.getLsbD_setWidth]
  have : i < 128 := by omega
  simp [this]

theorem laneDst_of_role {N n : Nat} {op : LaneOp} {d : Opd} (h : roleOk N (if op.dPred then .pred else .vdst) n d = true) : d.laneDst = true := by
  cases hp : op.dPred <;> rw [hp] at h <;> cases d <;> first | rfl | exact Bool.noConfusion (show false = true from h)

theorem dstLane_markFull (w : Warp) (rs : List Reg) (d : Opd) (n i : Nat) : (w.markFull rs).dstLane d n i = w.dstLane d n i := by
  cases d <;> rfl
theorem regLane_markFull (w : Warp) (rs : List Reg) (y : Reg) (i : Nat) : (w.markFull rs).regLane y i = w.regLane y i := by
  cases y <;> rfl
theorem dstLane_setFlags (w : Warp) (fl : Word) (d : Opd) (n i : Nat) : (w.setFlags fl).dstLane d n i = w.dstLane d n i := by
  cases d <;> rfl
theorem regLane_setFlags (w : Warp) (fl : Word) (y : Reg) (i : Nat) : (w.setFlags fl).regLane y i = w.regLane y i := by
  cases y <;> rfl
theorem dstLane_l (w : Warp) (l' : List Word) (d : Opd) (n i : Nat) : ({ w with l := l' } : Warp).dstLane d n i = w.dstLane d n i := by
  cases d <;> rfl
theorem regLane_l (w : Warp) (l' : List Word) (y : Reg) (i : Nat) : ({ w with l := l' } : Warp).regLane y i = w.regLane y i := by
  cases y <;> rfl

/-- A destination written and marked full. -/
def Warp.write (w : Warp) (d : Opd) (n : Nat) (m : Word) (f : Nat → BitVec 128) : Warp := (w.putN d n m f).markFull (regsOf d n)

theorem write_shape (w : Warp) (d : Opd) (n : Nat) (hd : d.laneDst = true) (hn : n = 1 ∨ n = 2) (m : Word) (f : Nat → BitVec 128) :
    ∃ v' o' p' e', w.write d n m f = { w with v := v', o := o', p := p', empty := e' } := by
  obtain ⟨v', o', p', e⟩ := putN_shape w d n hd hn m f
  refine ⟨v', o', p', w.empty.filter (fun y => !(regsOf d n).contains y), ?_⟩
  unfold Warp.write
  rw [e]
  rfl

theorem write_empty (w : Warp) (d : Opd) (n : Nat) (hd : d.laneDst = true) (hn : n = 1 ∨ n = 2) (m : Word) (f : Nat → BitVec 128)
    (h : ∀ y ∈ regsOf d n, w.isEmpty y = false) (y : Reg) : (w.write d n m f).isEmpty y = w.isEmpty y := by
  obtain ⟨v', o', p', e⟩ := putN_shape w d n hd hn m f
  have hh : ∀ z ∈ regsOf d n, (w.putN d n m f).isEmpty z = false := by
    intro z hz
    have := h z hz
    rw [e]; exact this
  unfold Warp.write
  rw [markFull_empty _ _ hh y, e]
  rfl

/-- A predicate written after flags were raised. -/
theorem writePred_data {c : Ctx} {s t : State} {b : Block} {w w1 : Warp} (hw : b.warps[c.ref.wi]? = some w) (ht : OnlyWarp s t c.ref b w1)
    (q : Nat) (g : Nat → Bool) (val : Nat → DWord) (hg : ∀ j, g j = (val j).getLsbD 0) (fl : Word) :
    ∃ w2, OnlyWarp s (writePred c (.p q) g (raiseFlags c fl t)) c.ref b w2 ∧ ValueData (.p q) 1 c.m val fl w1 w2 := by
  have hr := OnlyWarp.raiseFlags hw ht fl
  refine ⟨_, hr.updWarp hw (fun w' => w'.putN (.p q) 1 c.m (fun j => if g j then 1 else 0)), ?_⟩
  obtain ⟨v', o', p', e⟩ := putN_shape (w1.setFlags fl) (.p q) 1 rfl (.inl rfl) c.m (fun j => if g j then 1 else 0)
  refine ⟨?_, ?_, ?_, ?_, ?_, ?_, ?_, ?_⟩
  · rw [e]; rfl
  · intro hz j hj
    rw [putN_dst _ _ _ rfl hz (.inl rfl) _ _ hj, dstLane_setFlags]
    split
    · simp only [asHeld, hg]
      cases (val j).getLsbD 0 <;> rfl
    · rfl
  · intro y hy j
    rw [putN_regs _ _ _ rfl (.inl rfl) _ _ y hy j, regLane_setFlags]
  · intro y; rw [e]; rfl
  · intro q' hq'
    rw [putN_preds _ _ _ rfl (.inl rfl) _ _ q' hq']; rfl
  · rw [e]; rfl
  · intro hpf; exact Bool.noConfusion (show true = false from hpf)
  · intro _; rw [e]; rfl

/-- A lane result written after flags were raised. -/
theorem writeLanes_data {c : Ctx} {s t : State} {b : Block} {w w1 : Warp} (hw : b.warps[c.ref.wi]? = some w) (ht : OnlyWarp s t c.ref b w1)
    {d : Opd} {n : Nat} (hn : n = 1 ∨ n = 2) (hd : d.laneDst = true) (hq : d.isPred = false)
    (hfull : ∀ y ∈ regsOf d n, w1.isEmpty y = false) (f : Nat → BitVec 128) (val : Nat → DWord) (hf : ∀ j, f j = (val j).setWidth 128) (fl : Word) :
    ∃ w2, OnlyWarp s (writeLanes c d n f (raiseFlags c fl t)) c.ref b w2 ∧ ValueData d n c.m val fl w1 w2 := by
  have hr := OnlyWarp.raiseFlags hw ht fl
  by_cases hm : c.m = 0
  · refine ⟨w1.setFlags fl, ?_, ?_⟩
    · have : writeLanes c d n f (raiseFlags c fl t) = raiseFlags c fl t := by
        unfold writeLanes; rw [if_pos hm]
      rw [this]; exact hr
    · refine ⟨rfl, ?_, ?_, fun _ => rfl, fun _ _ => rfl, rfl, ?_, fun _ => rfl⟩
      · intro _ j _
        rw [hm, dstLane_setFlags, show (0 : Word).getLsbD j = false from BitVec.getLsbD_zero]; rfl
      · intro y _ j; rw [regLane_setFlags]
      · intro _ _ j _ hj; rw [hm, show (0 : Word).getLsbD j = false from BitVec.getLsbD_zero] at hj; exact absurd hj (by decide)
  · have ha : OnlyWarp s ((raiseFlags c fl t).updWarp c.ref.bid c.ref.wi (fun w' => w'.write d n c.m f)) c.ref b
        ((w1.setFlags fl).write d n c.m f) := hr.updWarp hw _
    obtain ⟨v', o', p', e', e⟩ := write_shape (w1.setFlags fl) d n hd hn c.m f
    have hval : d ≠ .zero → ∀ j < 32, ((w1.setFlags fl).write d n c.m f).dstLane d n j =
        if c.m.getLsbD j then asHeld d n (val j) else w1.dstLane d n j := by
      intro hz j hj
      unfold Warp.write
      rw [dstLane_markFull, putN_dst _ _ _ hd hz hn _ _ hj, dstLane_setFlags, hf, setWidth_back]
    have hregs : ∀ y, y ∉ regsOf d n → ∀ j, ((w1.setFlags fl).write d n c.m f).regLane y j = w1.regLane y j := by
      intro y hy j
      unfold Warp.write
      rw [regLane_markFull, putN_regs _ _ _ hd hn _ _ y hy j, regLane_setFlags]
    have hpreds : ∀ q, d ≠ .p q → ((w1.setFlags fl).write d n c.m f).pReg q = w1.pReg q := by
      intro q hq
      have h1 : ((w1.setFlags fl).write d n c.m f).pReg q = ((w1.setFlags fl).putN d n c.m f).pReg q := rfl
      rw [h1, putN_preds _ _ _ hd hn _ _ q hq]; rfl
    have hfl' : ∀ y, ((w1.setFlags fl).write d n c.m f).isEmpty y = w1.isEmpty y :=
      fun y => write_empty (w1.setFlags fl) d n hd hn c.m f (fun z hz => hfull z hz) y
    generalize (w1.setFlags fl).write d n c.m f = wa at ha e hval hregs hpreds hfl'
    have hcsr : wa.csr = { w1.csr with fpmode := w1.csr.fpmode ||| (fl &&& 0xFF) } := by rw [e]; rfl
    have hdat : DataOnly w1 wa := by rw [e]; rfl
    by_cases h1 : n = 1
    · refine ⟨wa.putL c.m (fun j => (f j).setWidth 32), ?_, ?_⟩
      · have : writeLanes c d n f (raiseFlags c fl t) =
            ((raiseFlags c fl t).updWarp c.ref.bid c.ref.wi (fun w' => w'.write d n c.m f)).updWarp c.ref.bid c.ref.wi
              (fun w' => w'.putL c.m (fun j => (f j).setWidth 32)) := by
          unfold writeLanes
          rw [if_neg hm]
          simp only [if_pos h1]
          rfl
        rw [this]
        exact ha.updWarp hw (fun w' => w'.putL c.m (fun j => (f j).setWidth 32))
      · refine ⟨hdat.trans rfl, ?_, ?_, hfl', hpreds, ?_, ?_, ?_⟩
        · intro hz j hj
          rw [← hval hz j hj]; exact dstLane_l wa _ _ _ _
        · intro y hy j; rw [← hregs y hy j]; exact regLane_l wa _ _ _
        · exact hcsr
        · intro _ _ j hj hmj
          simp only [Warp.putL, lane]
          rw [putLanes_getD _ _ _ _ hj, if_pos hmj, hf, setWidth_low]
        · intro hk; rcases hk with hk | hk
          · rw [hq] at hk; exact absurd hk (by decide)
          · exact absurd hk hm
    · obtain ⟨l', hl'⟩ := ha.undefL hw
      refine ⟨{ wa with l := l' }, ?_, ?_⟩
      · have : writeLanes c d n f (raiseFlags c fl t) =
            ((raiseFlags c fl t).updWarp c.ref.bid c.ref.wi (fun w' => w'.write d n c.m f)).undefL c.ref.bid c.ref.wi := by
          unfold writeLanes
          rw [if_neg hm]
          simp only [if_neg h1]
          rfl
        rw [this]
        exact hl'
      · refine ⟨hdat.trans rfl, ?_, ?_, hfl', hpreds, ?_, ?_, ?_⟩
        · intro hz j hj
          rw [← hval hz j hj]; exact dstLane_l wa _ _ _ _
        · intro y hy j; rw [← hregs y hy j]; exact regLane_l wa _ _ _
        · exact hcsr
        · intro _ h2; exact absurd h2 h1
        · intro hk; rcases hk with hk | hk
          · rw [hq] at hk; exact absurd hk (by decide)
          · exact absurd hk hm

theorem isEmpty_of_empty {w w' : Warp} (h : w'.empty = w.empty) (y : Reg) : w'.isEmpty y = w.isEmpty y := by
  simp only [Warp.isEmpty, h]

theorem advanced_data (w : Warp) (k : Nat) (next : DWord) : ∃ sl lv c0 c1,
    advancedWarp w k next = { w with slots := sl, levels := lv, lc0 := c0, lc1 := c1 } := by
  obtain ⟨a, b, c, e⟩ := loopEnd_rest 3 w next
  refine ⟨(loopEnd 3 w next).2.slots.modify k (fun sl => { sl with path := { sl.path with pc := (loopEnd 3 w next).1 } }), a, b, c, ?_⟩
  unfold advancedWarp
  generalize (loopEnd 3 w next).2.slots.modify k _ = q
  rw [e]

theorem advanced_dstLane (w : Warp) (k : Nat) (next : DWord) (d : Opd) (n i : Nat) :
    (advancedWarp w k next).dstLane d n i = w.dstLane d n i := by
  obtain ⟨_, _, _, _, e⟩ := advanced_data w k next
  rw [e]; cases d <;> rfl

theorem advanced_regLane (w : Warp) (k : Nat) (next : DWord) (y : Reg) (i : Nat) : (advancedWarp w k next).regLane y i = w.regLane y i := by
  obtain ⟨_, _, _, _, e⟩ := advanced_data w k next
  rw [e]; cases y <;> rfl

theorem begun_dstLane (w : Warp) (k len : Nat) (m : Word) (l' : List Word) (d : Opd) (n i : Nat) :
    (begunWarp w k len m l').dstLane d n i = w.dstLane d n i := by cases d <;> rfl

theorem begun_regLane (w : Warp) (k len : Nat) (m : Word) (l' : List Word) (y : Reg) (i : Nat) :
    (begunWarp w k len m l').regLane y i = w.regLane y i := by cases y <;> rfl

/-- Data written, then the path's advance: the instruction is done. -/
theorem ValueData.done {d : Opd} {n : Nat} {m : Word} {val : Nat → DWord} {fl : Word} {w w2 : Warp} {l' : List Word} {r : PathRef} {sl : Slot}
    {len : Nat} (hs : w.slots[r.slot]? = some sl) (hl : w.lastSlot = r.slot → l' = w.l)
    (h : ValueData d n m val fl (begunWarp w r.slot len sl.path.mask l') w2) :
    ValueDone d n m val fl w (advancedWarp w2 r.slot (sl.path.pc + BitVec.ofNat 64 len)) r sl len := by
  obtain ⟨_, _, _, _, ea⟩ := advanced_data w2 r.slot (sl.path.pc + BitVec.ofNat 64 len)
  refine ⟨wentOn_of hs h.data, ?_, ?_, ?_, ?_, ?_, ?_, ?_⟩
  · intro hz j hj
    rw [advanced_dstLane, h.value hz j hj, begun_dstLane]
  · intro y hy
    refine ⟨fun j => ?_, ?_⟩
    · rw [advanced_regLane, h.regs y hy j, begun_regLane]
    · rw [isEmpty_of_empty (w := w2) (by rw [ea]), h.full]; rfl
  · intro y
    rw [isEmpty_of_empty (w := w2) (by rw [ea]), h.full]; rfl
  · intro q hq
    have : (advancedWarp w2 r.slot (sl.path.pc + BitVec.ofNat 64 len)).pReg q = w2.pReg q := by rw [ea]; rfl
    rw [this, h.preds q hq]; rfl
  · have : (advancedWarp w2 r.slot (sl.path.pc + BitVec.ofNat 64 len)).csr = w2.csr := by rw [ea]
    rw [this, h.flags]; rfl
  · intro h1 h3 j hj hm
    have : (advancedWarp w2 r.slot (sl.path.pc + BitVec.ofNat 64 len)).l = w2.l := by rw [ea]
    rw [this]; exact h.latest h1 h3 j hj hm
  · intro hs hk
    have : (advancedWarp w2 r.slot (sl.path.pc + BitVec.ofNat 64 len)).l = w2.l := by rw [ea]
    rw [this, h.kept hk]; exact hl hs

/-- A lane instruction that nothing hinders completes as its lane operation. -/
theorem lane_row {i : Instr} {ops : Ops} {sh : Shape} {op : LaneOp} {x : Opnds} {strict : BitVec 3}
    (he : ∀ s, s.ops = ops → exec i s = issue i sh noPre (laneEff op x) s) (hf : ∀ f ∈ op.fields false x strict, f ∈ sh.fields)
    (hn : op.dW = 1 ∨ op.dW = 2) (hp1 : op.dPred = true → op.dW = 1) : LaneRow i ops sh op x := by
  intro s r b w sl h ho hu hl
  have hdst : Field.settled b.lrec.regs w { opd := x.d, role := if op.dPred then .pred else .vdst, words := op.dW, dst := true } = true :=
    hu.fields _ (hf _ (by simp [LaneOp.fields]))
  simp only [Field.settled, Bool.and_eq_true, List.all_eq_true] at hdst
  obtain ⟨hrole, hset⟩ := hdst
  have hd := laneDst_of_role hrole
  have hfull : ∀ y ∈ regsOf x.d op.dW, w.isEmpty y = false := fun y hy => by simpa using hset y hy
  obtain ⟨l', hl0, hb⟩ := begin_only (c := ctxOf i ops r b w sl) h.block h.warp rfl
  have fin : ∀ t w2, laneEff op x (ctxAt s i ops r b w sl) (beginIssue (ctxOf i ops r b w sl) s) = .done t → OnlyWarp s t r b w2 →
      ValueData x.d op.dW (effMask w sl) (fun j => (opLane op x b (seenWarp s w r.slot) r.wi j).1) (opFlags op x b (seenWarp s w r.slot) r.wi (effMask w sl))
        (begunWarp w r.slot (ctxOf i ops r b w sl).len sl.path.mask l') w2 →
      ∃ t w', exec i s = .next t ∧ OnlyWarp s t r b w' ∧ LaneDone op x b (seenWarp s w r.slot) w w' r sl (lenOf i ops) := by
    intro t w2 e2 h2 hdat
    refine ⟨advance (ctxOf i ops r b w sl) t, _, ?_, ?_, hdat.done h.slot hl0⟩
    · rw [he s ho, issue_free h hu rfl, ho, e2]; rfl
    · rw [advance_eq]; exact h2.updWarp h.warp _
  cases hp : op.dPred with
  | true =>
    rw [hp] at hrole
    obtain ⟨q, hq⟩ : ∃ q, x.d = .p q := by
      cases hx : x.d <;> rw [hx] at hrole <;> first | exact ⟨_, rfl⟩ | exact Bool.noConfusion (show false = true from hrole)
    have h1 := hp1 hp
    obtain ⟨w2, h2, hdat⟩ := writePred_data (c := ctxAt s i ops r b w sl) h.warp hb q (fun j => (opLane op x b (seenWarp s w r.slot) r.wi j).1.getLsbD 0)
      (fun j => (opLane op x b (seenWarp s w r.slot) r.wi j).1) (fun _ => rfl) (opFlags op x b (seenWarp s w r.slot) r.wi (effMask w sl))
    refine fin _ w2 ?_ h2 ?_
    · unfold laneEff
      rw [if_pos hp, opFlags_eq, hq]
      rfl
    · rw [hq, h1]; exact hdat
  | false =>
    have hq : x.d.isPred = false := by
      rw [hp] at hrole
      cases hx : x.d <;> rw [hx] at hrole <;> first | rfl | exact Bool.noConfusion (show false = true from hrole)
    obtain ⟨w2, h2, hdat⟩ := writeLanes_data (c := ctxAt s i ops r b w sl) h.warp hb hn hd hq (fun y hy => hfull y hy)
      (fun j => (opLane op x b (seenWarp s w r.slot) r.wi j).1.setWidth 128) (fun j => (opLane op x b (seenWarp s w r.slot) r.wi j).1) (fun _ => rfl)
      (opFlags op x b (seenWarp s w r.slot) r.wi (effMask w sl))
    refine fin _ w2 ?_ h2 hdat
    unfold laneEff
    rw [if_neg (by rw [hp]; decide), if_neg (by rw [hl]; decide), opFlags_eq]
    rfl

end Sys2Proof.Machine
end

