-- ==== Sys2Proof/Laws/Memory.lean ====
section
/-!
SUPPORT. Laws of memory: every operation keeps the canonical form; a read after a write gives what was written, and a write leaves
every other byte alone.
-/

namespace Sys2Proof.Machine

theorem wfFrom_mono {lo lo' : Nat} (h : lo' ≤ lo) : ∀ {m : List Host.Cell}, Memory.wfFrom lo m = true → Memory.wfFrom lo' m = true
  | [], _ => rfl
  | (a, b) :: t, hm => by
    simp only [Memory.wfFrom, Bool.and_eq_true, decide_eq_true_eq] at hm ⊢
    exact ⟨⟨by omega, hm.1.2⟩, hm.2⟩

/-- Bytes taken away keep the canonical form. -/
theorem filter_wfFrom (p : Host.Cell → Bool) : ∀ (lo : Nat) (m : List Host.Cell),
    Memory.wfFrom lo m = true → Memory.wfFrom lo (m.filter p) = true
  | _, [], _ => rfl
  | lo, (a, b) :: t, hm => by
    simp only [Memory.wfFrom, Bool.and_eq_true, decide_eq_true_eq] at hm
    have ht := filter_wfFrom p (a + 1) t hm.2
    simp only [List.filter_cons]
    split
    · simp only [Memory.wfFrom, Bool.and_eq_true, decide_eq_true_eq]
      exact ⟨hm.1, ht⟩
    · exact wfFrom_mono (by omega) ht

theorem filter_wf (p : Host.Cell → Bool) {m : List Host.Cell} (h : Memory.wf m = true) : Memory.wf (m.filter p) = true :=
  filter_wfFrom p 0 m h

theorem memSet_wfFrom {lo a : Nat} (b : Byte) (h : lo ≤ a) :
    ∀ {m : List Host.Cell}, Memory.wfFrom lo m = true → Memory.wfFrom lo (memSet m a b) = true
  | [], _ => by
    by_cases hb : b = memDefault <;> simp [memSet, Memory.wfFrom, hb, h]
  | (a', b') :: t, hm => by
    have hm' := hm
    simp only [Memory.wfFrom, Bool.and_eq_true, decide_eq_true_eq] at hm'
    obtain ⟨⟨hlo, hb'⟩, ht⟩ := hm'
    unfold memSet
    split
    · rename_i hlt
      split
      · exact filter_wfFrom _ _ _ hm
      · rename_i hb
        simp only [Memory.wfFrom, Bool.and_eq_true, decide_eq_true_eq]
        exact ⟨⟨h, hb⟩, ⟨by omega, hb'⟩, ht⟩
    · split
      · rename_i heq
        split
        · exact filter_wfFrom _ _ _ (wfFrom_mono (by omega) ht)
        · rename_i hb
          simp only [Memory.wfFrom, Bool.and_eq_true, decide_eq_true_eq]
          exact ⟨⟨h, hb⟩, heq ▸ ht⟩
      · simp only [Memory.wfFrom, Bool.and_eq_true, decide_eq_true_eq]
        exact ⟨⟨hlo, hb'⟩, memSet_wfFrom b (by omega) ht⟩

/-- A byte stored keeps the canonical form. -/
theorem memSet_wf {m : List Host.Cell} (a : Nat) (b : Byte) (h : Memory.wf m = true) : Memory.wf (memSet m a b) = true :=
  memSet_wfFrom b (Nat.zero_le a) h

/-- Bytes stored keep the canonical form. -/
theorem memWrite_wf : ∀ (bs : List Byte) (m : List Host.Cell) (a : Nat), Memory.wf m = true → Memory.wf (memWrite m a bs) = true
  | [], _, _, h => h
  | b :: t, _, a, h => memWrite_wf t _ _ (memSet_wf a b h)

/-- Entries of one address taken away read as the default there, and as before elsewhere. -/
theorem memGet_filter_ne (a x : Nat) : ∀ m : List Host.Cell,
    memGet (m.filter (fun e => e.1 != a)) x = if x = a then memDefault else memGet m x
  | [] => by simp [memGet]
  | (a', b') :: t => by
    have ih := memGet_filter_ne a x t
    simp only [List.filter_cons, bne_iff_ne, ne_eq, ite_not]
    by_cases h : a' = a
    · by_cases hx : x = a <;> simp_all [memGet]
    · by_cases hx : x = a'
      · simp [memGet, h, hx]
      · simp only [if_neg h, memGet, if_neg hx, ih]

/-- A byte stored reads as stored, and every other byte as before. -/
theorem memGet_memSet (a x : Nat) (b : Byte) : ∀ m : List Host.Cell, memGet (memSet m a b) x = if x = a then b else memGet m x
  | [] => by
    by_cases hb : b = memDefault <;> by_cases hx : x = a <;> simp [memSet, memGet, hb, hx]
  | (a', b') :: t => by
    unfold memSet
    split
    · split
      · rename_i hb; rw [memGet_filter_ne, hb]
      · by_cases hx : x = a <;> simp [hx, memGet]
    · split
      · rename_i heq
        subst heq
        split
        · rename_i hb; rw [memGet_filter_ne, hb]; by_cases hx : x = a <;> simp [hx, memGet]
        · by_cases hx : x = a <;> simp [hx, memGet]
      · rename_i hne
        by_cases hx : x = a'
        · simp [memGet, hx]; omega
        · simp only [memGet, if_neg hx]
          exact memGet_memSet a x b t

/-- Every byte outside the stored ones reads as before. -/
theorem memGet_memWrite_other : ∀ (bs : List Byte) (m : List Host.Cell) (a x : Nat),
    x < a ∨ a + bs.length ≤ x → memGet (memWrite m a bs) x = memGet m x
  | [], _, _, _, _ => rfl
  | b :: t, m, a, x, hx => by
    simp only [List.length_cons] at hx
    have : x ≠ a := by omega
    simp only [memWrite]
    rw [memGet_memWrite_other t _ (a + 1) x (by omega), memGet_memSet, if_neg this]

/-- The stored bytes read as stored. -/
theorem memRead_memWrite : ∀ (bs : List Byte) (m : List Host.Cell) (a : Nat), memRead (memWrite m a bs) a bs.length = bs
  | [], _, _ => rfl
  | b :: t, m, a => by
    simp only [memWrite, List.length_cons, memRead]
    rw [memRead_memWrite t _ (a + 1), memGet_memWrite_other t _ (a + 1) a (by omega), memGet_memSet, if_pos rfl]

/-- Memory as reset leaves it is in canonical form. -/
theorem reset_memory_wf : Memory.wf State.reset.mem = true := rfl

end Sys2Proof.Machine
end

