-- ==== Sys2Proof/Laws/Uniform.lean ====
section
/-!
SUPPORT. What uniform instructions and long operations do, said once.
-/

namespace Sys2Proof.Machine

/-! ### Uniform instructions -/

theorem kReg_put (w : Warp) (q j : Nat) (m : Word) (f : Nat → Word) :
    (w.put32 (.k q) m f).kReg j = if j = q then f 0 else w.kReg j := by
  simp only [Warp.kReg, Warp.put32, Tab.get_set]

/-- The destinations of uniform instructions: a k register, zero. -/
def Opd.uniDst : Opd → Bool
  | .k _ | .zero => true
  | _ => false

theorem uniDst_of_role {N n : Nat} {d : Opd} (h : roleOk N .udst n d = true) : d.uniDst = true := by
  cases d <;> first | rfl | exact Bool.noConfusion (show false = true from h)

/-- Writing a uniform destination touches the k registers alone. -/
theorem putK_shape (w : Warp) (d : Opd) (n : Nat) (hd : d.uniDst = true) (hn : n = 1 ∨ n = 2) (m : Word) (f : Nat → BitVec 128) :
    ∃ k', w.putN d n m f = { w with k := k' } := by
  cases d with
  | k q => rcases hn with rfl | rfl <;> exact ⟨_, rfl⟩
  | zero => rcases hn with rfl | rfl <;> exact ⟨w.k, rfl⟩
  | _ => simp [Opd.uniDst] at hd

theorem putK_dst (w : Warp) (d : Opd) (n : Nat) (hd : d.uniDst = true) (hz : d ≠ .zero) (hn : n = 1 ∨ n = 2) (m : Word)
    (x : BitVec 128) : (w.putN d n m (fun _ => x)).dstLane d n 0 = asHeld d n (x.setWidth 64) := by
  cases d with
  | k q =>
    rcases hn with rfl | rfl
    · simp only [Warp.putN, List.range_one, List.foldl_cons, List.foldl_nil, if_true, Warp.dstLane, asHeld, kReg_put, Nat.mul_zero, low32]
    · have e2 : List.range 2 = [0, 1] := rfl
      have n2 : ¬ (q = q + 1) := by omega
      simp only [Warp.putN, e2, List.foldl_cons, List.foldl_nil, if_true, Warp.dstLane, asHeld, show ¬ (1 = 0) by omega, if_false, Opd.next,
        kReg_put, show ¬ (2 = 1) by omega, n2, Nat.mul_zero, Nat.mul_one]
      exact high32 x
  | zero => exact absurd rfl hz
  | _ => simp [Opd.uniDst] at hd

theorem putK_regs (w : Warp) (d : Opd) (n : Nat) (hd : d.uniDst = true) (hn : n = 1 ∨ n = 2) (m : Word) (f : Nat → BitVec 128)
    (x : Reg) (hx : x ∉ regsOf d n) (i : Nat) : (w.putN d n m f).regLane x i = w.regLane x i := by
  have e2 : List.range 2 = [0, 1] := rfl
  cases d with
  | k q =>
    rcases hn with rfl | rfl
    · cases x with
      | k j =>
        have : j ≠ q := by intro e; subst e; simp [regsOf] at hx
        simp only [Warp.regLane, Warp.putN, List.range_one, List.foldl_cons, List.foldl_nil, if_true, kReg_put, if_neg this]
      | _ => rfl
    · cases x with
      | k j =>
        have h1 : j ≠ q := by intro e; subst e; simp [regsOf, e2] at hx
        have h2 : j ≠ q + 1 := by intro e; subst e; simp [regsOf, e2] at hx
        simp only [Warp.regLane, Warp.putN, e2, List.foldl_cons, List.foldl_nil, if_true, show ¬ (1 = 0) by omega, if_false, Opd.next,
          kReg_put, if_neg h1, if_neg h2]
      | _ => rfl
  | zero => rcases hn with rfl | rfl <;> (cases x <;> rfl)
  | _ => simp [Opd.uniDst] at hd

/-- A uniform result written, then the path's advance. -/
theorem writeK_done {c : Ctx} {s t : State} {b : Block} {w : Warp} {sl : Slot} {l' : List Word} (hb : b.warps[c.ref.wi]? = some w)
    (hs : w.slots[c.ref.slot]? = some sl) (hl : w.lastSlot = c.ref.slot → l' = w.l) (hpc : c.pc = sl.path.pc)
    (ht : OnlyWarp s t c.ref b (begunWarp w c.ref.slot c.len sl.path.mask l')) {d : Opd} {n : Nat} (hd : d.uniDst = true) (hn : n = 1 ∨ n = 2)
    (hfull : ∀ y ∈ regsOf d n, w.isEmpty y = false) (x : BitVec 128) (v : DWord) (hv : x.setWidth 64 = v) :
    ∃ w', OnlyWarp s (advance c (writeK c d n x t)) c.ref b w' ∧ UniformDone d n v w w' c.ref sl c.len := by
  have h2 := ht.updWarp hb (fun w => (w.putN d n 1 (fun _ => x)).markFull (regsOf d n))
  obtain ⟨k', e⟩ := putK_shape (begunWarp w c.ref.slot c.len sl.path.mask l') d n hd hn 1 (fun _ => x)
  have hfl : ∀ y, (((begunWarp w c.ref.slot c.len sl.path.mask l').putN d n 1 (fun _ => x)).markFull (regsOf d n)).isEmpty y = w.isEmpty y := by
    intro y
    have hh : ∀ z ∈ regsOf d n, ((begunWarp w c.ref.slot c.len sl.path.mask l').putN d n 1 (fun _ => x)).isEmpty z = false := by
      intro z hz
      have := hfull z hz
      rw [e]; exact this
    rw [markFull_empty _ _ hh y, e]; rfl
  have hval : d ≠ .zero → (((begunWarp w c.ref.slot c.len sl.path.mask l').putN d n 1 (fun _ => x)).markFull (regsOf d n)).dstLane d n 0 = asHeld d n v := by
    intro hz
    rw [dstLane_markFull, putK_dst _ _ _ hd hz hn, hv]
  have hregs : ∀ y, y ∉ regsOf d n → ∀ j,
      (((begunWarp w c.ref.slot c.len sl.path.mask l').putN d n 1 (fun _ => x)).markFull (regsOf d n)).regLane y j = w.regLane y j := by
    intro y hy j
    rw [regLane_markFull, putK_regs _ _ _ hd hn _ _ y hy j, begun_regLane]
  have hdat : DataOnly (begunWarp w c.ref.slot c.len sl.path.mask l') (((begunWarp w c.ref.slot c.len sl.path.mask l').putN d n 1 (fun _ => x)).markFull (regsOf d n)) := by
    rw [e]; rfl
  have hrest : (((begunWarp w c.ref.slot c.len sl.path.mask l').putN d n 1 (fun _ => x)).markFull (regsOf d n)).p = w.p ∧
      (((begunWarp w c.ref.slot c.len sl.path.mask l').putN d n 1 (fun _ => x)).markFull (regsOf d n)).csr = w.csr ∧
      (((begunWarp w c.ref.slot c.len sl.path.mask l').putN d n 1 (fun _ => x)).markFull (regsOf d n)).l = l' := by
    rw [e]; exact ⟨rfl, rfl, rfl⟩
  generalize ((begunWarp w c.ref.slot c.len sl.path.mask l').putN d n 1 (fun _ => x)).markFull (regsOf d n) = w2 at h2 hfl hval hregs hdat hrest
  obtain ⟨_, _, _, _, ea⟩ := advanced_data w2 c.ref.slot (sl.path.pc + BitVec.ofNat 64 c.len)
  refine ⟨advancedWarp w2 c.ref.slot (sl.path.pc + BitVec.ofNat 64 c.len), ?_, wentOn_of hs hdat, ?_, ?_, ?_, ?_, ?_, ?_⟩
  · rw [advance_eq, hpc]; exact h2.updWarp hb _
  · intro hz; rw [advanced_dstLane, hval hz]
  · intro y hy
    refine ⟨fun j => by rw [advanced_regLane, hregs y hy j], ?_⟩
    rw [isEmpty_of_empty (w := w2) (by rw [ea]), hfl]
  · intro y; rw [isEmpty_of_empty (w := w2) (by rw [ea]), hfl]
  · intro q
    have : (advancedWarp w2 c.ref.slot (sl.path.pc + BitVec.ofNat 64 c.len)).p = w2.p := by rw [ea]
    simp only [Warp.pReg, this, hrest.1]
  · have : (advancedWarp w2 c.ref.slot (sl.path.pc + BitVec.ofNat 64 c.len)).csr = w2.csr := by rw [ea]
    rw [this, hrest.2.1]
  · intro hls
    have : (advancedWarp w2 c.ref.slot (sl.path.pc + BitVec.ofNat 64 c.len)).l = w2.l := by rw [ea]
    rw [this, hrest.2.2, hl hls]

/-- A uniform instruction that nothing hinders completes as its operation. -/
theorem uniform_row {i : Instr} {ops : Ops} {sh : Shape} {op : LaneOp} {x : Opnds} {strict : BitVec 3}
    (he : ∀ s, s.ops = ops → exec i s = issue i sh noPre (uniEff op x) s) (hf : ∀ f ∈ op.fields true x strict, f ∈ sh.fields)
    (hp : op.dPred = false) (hn : op.dW = 1 ∨ op.dW = 2) : UniformRow i ops sh op x := by
  intro s r b w sl h ho hu
  have hdst : Field.settled b.lrec.regs w { opd := x.d, role := .udst, words := op.dW, dst := true } = true :=
    hu.fields _ (hf _ (by simp [LaneOp.fields, hp]))
  simp only [Field.settled, Bool.and_eq_true, List.all_eq_true] at hdst
  obtain ⟨hrole, hset⟩ := hdst
  have hfull : ∀ y ∈ regsOf x.d op.dW, w.isEmpty y = false := fun y hy => by simpa using hset y hy
  obtain ⟨l', hl0, hb⟩ := begin_only (c := ctxOf i ops r b w sl) h.block h.warp rfl
  obtain ⟨w', h2, hd⟩ := writeK_done (c := ctxAt s i ops r b w sl) h.warp h.slot hl0 rfl hb (uniDst_of_role hrole) hn hfull
    ((opLane op x b (seenWarp s w r.slot) r.wi 0).1.setWidth 128) (opLane op x b (seenWarp s w r.slot) r.wi 0).1 (setWidth_back _)
  exact ⟨_, w', by rw [he s ho, issue_free h hu rfl, ho]; rfl, h2, hd⟩

end Sys2Proof.Machine
end

