-- ==== Sys2Proof/Laws/Rows.lean ====
section
/-!
SUPPORT. The rows of lane and uniform instructions by format: what a meaning of one line over the shared issue gives.
-/

namespace Sys2Proof.Machine

/-- An operation that writes one word or two, and a predicate as one. -/
def LaneOp.plain (op : LaneOp) : Prop := (op.dW = 1 ∨ op.dW = 2) ∧ (op.dPred = true → op.dW = 1)

theorem row16_of {i : Instr} {fl : Bool} {op : LaneOp} (he : ∀ s, exec i s = withS16 s (fun f => lane16 i fl op f s)) (hp : op.plain) :
    Row16 i fl op := fun f =>
  lane_row (strict := 0) (fun s hs => by rw [he, withS16, hs]; rfl) (fun _ h => h) hp.1 hp.2

theorem rowAcc16_of {i : Instr} {op : LaneOp}
    (he : ∀ s, exec i s = withS16 s (fun f => laneAcc i op { d := .v f.d.toNat, a := opdS true f.s, b := .l } s)) (hp : op.plain) :
    RowAcc16 i op := fun f =>
  lane_row (strict := 0) (fun s hs => by rw [he, withS16, hs]; rfl) (fun _ h => h) hp.1 hp.2

theorem rowLaneDab_of {i : Instr} {op : LaneOp} (he : ∀ s, exec i s = withL32 s (fun f => laneDab i op f s)) (hp : op.plain) :
    RowLaneDab i op := fun f =>
  lane_row (strict := 0) (fun s hs => by rw [he, withL32, hs]; rfl) (fun _ h => h) hp.1 hp.2

theorem rowLaneDai_of {i : Instr} {op : LaneOp} (he : ∀ s, exec i s = withL32 s (fun f => laneDai i op f s)) (hp : op.plain) :
    RowLaneDai i op := fun f =>
  lane_row (strict := 0) (fun s hs => by rw [he, withL32, hs]; rfl) (fun _ h => h) hp.1 hp.2

theorem rowAccL32_of {i : Instr} {op : LaneOp} (he : ∀ s, exec i s = withL32 s (fun f => laneAcc i op (opndsDab f) s)) (hp : op.plain) :
    RowAccL32 i op := fun f =>
  lane_row (strict := 0) (fun s hs => by rw [he, withL32, hs]; rfl) (fun _ h => h) hp.1 hp.2

theorem rowA_of {i : Instr} {g : FmtA → Option LaneOp} {lk : Bool} (he : ∀ s, exec i s = withA s (fun f => laneA i (g f) lk f s))
    (hp : ∀ f op, g f = some op → op.plain) : RowA i g lk := fun f op hg =>
  lane_row (strict := f.strict) (fun s hs => by rw [he, withA, hs]; simp only [hg]; rfl) (fun _ h => h) (hp f op hg).1 (hp f op hg).2

theorem rowR_of {i : Instr} {g : FmtA → Option LaneOp} {lk : Bool} (he : ∀ s, exec i s = withA s (fun f => laneR i (g f) lk f s))
    (hp : ∀ f op, g f = some op → op.plain) : RowR i g lk := fun f op hg hr =>
  lane_row (strict := f.strict) (fun s hs => by rw [he, withA, hs]; simp only [laneR, hg, if_pos hr]) (fun _ h => h)
    (hp f op hg).1 (hp f op hg).2

theorem rowCvt_of {i : Instr} {g : FmtA → Option LaneOp} {old : Bool} (he : ∀ s, exec i s = withA s (fun f => laneCvt i (g f) old f s))
    (hp : ∀ f op, g f = some op → op.plain) : RowCvt i g old := fun f op hg =>
  lane_row (strict := f.strict &&& 3) (fun s hs => by rw [he, withA, hs]; simp only [laneCvt, hg]) (fun _ h => h)
    (hp f op hg).1 (hp f op hg).2

theorem rowB_of {i : Instr} {g : FmtB → Option LaneOp} (he : ∀ s, exec i s = withB s (fun f => laneB i (g f) f s))
    (hp : ∀ f op, g f = some op → op.plain) : RowB i g := fun f op hg =>
  lane_row (strict := 0) (fun s hs => by rw [he, withB, hs]; simp only [laneB, hg]) (fun _ h => h) (hp f op hg).1 (hp f op hg).2

theorem rowUniA_of {i : Instr} {g : FmtA → Option LaneOp} (he : ∀ s, exec i s = withA s (fun f => uniA i (g f) f s))
    (hp : ∀ f op, g f = some op → op.plain ∧ op.dPred = false) : RowUniA i g := fun f op hg =>
  uniform_row (strict := f.strict) (fun s hs => by rw [he, withA, hs]; simp only [hg]; rfl) (fun _ h => h) (hp f op hg).2 (hp f op hg).1.1

theorem rowUniB_of {i : Instr} {g : FmtB → Option LaneOp} (he : ∀ s, exec i s = withB s (fun f => uniB i (g f) f s))
    (hp : ∀ f op, g f = some op → op.plain ∧ op.dPred = false) : RowUniB i g := fun f op hg =>
  uniform_row (strict := 0) (fun s hs => by rw [he, withB, hs]; simp only [uniB, hg]) (fun _ h => h) (hp f op hg).2 (hp f op hg).1.1

theorem rowUniDab_of {i : Instr} {op : LaneOp} (he : ∀ s, exec i s = withL32 s (fun f => uniDab i op f s)) (hp : op.plain)
    (hd : op.dPred = false) : RowUniDab i op := fun f =>
  uniform_row (strict := 0) (fun s hs => by rw [he, withL32, hs]; rfl) (fun _ h => h) hd hp.1

theorem rowUniDai_of {i : Instr} {op : LaneOp} (he : ∀ s, exec i s = withL32 s (fun f => uniDai i op f s)) (hp : op.plain)
    (hd : op.dPred = false) : RowUniDai i op := fun f =>
  uniform_row (strict := 0) (fun s hs => by rw [he, withL32, hs]; rfl) (fun _ h => h) hd hp.1

end Sys2Proof.Machine
end

