-- ==== Sys2Proof/Laws/Values.lean ====
section
/-!
SUPPORT. Instructions that write one value per lane, a predicate, or one uniform value: the whole issue, said once for each kind of
destination.
-/

namespace Sys2Proof.Machine

/-- An effect on the begun state that answers done, where nothing hinders: the state after the instruction. -/
theorem does_done {i : Instr} {ops : Ops} {sh : Shape} {eff : Ctx → State → Res} {s t : State} {r : PathRef} {b : Block} {w : Warp}
    {sl : Slot} (he : exec i s = issue i sh noPre eff s) (h : Issuing s r b w sl) (ho : s.ops = ops) (hu : Unhindered sh b w sl)
    (hd : eff (ctxAt s i ops r b w sl) (beginIssue (ctxOf i ops r b w sl) s) = .done t) :
    exec i s = .next (advance (ctxOf i ops r b w sl) t) := by
  rw [he, issue_free h hu rfl, ho, hd]; rfl

/-- What a switch of slots leaves undefined is l alone: all else of the warp, and the effective mask, are as they were. -/
theorem seenWarp_shape (s : State) (w : Warp) (k : Nat) : ∃ l', seenWarp s w k = { w with l := l' } := by
  unfold seenWarp; split
  · exact ⟨w.l, rfl⟩
  · exact ⟨_, rfl⟩

theorem effMask_seen (s : State) (w : Warp) (k : Nat) (sl : Slot) : effMask (seenWarp s w k) sl = effMask w sl := by
  obtain ⟨l', e⟩ := seenWarp_shape s w k
  rw [e]; rfl

/-- The destination field of a shape is settled: its registers are full. -/
theorem dst_settled {sh : Shape} {b : Block} {w : Warp} {sl : Slot} (hu : Unhindered sh b w sl) {f : Field} (hf : f ∈ sh.fields) :
    roleOk b.lrec.regs f.role f.words f.opd = true ∧ ∀ y ∈ regsOf f.opd f.words, w.isEmpty y = false := by
  have := hu.fields f hf
  simp only [Field.settled, Bool.and_eq_true, List.all_eq_true] at this
  exact ⟨this.1, fun y hy => by simpa using this.2 y hy⟩

/-- A register destination. -/
theorem reg_value_row {i : Instr} {ops : Ops} {sh : Shape} {d : Opd} {n : Nat} {v : Ctx → Nat → DWord} {fl : Ctx → Word} {rl : Role}
    (he : ∀ s, s.ops = ops → exec i s = issue i sh noPre (fun c s =>
      .done (writeLanes c d n (fun j => (v c j).setWidth 128) (raiseFlags c (fl c) s))) s)
    (hf : ∃ f ∈ sh.fields, f.opd = d ∧ f.words = n ∧ f.role = rl) (hn : n = 1 ∨ n = 2)
    (hd : ∀ N, roleOk N rl n d = true → d.laneDst = true ∧ d.isPred = false) {val : Block → Warp → PathRef → Slot → Nat → DWord}
    {vfl : Block → Warp → PathRef → Slot → Word} (hv : ∀ s b w r sl, val b (seenWarp s w r.slot) r sl = v (ctxAt s i ops r b w sl))
    (hfl : ∀ s b w r sl, vfl b (seenWarp s w r.slot) r sl = fl (ctxAt s i ops r b w sl)) : ValueRow i ops sh d n val vfl := by
  intro s r b w sl h ho hu _
  obtain ⟨f, hm, e1, e2, e3⟩ := hf
  obtain ⟨hr, hfull⟩ := dst_settled hu hm
  rw [e1, e2, e3] at hr
  rw [e1, e2] at hfull
  obtain ⟨hl, hp⟩ := hd _ hr
  obtain ⟨l', hl0, hb⟩ := begin_only (c := ctxOf i ops r b w sl) h.block h.warp rfl
  obtain ⟨w2, h2, hdat⟩ := writeLanes_data (c := ctxAt s i ops r b w sl) h.warp hb hn hl hp hfull
    (fun j => (v (ctxAt s i ops r b w sl) j).setWidth 128) (v (ctxAt s i ops r b w sl)) (fun _ => rfl) (fl (ctxAt s i ops r b w sl))
  refine ⟨_, does_done (he s ho) h ho hu rfl, _, ?_, by rw [hv, hfl]; exact hdat.done h.slot hl0⟩
  rw [advance_eq]; exact h2.updWarp h.warp _

/-- A predicate destination. -/
theorem pred_value_row {i : Instr} {ops : Ops} {sh : Shape} {q : Nat} {v : Ctx → Nat → Bool} {fl : Ctx → Word}
    (he : ∀ s, s.ops = ops → exec i s = issue i sh noPre (fun c s => .done (writePred c (.p q) (v c) (raiseFlags c (fl c) s))) s)
    {val : Block → Warp → PathRef → Slot → Nat → DWord} {vfl : Block → Warp → PathRef → Slot → Word}
    (hv : ∀ s b w r sl j, val b (seenWarp s w r.slot) r sl j = truth (v (ctxAt s i ops r b w sl) j))
    (hfl : ∀ s b w r sl, vfl b (seenWarp s w r.slot) r sl = fl (ctxAt s i ops r b w sl)) : ValueRow i ops sh (.p q) 1 val vfl := by
  intro s r b w sl h ho hu _
  obtain ⟨l', hl0, hb⟩ := begin_only (c := ctxOf i ops r b w sl) h.block h.warp rfl
  obtain ⟨w2, h2, hdat⟩ := writePred_data (c := ctxAt s i ops r b w sl) h.warp hb q (v (ctxAt s i ops r b w sl))
    (val b (seenWarp s w r.slot) r sl) (fun j => by rw [hv]; cases v (ctxAt s i ops r b w sl) j <;> rfl) (vfl b (seenWarp s w r.slot) r sl)
  refine ⟨_, does_done (he s ho) h ho hu rfl, _, ?_, hdat.done h.slot hl0⟩
  rw [advance_eq, ← hfl]; exact h2.updWarp h.warp _

theorem raiseFlags_zero (c : Ctx) (s : State) : raiseFlags c 0 s = s := by simp [raiseFlags]

theorem setFlags_zero (w : Warp) : w.setFlags 0 = w := by simp [Warp.setFlags]

/-- A uniform destination, without flags. -/
theorem uni_value_row {i : Instr} {ops : Ops} {sh : Shape} {d : Opd} {n : Nat} {v : Ctx → DWord} {rl : Role}
    (he : ∀ s, s.ops = ops → exec i s = issue i sh noPre (fun c s => .done (writeK c d n ((v c).setWidth 128) s)) s)
    (hf : ∃ f ∈ sh.fields, f.opd = d ∧ f.words = n ∧ f.role = rl) (hn : n = 1 ∨ n = 2)
    (hd : ∀ N, roleOk N rl n d = true → d.uniDst = true) {val : Block → Warp → PathRef → Slot → DWord}
    (hv : ∀ s b w r sl, val b (seenWarp s w r.slot) r sl = v (ctxAt s i ops r b w sl)) : UniValueRow i ops sh d n val noFlags := by
  intro s r b w sl h ho hu _
  obtain ⟨f, hm, e1, e2, e3⟩ := hf
  obtain ⟨hr, hfull⟩ := dst_settled hu hm
  rw [e1, e2, e3] at hr
  rw [e1, e2] at hfull
  obtain ⟨l', hl0, hb⟩ := begin_only (c := ctxOf i ops r b w sl) h.block h.warp rfl
  obtain ⟨w', h2, hdone⟩ := writeK_done (c := ctxAt s i ops r b w sl) h.warp h.slot hl0 rfl hb (hd _ hr) hn hfull
    ((v (ctxAt s i ops r b w sl)).setWidth 128) (v (ctxAt s i ops r b w sl)) (setWidth_back _)
  exact ⟨_, does_done (he s ho) h ho hu rfl, w', by rw [noFlags, setFlags_zero]; exact h2, by rw [hv]; exact hdone⟩

end Sys2Proof.Machine
end

