-- ==== Sys2Proof/Tests/Slice0.lean ====
section
/-!
SUPPORT. Tests: the checks of WellFormed refuse, words decode as the specification's encoding says, single steps give what its rules give,
and the hypotheses of each statement are met by a state written out here (each expected value is worked out by hand from the rule named).
-/

namespace Sys2Proof.Tests

open Sys2Proof.Machine

/-! ### WellFormed: each check refuses -/

def noA : FmtA := { d := 0, a := 0, b := 0, c := 0, ty := 4, rnd := 0, strict := 0, lkind := 0, lamt := 0 }
def noB : FmtB := { d := 0, a := 0, ty := 4, imm := 0 }
def noC : FmtC := { d := 0, base := 8, data := 265, off := 0, width := 2, hint := 0, scope := 0, order := 0, sbase := false, sdata := false }
def noL : F32 := { d := 0, a := 0, b := 0 }

/-- R317: a shape without operands. -/
theorem test_wf_l32_none : Ins.wf { instr := .nop, ops := .l32 { noL with d := 1 } } = false := by decide
/-- R317: a trap code above 63. -/
theorem test_wf_l32_imm : Ins.wf { instr := .trapL32, ops := .l32 { noL with b := 64 } } = false := by decide
/-- R317: a unary form with a second source. -/
theorem test_wf_l32_da : Ins.wf { instr := .notB32L32, ops := .l32 { noL with b := 1 } } = false := by decide
/-- R317: `movi` with a source. -/
theorem test_wf_l32_di : Ins.wf { instr := .moviL32, ops := .l32 { noL with a := 1 } } = false := by decide
/-- R317: barrier 16. -/
theorem test_wf_l32_bar : Ins.wf { instr := .barSync, ops := .l32 { noL with b := 16 } } = false := by decide
/-- R302: a pattern bit beyond the count. -/
theorem test_wf_pblk : Ins.wf { instr := .pblk, ops := .pblk { p := 0, c := 0, t := 2, z := 0 } } = false := by decide
/-- R305: a bit that must be zero. -/
theorem test_wf_ordp : Ins.wf { instr := .ordp, ops := .ordp { o := 0, s := 0, z := 1 } } = false := by decide
/-- R298: RND 6 is reserved. -/
theorem test_wf_rnd : Ins.wf { instr := .fadd, ops := .a { noA with rnd := 6 } } = false := by decide
/-- R301: an amount without a modifier. -/
theorem test_wf_lamt : Ins.wf { instr := .add, ops := .a { noA with lamt := 1 } } = false := by decide
/-- R301: LKIND 7 is reserved. -/
theorem test_wf_lkind : Ins.wf { instr := .add, ops := .a { noA with lkind := 7 } } = false := by decide
/-- R319: a modifier on an opcode that takes none. -/
theorem test_wf_lkind_opcode : Ins.wf { instr := .pand, ops := .a { noA with lkind := 1 } } = false := by decide
/-- R301: a modifier on a B that is neither v nor o. -/
theorem test_wf_lkind_operand : Ins.wf { instr := .add, ops := .a { noA with lkind := 1, b := 264 } } = false := by decide
/-- R295: WIDTH 5 is reserved. -/
theorem test_wf_width : Ins.wf { instr := .ld, ops := .c { noC with width := 5 } } = false := by decide
/-- R295: ORDER 5 is reserved. -/
theorem test_wf_order : Ins.wf { instr := .ld, ops := .c { noC with order := 5 } } = false := by decide
/-- R295: a scope on a plain access. -/
theorem test_wf_scope : Ins.wf { instr := .ld, ops := .c { noC with scope := 1 } } = false := by decide
/-- Operands of another format. -/
theorem test_wf_format : Ins.wf { instr := .ld, ops := .a noA } = false := by decide
/-- A well-formed instruction passes. -/
theorem test_wf_passes : Ins.wf { instr := .ld, ops := .c noC } = true := by decide

/-! ### Words written out from the encodings decode to their instructions -/

/-- R289, R290: OP 15, D 63, S 31. -/
theorem test_decode_s16_fmax : decode [0xFE, 0xFF] =
    .ok ({ instr := .s16FmaxF32, ops := .s16 { d := 63, s := 31 } }, []) := rfl

/-- R291, R316: movi 0x03A, D 95, IMM7 -64. -/
theorem test_decode_l32_movi : decode [0xE9, 0xF8, 0x02, 0x80] =
    .ok ({ instr := .moviL32, ops := .l32 { d := 95, a := 0, b := 64 } }, []) := rfl

/-- R316: bar.sync 0x1C2, barrier 15. -/
theorem test_decode_l32_bar_sync : decode [0x09, 0x07, 0x00, 0x1E] =
    .ok ({ instr := .barSync, ops := .l32 { d := 0, a := 0, b := 15 } }, []) := rfl

/-- R316: ldk.b32 0x08C, D k15 127. -/
theorem test_decode_l32_ldk : decode [0x31, 0xFA, 0xC3, 0xFF] =
    .ok ({ instr := .ldkB32L32, ops := .l32 { d := 127, a := 112, b := 127 } }, []) := rfl

/-- R293, R318: bfe 0x01E with every field at its top. -/
theorem test_decode_a_bfe : decode [0x7B, 0xF8, 0x77, 0xF6, 0x60, 0xC2, 0xF7, 0xFE] =
    .ok ({ instr := .bfe, ops := .a { d := 255, a := 359, b := 263, c := 265, ty := 7, rnd := 5, strict := 7, lkind := 6, lamt := 31 } }, []) := rfl

/-- R318: fcmp.un 0x06E. -/
theorem test_decode_a_fcmp_un : decode [0xBB, 0x01, 0x1B, 0x40, 0x00, 0x00, 0x00, 0x00] =
    .ok ({ instr := .fcmpUn, ops := .a { d := 352, a := 1, b := 2, c := 0, ty := 0, rnd := 0, strict := 0, lkind := 0, lamt := 0 } }, []) := rfl

/-- R318: cvt.pk 0x084. -/
theorem test_decode_a_cvt_pk : decode [0x13, 0x1A, 0x40, 0xA0, 0x80, 0x81, 0x08, 0x00] =
    .ok ({ instr := .cvtPk, ops := .a { d := 3, a := 4, b := 5, c := 6, ty := 1, rnd := 2, strict := 0, lkind := 0, lamt := 0 } }, []) := rfl

/-- R318: lscan 0x0AA. -/
theorem test_decode_a_lscan : decode [0xAB, 0x42, 0x90, 0x00, 0xC0, 0x00, 0x02, 0x00] =
    .ok ({ instr := .lscan, ops := .a { d := 8, a := 9, b := 0, c := 3, ty := 4, rnd := 0, strict := 0, lkind := 0, lamt := 0 } }, []) := rfl

/-- R318: pget 0x047, D k5 277, A p7 359. -/
theorem test_decode_a_pget : decode [0x1F, 0xA9, 0x78, 0x16, 0x00, 0x00, 0x00, 0x00] =
    .ok ({ instr := .pget, ops := .a { d := 277, a := 359, b := 0, c := 0, ty := 0, rnd := 0, strict := 0, lkind := 0, lamt := 0 } }, []) := rfl

/-- R318: max 0x0B9 (uniform). -/
theorem test_decode_a_umax : decode [0xE7, 0x7A, 0x0A, 0x71, 0x21, 0x00, 0x02, 0x00] =
    .ok ({ instr := .umax, ops := .a { d := 335, a := 272, b := 267, c := 0, ty := 4, rnd := 0, strict := 0, lkind := 0, lamt := 0 } }, []) := rfl

/-- R318: hpin 0x106. -/
theorem test_decode_a_hpin : decode [0x1B, 0xFC, 0x0A, 0x55, 0x00, 0x00, 0x00, 0x00] =
    .ok ({ instr := .hpin, ops := .a { d := 351, a := 336, b := 2, c := 0, ty := 0, rnd := 0, strict := 0, lkind := 0, lamt := 0 } }, []) := rfl

/-- R318: mma.pair 0x121. -/
theorem test_decode_a_mma_pair : decode [0x87, 0x0C, 0x00, 0x91, 0xE2, 0x81, 0x01, 0x00] =
    .ok ({ instr := .mmaPair, ops := .a { d := 1, a := 272, b := 276, c := 7, ty := 3, rnd := 0, strict := 0, lkind := 0, lamt := 0 } }, []) := rfl

/-- R318: glaunch.pod 0x152. -/
theorem test_decode_a_glaunch_pod : decode [0x4B, 0x8D, 0x38, 0x11, 0x00, 0x00, 0x00, 0x00] =
    .ok ({ instr := .glaunchPod, ops := .a { d := 273, a := 275, b := 0, c := 0, ty := 0, rnd := 0, strict := 0, lkind := 0, lamt := 0 } }, []) := rfl

/-- R318: perf 0x16D. -/
theorem test_decode_a_perf : decode [0xB7, 0x95, 0x88, 0x11, 0x00, 0x00, 0x00, 0x00] =
    .ok ({ instr := .perf, ops := .a { d := 274, a := 280, b := 0, c := 0, ty := 0, rnd := 0, strict := 0, lkind := 0, lamt := 0 } }, []) := rfl

/-- R294, R342: bra 0x050. -/
theorem test_decode_b_bra : decode [0x43, 0x09, 0x00, 0x16, 0x02, 0x00, 0x04, 0x00] =
    .ok ({ instr := .bra, ops := .b { d := 1, a := 352, ty := 0, imm := 0x40002 } }, []) := rfl

/-- R318: ewait 0x12A. -/
theorem test_decode_b_ewait : decode [0xAB, 0x14, 0x09, 0x11, 0xFF, 0xFF, 0xFF, 0xFF] =
    .ok ({ instr := .ewait, ops := .b { d := 290, a := 272, ty := 0, imm := 0xFFFFFFFF } }, []) := rfl

/-- R318: csrw 0x161. -/
theorem test_decode_b_csrw : decode [0x87, 0x05, 0x00, 0x11, 0x34, 0x12, 0x00, 0x00] =
    .ok ({ instr := .csrw, ops := .b { d := 0, a := 272, ty := 0, imm := 0x1234 } }, []) := rfl

/-- R295, R318: atom.cas 0x0DA, offset -8,192. -/
theorem test_decode_c_atom_cas : decode [0x6B, 0x53, 0x40, 0xC1, 0x03, 0x00, 0x38, 0xE6] =
    .ok ({ instr := .atomCas, ops := .c { d := 10, base := 20, data := 30, off := 8192, width := 3, hint := 0, scope := 3, order := 4, sbase := true, sdata := true } }, []) := rfl

/-- R318: red.incwrap 0x0E9, offset 8,191. -/
theorem test_decode_c_red_incwrap : decode [0xA7, 0x4B, 0x08, 0x21, 0xC2, 0xFF, 0x27, 0x0A] =
    .ok ({ instr := .redIncwrap, ops := .c { d := 265, base := 16, data := 17, off := 8191, width := 2, hint := 0, scope := 1, order := 1, sbase := false, sdata := false } }, []) := rfl

/-- R318: fence.sc 0x0F3. -/
theorem test_decode_c_fence_sc : decode [0xCF, 0x03, 0x00, 0x00, 0x00, 0x00, 0x00, 0x04] =
    .ok ({ instr := .fenceSc, ops := .c { d := 0, base := 0, data := 0, off := 0, width := 0, hint := 0, scope := 2, order := 0, sbase := false, sdata := false } }, []) := rfl

/-- R318: hcas 0x104. -/
theorem test_decode_c_hcas : decode [0x13, 0x84, 0x1A, 0x55, 0x2A, 0x02, 0x30, 0x00] =
    .ok ({ instr := .hcas, ops := .c { d := 336, base := 337, data := 338, off := 8, width := 3, hint := 0, scope := 0, order := 0, sbase := false, sdata := false } }, []) := rfl

/-- R313: an unassigned L64 opcode is refused by name. -/
theorem test_decode_unassigned : decode [0xFB, 0x05, 0, 0, 0, 0, 0, 0] = .error (.unassignedL64 0x17E) := rfl

/-! ### The states of the tests: a warp alone on a core -/

/-- The block of the tests: one privileged warp of 248 registers whose path stands at 0x10000. -/
def blk0 : Block := probeBlock 0 0
def warp0 : Warp := launchWarp probeRecord 0 0 0 0 0
def slot0 : Slot := { Slot.empty with live := true, path := { pc := 0x10000, rpc := none, mask := BitVec.allOnes 32 } }
def ref0 : PathRef := { bid := 0, wi := 0, slot := 0 }
/-- The state in which warp `w` of the block issues with operands `ops`. -/
def at0 (w : Warp) (ops : Ops) : State :=
  { State.reset with nextId := 1, blocks := [{ blk0 with warps := [w] }], cur := some ref0, ops := ops }
/-- A warp whose register v1 holds `x` and v2 holds `y` in every lane. -/
def warpV (x y : Word) : Warp := { warp0 with v := [(1, List.replicate 32 x), (2, List.replicate 32 y)] }

/-- The same in a machine whose domain 0 is up and translates its first 2 MiB to themselves with every permission. -/
def dom0 : Domain := { Domain.init with up := true, tlb := [{ page := 0, size := 2 ^ 21, leaf := 0xFF, lpa := 0, moving := false }] }
def atUp (w : Warp) (ops : Ops) : State := { at0 w ops with domains := [(0, dom0)] }

/-- What a test reads of the state after. -/
def after (o : Host.Outcome State Fault Refusal) (f : State → Bool) : Bool := match o with | .next t => f t | _ => false
/-- The warp after a step. -/
def afterW (o : Host.Outcome State Fault Refusal) (f : Warp → Bool) : Bool :=
  after o (fun t => match t.warp? 0 0 with | some w => f w | none => false)

/-- A step at a state with the word of `movi v5, -1` placed runs it: v5 becomes all ones (R337), from reset. -/
theorem test_step_runs_placed_word :
    afterW (step (State.reset.withFetchWord 32 (0x001 + 0x03A * 4 + 5 * 2048 + 127 * 33554432))) (fun w => w.vLane 5 31 == 0xFFFFFFFF) = true := by
  decide
/-- The host's decoder of a table word reads the same instruction. -/
theorem test_decode_table_word : decodeTableWord 16 0x00F8 = some .s16AddI32 := by decide

/-! ### The hypotheses of the statements about instructions are met -/

/-- What `Unhindered` asks, as a test. -/
def unhinderedB (sh : Shape) (b : Block) (w : Warp) (sl : Slot) : Bool :=
  !sh.opcodeBad && (!sh.priv || w.priv) && (decide (reachCount sl.reach = 0) || sh.gov) && ordpOk sh sl.ordPfx &&
  sh.fields.all (fun f => f.settled b.lrec.regs w)

theorem unhindered_of {sh : Shape} {b : Block} {w : Warp} {sl : Slot} (h : unhinderedB sh b w sl = true) : Unhindered sh b w sl := by
  simp only [unhinderedB, Bool.and_eq_true, Bool.not_eq_true', Bool.or_eq_true, decide_eq_true_eq, List.all_eq_true] at h
  obtain ⟨⟨⟨⟨h1, h2⟩, h3⟩, h4⟩, h5⟩ := h
  exact ⟨h1, fun hp => by simpa [hp] using h2, h3, h4, h5⟩

/-- Some state meets the hypotheses that `Does` and its kin put before an instruction. -/
def Met (ops : Ops) (sh : Shape) (pre : State → PathRef → Block → Warp → Slot → Prop) : Prop :=
  ∃ s r b w sl, Issuing s r b w sl ∧ s.ops = ops ∧ Unhindered sh b w sl ∧ pre s r b w sl

/-- They are met by a state in which block `b`, warp `w` and slot `sl` issue. -/
theorem met_at (s : State) (b : Block) (w : Warp) (sl : Slot) (ops : Ops) (sh : Shape)
    (pre : State → PathRef → Block → Warp → Slot → Prop) (hc : s.cur = some ref0) (hb : s.block? 0 = some b) (hw : b.warps[0]? = some w)
    (hs : w.slots[0]? = some sl) (hl : sl.live = true) (ho : s.ops = ops) (hu : unhinderedB sh b w sl = true)
    (hp : pre s ref0 b w sl) : Met ops sh pre :=
  ⟨s, ref0, b, w, sl, ⟨hc, hb, hw, hs, hl⟩, ho, unhindered_of hu, hp⟩

/-- The block of the tests with warp `w`. -/
def blkOf (w : Warp) : Block := { blk0 with warps := [w] }
/-- They are met where a warp of the tests stands in slot 0 with path `slot0`. -/
theorem met0 (w : Warp) (ops : Ops) (sh : Shape) (pre : State → PathRef → Block → Warp → Slot → Prop)
    (hs : w.slots[0]? = some slot0) (hu : unhinderedB sh (blkOf w) w slot0 = true) (hp : pre (at0 w ops) ref0 (blkOf w) w slot0) :
    Met ops sh pre :=
  met_at (at0 w ops) (blkOf w) w slot0 ops sh pre rfl rfl rfl hs rfl rfl hu hp

/-- A lane operation that is not long and whose operands are settled in the tests' block. -/
def opensB (op : LaneOp) (sh : Shape) : Bool := !op.long && unhinderedB sh blk0 warp0 slot0
/-- Some type and operands open a row of sub-format A; `rnd`: the row rounds; `lk`: it takes a modifier. -/
def rowOpen (uni rnd lk : Bool) (ops : FmtA → Option LaneOp) : Bool :=
  let regs : List (BitVec 9 × BitVec 9) := [(4, 8), (352, 8), (336, 8), (272, 280)]
  (List.range 8).any (fun ty => regs.any (fun dr =>
    let f : FmtA := { noA with d := dr.1, a := dr.2, b := dr.2, c := dr.2, ty := BitVec.ofNat 3 ty }
    [f, { f with b := 0 }, { f with c := 0 }, { f with b := 0, c := 0 }, { f with c := 352 }].any (fun f => match ops f with
      | some op => unhinderedB (shapeA (some op) uni rnd lk false f) blk0 warp0 slot0
      | none => false)))

theorem wit_ShortIntegerRowsComplete :
    Met (.s16 { d := 3, s := 1 }) (shapeX (lopAdd tyI32) false true (opnds16 false { d := 3, s := 1 })) always ∧
    Met (.l32 { d := 3, a := 1, b := 2 }) (shapeX (lopAdd tyI32) false true (opndsDab { d := 3, a := 1, b := 2 })) always ∧
    Met (.l32 { d := 3, a := 1, b := 127 }) (shapeX (lopAdd tyI32) false true (opndsDai { d := 3, a := 1, b := 127 })) always :=
  ⟨met0 warp0 _ _ _ rfl (by decide) trivial, met0 warp0 _ _ _ rfl (by decide) trivial, met0 warp0 _ _ _ rfl (by decide) trivial⟩
/-- Every row of the long integer statement is open for some type and operands. -/
theorem wit_LongFormIntegerRowsComplete : ([
    (fun f => some (lopAdd (intTy f.ty))), (fun f => some (lopMadLo (intTy f.ty))), (fun f => lopMulFull (intTy f.ty)),
    (fun f => lopMadFull (intTy f.ty)), (fun f => some (lopMin (intTy f.ty))), (fun f => some (lopAddSat (intTy f.ty))),
    (fun f => (bitTy f.ty).map lopAnd), (fun f => (bitTy f.ty).map lopAndn), (fun f => (bitTy f.ty).map lopShl),
    (fun f => (bitTy f.ty).map lopRotl), (fun f => (bitTy f.ty).map lopBfi), (fun f => some (lopShr (intTy f.ty))),
    (fun f => some (lopBfe (intTy f.ty))), (fun f => some (lopCmpEq (intTy f.ty))), (fun f => some (lopCmpGe (intTy f.ty))),
    (fun f => (bitTy f.ty).map lopSel), (fun f => (bitTy f.ty).bind lopLea)].all (rowOpen false false true) &&
   [(fun f => signedOnly (intTy f.ty) (lopAbs (intTy f.ty))), (fun f => signedOnly (intTy f.ty) (lopNeg (intTy f.ty))),
    (fun f => (bitTy f.ty).map lopNot), (fun f => (bitTy f.ty).map lopPopc), (fun f => (bitTy f.ty).map lopClz),
    (fun f => (bitTy f.ty).map lopCtz), (fun f => (bitTy f.ty).map lopBrev), (fun f => (bitTy f.ty).map lopMov)].all
      (rowOpen false false false)) = true := by decide
theorem wit_FloatRowsComplete : ([
    (fun (f : FmtA) => (floatTy f.ty).map (fun t => lopFadd t (rmodeFld f.rnd))),
    (fun f => (floatTy f.ty).map (fun t => lopFmul t (rmodeFld f.rnd))),
    (fun f => (floatTy f.ty).map (fun t => lopFfma t (rmodeFld f.rnd)))].all (rowOpen false true true) &&
   [(fun (f : FmtA) => (floatTy f.ty).map lopFmin), (fun f => (scalarTy f.ty).map lopFcmpEq), (fun f => (scalarTy f.ty).map lopFcmpUn),
    (fun f => (floatTy f.ty).map lopFsel)].all (rowOpen false false true) &&
   [(fun (f : FmtA) => (floatTy f.ty).map lopFabs), (fun f => (scalarTy f.ty).map lopFclass),
    (fun f => (scalarTy f.ty).map (lopApprox .rcp)), (fun f => (scalarTy f.ty).map (lopApprox .tanh))].all
      (rowOpen false false false)) = true := by decide
/-- Some operands open a conversion for some pair of types and rounding. -/
def cvtOpen (old : Bool) (ops : FmtA → Option LaneOp) : Bool :=
  (List.range 8).any (fun ty => (List.range 16).any (fun c => [((0 : BitVec 9), (4 : BitVec 3)), (8, 4), (0, 0)].any (fun br =>
    let f : FmtA := { noA with d := 4, a := 8, b := br.1, c := BitVec.ofNat 9 c, ty := BitVec.ofNat 3 ty, rnd := br.2 }
    match ops f with
    | some op => let x : Opnds := { opndsA f with c := if old then opd9 f.d else .zero }
      unhinderedB { opcodeBad := badA f true true (op.bW != 0) false true true (op.bW != 0),
                    fields := op.fields false x (f.strict &&& 3) } blk0 warp0 slot0
    | none => false)))
theorem wit_ConversionRowsComplete : (cvtOpen false lopCvtFloat && cvtOpen false lopCvtNarrow && cvtOpen false lopCvtInt &&
    cvtOpen false lopCvtE8m0 && cvtOpen true lopCvtPk && cvtOpen false lopCvtUpk) = true := by decide
theorem wit_LongOperationsIssue :
    Met (.a { noA with d := 6, a := 1, b := 2 }) (shapeA (some (lopDiv (intTy 4))) false false true false { noA with d := 6, a := 1, b := 2 })
      (fun s r _ w sl => effMask w sl ≠ 0 ∧ longCount s r < 2) ∧
    Met (.a { noA with d := 6, a := 1, ty := 0, rnd := 4 })
      (shapeA (some (lopFsqrt tyF32 (rmodeFld 4))) false true false false { noA with d := 6, a := 1, ty := 0, rnd := 4 })
      (fun s r _ w sl => effMask w sl ≠ 0 ∧ longCount s r < 2) :=
  ⟨met0 warp0 _ _ _ rfl (by decide) (by decide), met0 warp0 _ _ _ rfl (by decide) (by decide)⟩
theorem wit_UniformRowsComplete :
    (rowOpen true false false (fun f => some (lopAdd (intTy f.ty))) && rowOpen true false false (fun f => (bitTy f.ty).map lopMov)) = true ∧
    Met (.l32 { d := 120, a := 112, b := 8 }) (shapeX (lopAdd tyI32) true true (opndsDai { d := 120, a := 112, b := 8 })) always :=
  ⟨by decide, met0 warp0 _ _ _ rfl (by decide) trivial⟩

/-- Predicates p0 to p2 as operands. -/
def fP : FmtA := { noA with d := 352, a := 353, b := 354, ty := 0 }
theorem wit_PredicateRowsComplete :
    Met (.a fP) (predShape true fP) always ∧ Met (.a { fP with b := 0 }) (predShape false { fP with b := 0 }) always ∧
    Met (.a { fP with a := 272, b := 0 }) (psetShape { fP with a := 272, b := 0 }) always ∧
    Met (.a { fP with d := 272, b := 0 }) (pgetShape { fP with d := 272, b := 0 }) always :=
  ⟨met0 warp0 _ _ _ rfl (by decide) trivial, met0 warp0 _ _ _ rfl (by decide) trivial, met0 warp0 _ _ _ rfl (by decide) trivial,
   met0 warp0 _ _ _ rfl (by decide) trivial⟩
def fV : FmtA := { noA with d := 4, a := 8, b := 9, ty := 0 }
theorem wit_LaneReadsComplete : ([(0, (0 : BitVec 9)), (0, 1), (1, 0), (1, 1), (2, 0), (2, 1), (3, 0)].all (fun kc => [(0 : BitVec 3), 1].all (fun ty =>
    unhinderedB (lrdShape kc.1 { fV with c := kc.2, ty := ty }) blk0 warp0 slot0))) = true := by decide
theorem wit_LaneSetsComplete :
    Met (.a { fV with d := 352, b := 0 }) (alikeShape { fV with d := 352, b := 0 }) always ∧
    Met (.a { fV with b := 0 }) (alikeShape { fV with b := 0 }) (fun _ _ _ _ _ => alikeW { fV with b := 0 } = 1) ∧
    Met (.a { fV with b := 0, ty := 1 }) (alikeShape { fV with b := 0, ty := 1 }) (fun _ _ _ _ _ => alikeW { fV with b := 0, ty := 1 } = 2) ∧
    Met (.a { fP with b := 0 }) (truthShape { fP with b := 0 }) always ∧
    Met (.a { fP with d := 272, b := 0 }) (truthShape { fP with d := 272, b := 0 }) always ∧
    Met (.a { fP with a := 0, b := 0 }) (lfirstShape { fP with a := 0, b := 0 }) always ∧
    Met (.a { fP with d := 272, b := 0 }) (countShape { fP with d := 272, b := 0 }) always :=
  ⟨met0 warp0 _ _ _ rfl (by decide) trivial, met0 warp0 _ _ _ rfl (by decide) rfl, met0 warp0 _ _ _ rfl (by decide) rfl,
   met0 warp0 _ _ _ rfl (by decide) trivial, met0 warp0 _ _ _ rfl (by decide) trivial, met0 warp0 _ _ _ rfl (by decide) trivial,
   met0 warp0 _ _ _ rfl (by decide) trivial⟩
/-- Some combination and operands open lred and lscan. -/
theorem wit_LaneReductionsComplete : ([false, true].all (fun scan => (List.range 8).any (fun ty => (List.range 16).any (fun c =>
    [(272 : BitVec 9), 4].any (fun d =>
      let f : FmtA := { noA with d := d, a := 8, c := BitVec.ofNat 9 c, ty := BitVec.ofNat 3 ty }
      match redComb scan f with
      | some k => unhinderedB (redShape scan k f) blk0 warp0 slot0
      | none => false))))) = true := by decide
def slotTrade : IssueSlot :=
  { active := [(0, 0, 0)], pending := [(1, 0, 0)], last := none, run := 0, issuedAt := none, readySince := [], passed := [], trade := true }
/-- The tests' core, its issue slot 0 with the place of the issuing warp up for trade and a Ready warp of block 1 pending. -/
def atTrade : State :=
  { at0 warp0 (.l32 noL) with
    blocks := [{ blk0 with warps := [warp0] }, { blk0 with bid := 1, gangId := 1, warps := [warp0] }],
    cores := [(0, { Core.init with schedmode := false, issue := [slotTrade] })] }
theorem wit_PassingRowsComplete :
    (∃ b w q, atTrade.block? ref0.bid = some b ∧ b.warps[ref0.wi]? = some w ∧ (atTrade.core b.core).issue[w.issueSlot]? = some q ∧
      q.trade = true ∧ q.active.any (fun x => x.1 == ref0.bid && x.2.1 == ref0.wi) = true ∧
      q.pending.find? (fun x => refReady (atTrade.updCore b.core (fun c =>
        { c with issue := c.issue.modify w.issueSlot (fun q => { q with trade := false }) })) x.1 x.2.1) = some (1, 0, 0)) ∧
    Met (.l32 noL) (ctlL noL false) always ∧
    Met (.b { noB with a := 272, ty := 0 }) (ctlB { noB with a := 272, ty := 0 } false true false [usrcFld (opd9 272) false]) always ∧
    Met (.a { noA with d := 265, a := 272, c := 1, ty := 0 }) (lcmovShape { noA with d := 265, a := 272, c := 1, ty := 0 }) always ∧
    Met (.a { noA with d := 272, a := 265, c := 2, ty := 0 }) (lcmovShape { noA with d := 272, a := 265, c := 2, ty := 0 }) always ∧
    Met (.pblk { p := 2, c := 2, t := 3, z := 0 }) (pblkShape { p := 2, c := 2, t := 3, z := 0 }) always ∧
    Met (.ordp { o := 2, s := 2, z := 0 }) (ordpShape { o := 2, s := 2, z := 0 }) always :=
  ⟨⟨_, _, slotTrade, rfl, rfl, rfl, rfl, by decide, by decide⟩,
   met0 warp0 _ _ _ rfl (by decide) trivial, met0 warp0 _ _ _ rfl (by decide) trivial, met0 warp0 _ _ _ rfl (by decide) trivial,
   met0 warp0 _ _ _ rfl (by decide) trivial, met0 warp0 _ _ _ rfl (by decide) trivial, met0 warp0 _ _ _ rfl (by decide) trivial⟩
/-- Predicate p0 is true in the lanes of `m`. -/
def warpP (m : Word) : Warp := { warp0 with p := [(0, m)] }
/-- `bra p0` to +4 bytes, joining at +8. -/
def fBra : FmtB := { noB with a := 352, ty := 0, imm := 0x00040002 }
theorem wit_BranchesComplete :
    let taken (w : Warp) (sl : Slot) : Word := readPred w (opd9 fBra.a) &&& sl.path.mask
    Met (.b fBra) (braShape fBra) (fun _ _ _ w sl => taken w sl = 0) ∧
    Met (.b fBra) (braShape fBra) (fun _ _ _ w sl => taken w sl ≠ 0 ∧ sl.path.mask &&& ~~~(taken w sl) = 0) ∧
    Met (.b fBra) (braShape fBra) (fun _ r _ w sl => (taken w sl ≠ 0 ∧ sl.path.mask &&& ~~~(taken w sl) ≠ 0) ∧ r.slot < 2 ∧
      (∃ o, w.slots[1 - r.slot]? = some o ∧ o.live = false) ∧ sl.path.rpc = none ∧ w.spill.length ≤ w.spillDepth) ∧
    Met (.b fBra) (braShape fBra) (fun s r b w sl => let n := branchNeed (ctxOf .bra (.b fBra) r b w sl) (sl.path.pc + 8)
      (taken w sl ≠ 0 ∧ sl.path.mask &&& ~~~(taken w sl) ≠ 0) ∧ r.slot < 2 ∧ w.slots.length = 2 ∧ n ≠ 0 ∧ w.spill.length + n ≤ w.spillDepth ∧
        StackUsable .bra (.b fBra) s r b w sl w.spill.length (w.spill.length + n)) ∧
    Met (.b fBra) (braShape fBra) (fun _ r b w sl => (taken w sl ≠ 0 ∧ sl.path.mask &&& ~~~(taken w sl) ≠ 0) ∧
      w.spillDepth < w.spill.length + branchNeed (ctxOf .bra (.b fBra) r b w sl) (sl.path.pc + 8)) ∧
    Met (.b { fBra with a := 272 }) (braUniformShape .usrc { fBra with a := 272 }) always ∧
    Met (.b fBra) (braUniformShape .pred fBra) always ∧
    Met (.a { noA with a := 272, b := 273, ty := 0 }) (braIdxShape { noA with a := 272, b := 273, ty := 0 }) always :=
  ⟨met0 warp0 _ _ _ rfl (by decide) (by decide), met0 (warpP (BitVec.allOnes 32)) _ _ _ rfl (by decide) (by decide),
   met0 (warpP 1) _ _ _ rfl (by decide) ⟨by decide, by decide, ⟨Slot.empty, rfl, rfl⟩, rfl, by decide⟩,
   met_at (let w := { warpP 1 with slots := [{ slot0 with path := { slot0.path with rpc := some 0 } }, { slot0 with path := { slot0.path with mask := 0 } }] }
           atUp w (.b fBra)) _ _ _ _ _ _ rfl rfl rfl rfl rfl rfl (by decide) ⟨by decide, by decide, rfl, by decide, by decide, by unfold StackUsable; decide⟩,
   met_at (let w := { warpP 1 with spillDepth := 0, slots := [{ slot0 with path := { slot0.path with rpc := some 0 } }, { slot0 with path := { slot0.path with mask := 0 } }] }
           at0 w (.b fBra)) _ _ _ _ _ _ rfl rfl rfl rfl rfl rfl (by decide) (by decide),
   met0 warp0 _ _ _ rfl (by decide) trivial, met0 warp0 _ _ _ rfl (by decide) trivial, met0 warp0 _ _ _ rfl (by decide) trivial⟩
theorem wit_CallsComplete : Met (.b { noB with ty := 0 }) (callShape { noB with ty := 0 }) always ∧
    Met (.a { noA with a := 8, ty := 0 }) (callIdxShape { noA with a := 8, ty := 0 }) always ∧ Met (.l32 noL) (retShape noL) always :=
  ⟨met0 warp0 _ _ _ rfl (by decide) trivial, met0 warp0 _ _ _ rfl (by decide) trivial, met0 warp0 _ _ _ rfl (by decide) trivial⟩
/-- `loop` by lc0, count 3, ending 18 bytes on (R349's example). -/
def fLoop : FmtB := { noB with a := 265, ty := 0, imm := 0x00030009 }
/-- A warp with one open level of counter lc0. -/
def warpL : Warp := { warp0 with levels := [{ start := 0, stop := 0x20000, lc := false }] }
theorem wit_LoopsComplete :
    Met (.b fLoop) (loopShape fLoop) (fun _ r _ w _ => otherPath w r.slot = false ∧ w.levels = []) ∧
    Met (.b { fLoop with imm := 9 }) (loopShape { fLoop with imm := 9 }) (fun _ r _ w _ => otherPath w r.slot = false ∧ w.levels = []) ∧
    Met (.b fLoop) (loopShape fLoop) (fun _ _ _ w _ => ∃ o, w.levels = [o] ∧ o.lc = false) :=
  ⟨met0 warp0 _ _ _ rfl (by decide) (by decide), met0 warp0 _ _ _ rfl (by decide) (by decide),
   met0 warpL _ _ _ rfl (by decide) ⟨_, rfl, rfl⟩⟩
/-- Two paths: slot 0 holds lanes 0-15, slot 1 the others; both rejoin at 0x10000, where `wait` says how slot 1 waits. -/
def warp2 (wait : Wait) (pc : DWord) : Warp :=
  let sl (m : Word) (pc : DWord) : Slot := { slot0 with path := { pc := pc, rpc := some 0x10000, mask := m } }
  { warp0 with slots := [sl 0xFFFF 0x10000, { sl 0xFFFF0000 pc with wait := wait }] }
/-- One path of lanes 0-15 in slot 0, the others spilled: a path that runs to `pc`, or one that waits there at its join. -/
def warp3 (pc : DWord) : Warp :=
  { warp0 with slots := [{ slot0 with path := { slot0.path with rpc := some pc, mask := 0xFFFF } }, Slot.empty],
               spill := [.path { pc := 0x18000, rpc := some pc, mask := 0xFFFF0000 } false] }
def warp4 (pc : DWord) : Warp :=
  { warp0 with slots := [{ slot0 with path := { slot0.path with rpc := some 0x10000, mask := 0xFFFF } }, Slot.empty],
               spill := [.path { pc := 0x18000, rpc := some pc, mask := 0xFFFF0000 } false] }
/-- A warp whose log holds a memory effect. -/
def warpHeld : Warp := { warp0 with log := [{ LogEnt.empty with state := .pending, memfx := true }] }
theorem wit_ExitAndJoinComplete :
    Met (.l32 noL) (ctlL noL false) (fun _ r _ w _ => otherPath w r.slot = false ∧ w.heldFx = false) ∧
    Met (.l32 noL) (ctlL noL false) (fun _ r _ w _ => otherPath w r.slot = false ∧ w.heldFx = true) ∧
    Met (.l32 noL) (ctlL noL false) (fun _ r _ w sl => w.spill = [] ∧ w.slots.length = 2 ∧ r.slot < 2 ∧
      ∃ o, w.slots[1 - r.slot]? = some o ∧ o.live = true ∧ o.path.mask &&& ~~~sl.path.mask ≠ 0) ∧
    Met (.l32 noL) (ctlL noL false) (fun s r b w sl => (∃ p j, .path p j ∈ w.spill ∧ p.mask &&& ~~~sl.path.mask ≠ 0) ∧
      StackUsable .exit (.l32 noL) s r b w sl 0 w.spill.length) ∧
    Met (.l32 noL) (ctlL noL false) (fun _ _ _ _ sl => sl.path.rpc ≠ some sl.path.pc) ∧
    Met (.l32 noL) (ctlL noL false) (fun _ r _ w sl => sl.path.rpc = some sl.path.pc ∧ (0 < w.running (some r.slot) sl.path.pc ∨ w.joinTo sl.path.pc = true)) ∧
    Met (.l32 noL) (ctlL noL false) (fun _ r _ w sl => sl.path.rpc = some sl.path.pc ∧ w.spill = [] ∧ w.slots.length = 2 ∧ r.slot < 2 ∧
      ∃ o, w.slots[1 - r.slot]? = some o ∧ o.waitsAt sl.path.pc = true) ∧
    Met (.l32 noL) (ctlL noL false) (fun s r b w sl => sl.path.rpc = some sl.path.pc ∧ w.running (some r.slot) sl.path.pc = 0 ∧
      w.joinTo sl.path.pc = false ∧ w.spill ≠ [] ∧ StackUsable .join (.l32 noL) s r b w sl 0 w.spill.length) :=
  ⟨met0 warp0 _ _ _ rfl (by decide) (by decide), met0 warpHeld _ _ _ rfl (by decide) (by decide),
   met_at (at0 (warp2 .ready 0x20000) (.l32 noL)) _ _ _ _ _ _ rfl rfl rfl rfl rfl rfl (by decide) ⟨rfl, rfl, by decide, _, rfl, by decide⟩,
   met_at (atUp (warp3 0x20000) (.l32 noL)) _ _ _ _ _ _ rfl rfl rfl rfl rfl rfl (by decide) ⟨⟨_, _, List.mem_singleton.mpr rfl, by decide⟩, by unfold StackUsable; decide⟩,
   met0 warp0 _ _ _ rfl (by decide) (by decide),
   met_at (at0 (warp2 .ready 0x20000) (.l32 noL)) _ _ _ _ _ _ rfl rfl rfl rfl rfl rfl (by decide) (by decide),
   met_at (at0 (warp2 .join 0x10000) (.l32 noL)) _ _ _ _ _ _ rfl rfl rfl rfl rfl rfl (by decide) ⟨rfl, rfl, rfl, by decide, _, rfl, by decide⟩,
   met_at (atUp (warp4 0x20000) (.l32 noL)) _ _ _ _ _ _ rfl rfl rfl rfl rfl rfl (by decide) ⟨rfl, by decide, by decide, by decide,
     by unfold StackUsable; decide⟩⟩

/-- A statement about the lanes of a mask, lane by lane. -/
theorem lanes_all {m : Word} {p : Nat → Prop} (h : ∀ j < 32, m.getLsbD j = true → p j) : ∀ j, m.getLsbD j = true → p j :=
  fun j hj => h j (BitVec.lt_of_getLsbD hj) hj

/-- A grid with a handler, and one without. -/
def blkH : Block := { blk0 with lrec := { probeRecord with handler := 0x40001 } }
def grid0 : Grid := newGrid 0 { tok := 0, bytes := [], addr := 0, dk := 0, secure := false, priv := true, scope := none, tag := none, path := none, queue := none, reject := false } probeRecord (1, 0) 0
def trapped : Warp := { warp0 with csr := { warp0.csr with status := warp0.csr.status ||| 1, faultem := 0xFF, faultpc := 0x10010 } }
theorem wit_HandlerEntrySavesTheFault : blkH.warps[0]? = some warp0 ∧ warp0.slots[0]? = some slot0 ∧ blkH.lrec.handler ≠ 0 ∧
    codeTrap ≠ codeEcc ∧ warp0.inTrap = false := by decide
/-- A state with the faulting block and a block of another gang. -/
def twoGangs : State := { State.reset with grids := [grid0], blocks := [blk0, { blk0 with bid := 1, gangId := 1 }] }
theorem wit_FaultRecordEndsTheGang : twoGangs.block? 0 = some blk0 ∧ blk0.warps[0]? = some warp0 ∧ twoGangs.grid? blk0.gid = some grid0 ∧
    blk0.lrec.handler = 0 ∧ (∃ x, twoGangs.block? 1 = some x ∧
      ∀ y ∈ twoGangs.blocks, y.gangId = blk0.gangId → twoGangs.block? y.bid = some y ∧ y.bid ≠ x.bid) ∧ trapped.inTrap = true :=
  ⟨by decide, by decide, by decide, by decide, ⟨{ blk0 with bid := 1, gangId := 1 }, by decide, by decide⟩, by decide⟩
theorem wit_TretReturnsFromTheHandler :
    Met (.a { noA with ty := 0 }) (tretShape { noA with ty := 0 }) (fun _ _ _ w _ => w.inTrap = false) ∧
    Met (.a { noA with ty := 0 }) (tretShape { noA with ty := 0 })
      (fun _ _ _ w sl => w.inTrap = true ∧ w.heldFx = false ∧ w.csr.faultem &&& sl.path.mask ≠ 0) ∧
    Met (.a { noA with ty := 0 }) (tretShape { noA with ty := 0 }) (fun _ _ _ w _ => w.inTrap = true ∧ w.heldFx = true) ∧
    Met (.a { noA with ty := 0 }) (tretShape { noA with ty := 0 })
      (fun _ r _ w sl => w.inTrap = true ∧ w.heldFx = false ∧ w.csr.faultem &&& sl.path.mask = 0 ∧ otherPath w r.slot = false) :=
  ⟨met0 warp0 _ _ _ rfl (by decide) (by decide), met0 trapped _ _ _ rfl (by decide) (by decide),
   met0 { trapped with log := warpHeld.log } _ _ _ rfl (by decide) (by decide),
   met0 { trapped with csr := { trapped.csr with faultem := 0 } } _ _ _ rfl (by decide) (by decide)⟩
/-- Trap code 63, the last; the first negative one is 64. -/
theorem wit_TrapRaisesItsCode :
    Met (.l32 { noL with b := 63 }) (ctlL { noL with b := 63 } true) always ∧ Met (.b { noB with ty := 0 }) (ctlB { noB with ty := 0 } false false false []) always ∧
    (64 : BitVec 7).getLsbD 6 = true ∧ (63 : BitVec 7).getLsbD 6 = false :=
  ⟨met0 warp0 _ _ _ rfl (by decide) trivial, met0 warp0 _ _ _ rfl (by decide) trivial, by decide, by decide⟩
/-- `nop` with a bit in B. -/
theorem wit_IllFormedRaisesIllegalOpcode : ∃ (x : Ins) (s : State) (r : PathRef) (b : Block) (w : Warp) (sl : Slot),
    x.instr.row.1 ≠ .event ∧ x.shaped = true ∧ x.wf = false ∧ Issuing s r b w sl ∧ s.ops = x.ops :=
  ⟨{ instr := .nop, ops := .l32 { noL with b := 1 } }, at0 warp0 (.l32 { noL with b := 1 }), ref0, _, _, _, by decide, by decide, by decide,
   ⟨rfl, rfl, rfl, rfl, rfl⟩, rfl⟩
/-- A warp without privilege. -/
def user : Warp := { warp0 with csr := { warp0.csr with status := 0 } }
/-- Each privileged form, and a register access with a privileged number, has its encoding and roles valid in a warp without privilege. -/
def turnedB (sh : Shape) : Bool := !user.priv && !sh.opcodeBad && sh.priv && decide (reachCount slot0.reach = 0) &&
  sh.fields.all (fun f => roleOk 248 f.role f.words f.opd)
theorem wit_PrivilegedFormsRaisePriv :
    (turnedB (hphaseShape { noA with a := 272, ty := 0 }) && turnedB (wswitchShape { noA with a := 272, ty := 0 }) && turnedB (haltShape { noA with ty := 0 }) &&
     turnedB (xlatShape { noA with a := 272, b := 274, ty := 0 }) && turnedB (pgmigShape { noA with d := 276, a := 272, b := 274, ty := 0 }) &&
     turnedB (classShape { noA with d := 276, a := 272, b := 274, c := 275, ty := 0 }) &&
     turnedB (csrShape { noB with d := 272, ty := 0, imm := 0x40 } false false) && turnedB (csrShape { noB with a := 272, ty := 0, imm := 0x40 } true false) &&
     turnedB (csrShape { noB with a := 272, ty := 0, imm := 0x1C } true false)) = true := by decide

/-- FP32: signalling and quiet NaN, infinities, one, zero, as the special-value statement takes them. -/
theorem wit_FloatSpecialValues :
    let isNan (v : Word) : Prop := v.extractLsb' 23 8 = 0xFF ∧ v.extractLsb' 0 23 ≠ 0
    let isInf (v : Word) : Prop := v.extractLsb' 0 31 = 0x7F800000
    let finite (v : Word) : Prop := v.extractLsb' 23 8 ≠ 0xFF
    (0 : Word).getLsbD 8 = false ∧ isNan 0x7F800001 ∧ isNan 0xFFFFFFFF ∧ isInf 0x7F800000 ∧ isInf 0xFF800000 ∧ finite 0x7F7FFFFF ∧
      finite 0x80000001 ∧ ¬isNan 0x7F800000 ∧ (0x80000000 : Word).extractLsb' 0 31 = 0 := by decide
/-- The clauses of division at 8 bits: by zero, the smallest by -1, and another pair. -/
theorem wit_DivisionValues : (BitVec.intMin 8 = 0x80) ∧ (BitVec.allOnes 8 = 0xFF) ∧ (7 : BitVec 8) ≠ 0 := by decide
/-- Types with and without full products and address forms. -/
theorem wit_IntegerValues : (lopMulFull { bits := 32, signed := true }).isSome = true ∧ (lopLea { bits := 64, signed := false }).isSome = true := by
  decide
theorem wit_LogicValues : (bitTy 3).isSome = true := by decide
/-- At and beyond the width: 8 bits shifted by 7 and by 8. -/
theorem wit_ShiftValues : (7 : Nat) < 8 ∧ (8 : Nat) ≤ 8 ∧ (0x81 : BitVec 8) <<< 8 = 0 := by decide

/-- Addresses for the tests: v8:v9 hold 0x1000 of owner 0, v12:v13 the start of the own scratchpad, v16:v17 an offset in it; h0 and k8:k9
hold 0x1000. -/
def warpM : Warp :=
  let all (x : Word) : List Word := List.replicate 32 x
  { warp0 with v := [(8, all 0x1000), (9, all 0), (12, all 0), (13, all (62 * 2 ^ 19)), (16, all 0x40), (17, all 0)], k := [(8, 0x1000), (9, 0)],
               h := [(0, List.replicate 32 0x1000)] }
def fMem (base data : BitVec 9) : FmtC := { noC with d := 4, base := base, data := data }
/-- `AccessFree` as a test. -/
def accessFreeB (s : State) (c : Ctx) (mo : MemOrd) (reads : Bool) (codes : DWord → List (BitVec 8)) (raw va : Nat → DWord) : Bool :=
  decide (c.m ≠ 0) && lanes32.all (fun j => !c.m.getLsbD j || codes (raw j) == []) && !memWaits c s mo reads va && !slotsTaken s c.blk.core
theorem accessFree_of {s : State} {c : Ctx} {mo : MemOrd} {reads : Bool} {codes : DWord → List (BitVec 8)} {raw va : Nat → DWord}
    (h : accessFreeB s c mo reads codes raw va = true) : c.m ≠ 0 ∧ AccessFree s c mo reads codes raw va ∧ SlotsFree s c va := by
  simp only [accessFreeB, Bool.and_eq_true, Bool.not_eq_true', decide_eq_true_eq, List.all_eq_true, Bool.or_eq_true, beq_iff_eq] at h
  obtain ⟨⟨⟨h1, h2⟩, h3⟩, h4⟩ := h
  refine ⟨h1, ⟨lanes_all fun j hj hm => ?_, h3⟩, .inl h4⟩
  have := h2 j (by simp [lanes32, hj])
  simpa [hm] using this
def accessPre (i : Instr) (ops : Ops) (mo : Ctx → MemOrd) (reads : Bool) (codes : State → Block → Warp → DWord → List (BitVec 8))
    (raw va : Ctx → Nat → DWord) : State → PathRef → Block → Warp → Slot → Prop := fun s r b w sl =>
  let c := ctxAt s i ops r b w sl
  c.m ≠ 0 ∧ AccessFree s c (mo c) reads (codes s b w) (raw c) (va c) ∧ SlotsFree s c (va c)
/-- The lines of a store's weak lanes; and its premises, with room for them in the write buffer. -/
def storeLines (mo : Ctx → MemOrd) (va : Ctx → Nat → DWord) (c : Ctx) : List Nat :=
  ((lanesOf c.m).filter (fun j => ownerOf (va c j) != 62 && !laneStrong (mo c) (va c j))).map (fun j => vlineOf (va c j))
def storePre (i : Instr) (ops : Ops) (mo : Ctx → MemOrd) (codes : State → Block → Warp → DWord → List (BitVec 8))
    (raw va : Ctx → Nat → DWord) : State → PathRef → Block → Warp → Slot → Prop := fun s r b w sl =>
  let c := ctxAt s i ops r b w sl
  c.m ≠ 0 ∧ AccessFree s c (mo c) false (codes s b w) (raw c) (va c) ∧
    (slotsTaken s b.core = false ∨ ∀ j, c.m.getLsbD j = true → (ownerOf (va c j) != 62 && laneStrong (mo c) (va c j)) = false) ∧
    BufferRoom (s.core b.core) (storeLines mo va c)
theorem storePre_of {i : Instr} {ops : Ops} {mo : Ctx → MemOrd} {codes : State → Block → Warp → DWord → List (BitVec 8)}
    {raw va : Ctx → Nat → DWord} {s : State} {r : PathRef} {b : Block} {w : Warp} {sl : Slot}
    (h : accessPre i ops mo false codes raw va s r b w sl) (ht : slotsTaken s b.core = false)
    (hb : BufferRoom (s.core b.core) (storeLines mo va (ctxAt s i ops r b w sl))) : storePre i ops mo codes raw va s r b w sl :=
  ⟨h.1, h.2.1, .inl ht, hb⟩
/-- A path with no active lane skips (the `Skips` statements). -/
def warpNone : Warp := { warpM with slots := [{ slot0 with path := { slot0.path with mask := 0 } }, Slot.empty] }

/-- A load of owner 0, one of the scratchpad, one in L32, and `ldk`. -/
theorem wit_LoadsComplete :
    Met (.c (fMem 8 0)) (memLdShape false (fMem 8 0)) (accessPre .ld (.c (fMem 8 0)) (fun _ => ordC (fMem 8 0) false) true (plainCodes 4 false) (vaC (fMem 8 0)) (vaC (fMem 8 0))) ∧
    Met (.c { fMem 12 0 with width := 0 }) (memLdShape true { fMem 12 0 with width := 0 }) (accessPre .ldSx (.c { fMem 12 0 with width := 0 }) (fun _ => ordC (fMem 12 0) false) true (plainCodes 1 false) (vaC (fMem 12 0)) (vaC (fMem 12 0))) ∧
    Met (.l32 { d := 4, a := 8, b := 127 }) (memLdLShape 1 { d := 4, a := 8, b := 127 })
      (accessPre .ldI8L32 (.l32 { d := 4, a := 8, b := 127 }) (fun c => ordL c false) true (plainCodes 1 false) (vaL { d := 4, a := 8, b := 127 }) (vaL { d := 4, a := 8, b := 127 })) ∧
    Met (.c { fMem 280 0 with d := 272 }) (memLdkShape { fMem 280 0 with d := 272 })
      (accessPre .ldk (.c { fMem 280 0 with d := 272 }) (fun _ => .default false) true (plainCodes 4 false) (vaC (fMem 280 0)) (vaC (fMem 280 0))) ∧
    Met (.c (fMem 8 0)) (memLdShape false (fMem 8 0)) (fun _ _ _ w sl => effMask w sl = 0) :=
  ⟨met0 warpM _ _ _ rfl (by decide) (accessFree_of (by decide)), met0 warpM _ _ _ rfl (by decide) (accessFree_of (by decide)),
   met0 warpM _ _ _ rfl (by decide) (accessFree_of (by decide)), met0 warpM _ _ _ rfl (by decide) (accessFree_of (by decide)),
   met_at (at0 warpNone (.c (fMem 8 0))) _ _ _ _ _ _ rfl rfl rfl rfl rfl rfl (by decide) (by decide)⟩
/-- A store to owner 0, whose line finds room in the write buffer, and one to the scratchpad. -/
theorem wit_StoresComplete :
    Met (.c { fMem 8 4 with d := 0 }) (memStShape { fMem 8 4 with d := 0 })
      (storePre .st (.c { fMem 8 4 with d := 0 }) (fun _ => ordC (fMem 8 4) false) (plainCodes 4 true) (vaC (fMem 8 4)) (vaC (fMem 8 4))) ∧
    Met (.l32 { d := 4, a := 12, b := 0 }) (memStLShape 8 { d := 4, a := 12, b := 0 })
      (storePre .stB64L32 (.l32 { d := 4, a := 12, b := 0 }) (fun c => ordL c false) (plainCodes 8 true) (vaL { d := 4, a := 12, b := 0 }) (vaL { d := 4, a := 12, b := 0 })) :=
  ⟨met0 warpM _ _ _ rfl (by decide) (storePre_of (accessFree_of (by decide)) (by decide) (by unfold BufferRoom; decide)),
   met0 warpM _ _ _ rfl (by decide) (storePre_of (accessFree_of (by decide)) (by decide) (by unfold BufferRoom; decide))⟩
/-- The tests' block with a mirror window of 1 KiB. -/
def blkStm : Block := { blkOf warpM with lrec := { probeRecord with mirror := 1 } }
def atStm : State := { at0 warpM (.c { fMem 16 4 with d := 0 }) with blocks := [blkStm] }
/-- lds, sts and stm at offset 0x40. -/
theorem wit_ScratchpadFormsComplete :
    Met (.c (fMem 16 0)) (memLdsShape false (fMem 16 0))
      (accessPre .lds (.c (fMem 16 0)) (fun _ => .bank) true (bankCodes 4 false) (vaC (fMem 16 0)) (fun c j => sliceEa (vaC (fMem 16 0) c j))) ∧
    Met (.c { fMem 16 4 with d := 0 }) (memStsShape { fMem 16 4 with d := 0 })
      (storePre .sts (.c { fMem 16 4 with d := 0 }) (fun _ => .bank) (bankCodes 4 true) (vaC (fMem 16 4)) (fun c j => sliceEa (vaC (fMem 16 4) c j))) ∧
    unhinderedB (memStmShape { fMem 16 4 with d := 0 }) blkStm warpM slot0 = true ∧
    (let s := atStm; let c := ctxAt s .stm (.c { fMem 16 4 with d := 0 }) ref0 blkStm warpM slot0
     s.block? 0 = some blkStm ∧ lanes32.all (fun j => (vaC (fMem 16 4) c j).toNat == 0x40 &&
       !lockHit s blkStm (sliceVa (1024 * (blkStm.lrec.scratch - 1) + 0x40)) 4 true && !bankHeld c s j) = true) :=
  ⟨met0 warpM _ _ _ rfl (by decide) (accessFree_of (by decide)),
   met0 warpM _ _ _ rfl (by decide) (storePre_of (accessFree_of (by decide)) (by decide) (by unfold BufferRoom; decide)), by decide, by decide, by decide⟩
theorem wit_AtomicsComplete :
    Met (.c { fMem 8 4 with d := 5 }) (memAtomShape .add { fMem 8 4 with d := 5 })
      (accessPre .atomAdd (.c { fMem 8 4 with d := 5 }) (fun _ => ordC (fMem 8 4) true) true (fun s b w a => laneCodes s b a 4 true true w.priv) (vaC (fMem 8 4)) (vaC (fMem 8 4))) ∧
    Met (.c { fMem 12 4 with d := 265, order := 1 }) (memAtomShape .cas { fMem 12 4 with d := 265, order := 1 })
      (accessPre .atomCas (.c { fMem 12 4 with d := 265, order := 1 }) (fun _ => ordC { fMem 12 4 with order := 1 } true) true
        (fun s b w a => laneCodes s b a 4 true true w.priv) (vaC (fMem 12 4)) (vaC (fMem 12 4))) ∧
    Met (.l32 { d := 4, a := 8, b := 5 }) (memAtomLShape { d := 4, a := 8, b := 5 })
      (accessPre .atomXchgB32L32 (.l32 { d := 4, a := 8, b := 5 }) (fun c => ordL c true) true (fun s b w a => laneCodes s b a 4 true true w.priv)
        (vaL0 { d := 4, a := 8, b := 5 }) (vaL0 { d := 4, a := 8, b := 5 })) :=
  ⟨met0 warpM _ _ _ rfl (by decide) (accessFree_of (by decide)), met0 warpM _ _ _ rfl (by decide) (accessFree_of (by decide)),
   met0 warpM _ _ _ rfl (by decide) (accessFree_of (by decide))⟩
theorem wit_MemoryReductionsComplete :
    Met (.c { fMem 8 4 with d := 0 }) (memRedShape .fadd { fMem 8 4 with d := 0 })
      (accessPre .redFadd (.c { fMem 8 4 with d := 0 }) (fun _ => ordC (fMem 8 4) true) true (fun s b w a => laneCodes s b a 4 true true w.priv) (vaC (fMem 8 4)) (vaC (fMem 8 4))) ∧
    Met (.l32 { d := 4, a := 8, b := 0 }) (memRedLShape { d := 4, a := 8, b := 0 })
      (accessPre .redAddN32L32 (.l32 { d := 4, a := 8, b := 0 }) (fun c => ordL c true) true (fun s b w a => laneCodes s b a 4 true true w.priv)
        (vaL { d := 4, a := 8, b := 0 }) (vaL { d := 4, a := 8, b := 0 })) :=
  ⟨met0 warpM _ _ _ rfl (by decide) (accessFree_of (by decide)), met0 warpM _ _ _ rfl (by decide) (accessFree_of (by decide))⟩
/-- A core whose write buffer holds a store of the tests' warp to the line at 0x1000. -/
def at0Held (ops : Ops) : State :=
  { at0 warpM ops with
    pends := [{ basePend (ctxOf .st ops ref0 blk0 warpM slot0) with tag := 0, kind := .store, need := 1 }],
    cores := [(0, { Core.init with wb := [(bankOf 0x20, [{ line := 0x20, pieces :=
      [{ tag := 0, bid := 0, wi := 0, lane := 0, va := 0x1000, off := 0, bytes := [1], hint := 0, secure := false, priv := true }], draining := [] }])] })] }
/-- The operation that a range instruction with nothing else held makes. -/
def rangeUnit (s : State) (r : PathRef) (b : Block) (w : Warp) (lo n : Nat) : UnitOp :=
  { op := s.nextId, what := 6, dk := dkOfCk b.core, lo := lo, hi := lo + n, cls := 0, secure := w.secure, waitReqs := [], cores := [],
    tag := none, core := b.core, bid := r.bid, wi := r.wi, host := false, phase := 1 }
/-- waitv, prefetch, cwb without and with a length, and a fence of wafer scope. -/
theorem wit_WaitsPrefetchesRangesAndFencesComplete :
    Met (.c { fMem 8 4 with d := 5 }) (memWaitvShape { fMem 8 4 with d := 5 })
      (accessPre .waitv (.c { fMem 8 4 with d := 5 }) (fun _ => ordC (fMem 8 4) true) true (fun s b w a => laneCodes s b a 4 false true w.priv) (vaC (fMem 8 4)) (vaC (fMem 8 4))) ∧
    Met (.c { fMem 8 0 with d := 0, width := 0 }) (memPrefetchShape { fMem 8 0 with d := 0, width := 0 }) always ∧
    Met (.c { fMem 280 265 with d := 0, width := 0 }) (memRangeShape { fMem 280 265 with d := 0, width := 0 })
      (fun _ r b w _ => (read32 b w r.wi (opd9 265) 0).toNat = 0) ∧
    Met (.c { fMem 280 280 with d := 0, width := 0 }) (memRangeShape { fMem 280 280 with d := 0, width := 0 })
      (fun _ r b w _ => (read32 b w r.wi (opd9 280) 0).toNat ≠ 0) ∧
    Met (.c { fMem 0 0 with d := 0, width := 0, scope := 2 }) (memFenceShape { fMem 0 0 with d := 0, width := 0, scope := 2 })
      (fun s r b w sl => fenceWaits (scopeOf 2) (ctxAt s .fenceAr (.c { fMem 0 0 with d := 0, width := 0, scope := 2 }) r b w sl) s = false) ∧
    Met (.c { fMem 0 0 with d := 0, width := 0, scope := 2 }) (memFenceShape { fMem 0 0 with d := 0, width := 0, scope := 2 })
      (fun s r b w sl => fenceWaits (scopeOf 2) (ctxAt s .fenceAr (.c { fMem 0 0 with d := 0, width := 0, scope := 2 }) r b w sl) s = true) ∧
    Met (.c { fMem 280 280 with d := 0, width := 0 }) (memRangeShape { fMem 280 280 with d := 0, width := 0 })
      (fun s r b w sl => let c := ctxAt s .cwb (.c { fMem 280 280 with d := 0, width := 0 }) r b w sl
        rangeBuffered s (rangeUnit s r b w (vaddr (vaC (fMem 280 280) c 0)) (read32 b w r.wi (opd9 280) 0).toNat) = true) :=
  ⟨met0 warpM _ _ _ rfl (by decide) (accessFree_of (by decide)), met0 warpM _ _ _ rfl (by decide) trivial,
   met0 warpM _ _ _ rfl (by decide) (by decide), met0 warpM _ _ _ rfl (by decide) (by decide), met0 warpM _ _ _ rfl (by decide) (by decide),
   met_at (at0Held (.c { fMem 0 0 with d := 0, width := 0, scope := 2 })) _ _ _ _ _ _ rfl rfl rfl rfl rfl rfl (by decide) (by decide),
   met_at (at0Held (.c { fMem 280 280 with d := 0, width := 0 })) _ _ _ _ _ _ rfl rfl rfl rfl rfl rfl (by decide) (by decide)⟩

/-- `RefFree` as a test. -/
def refFreeB (s : State) (c : Ctx) (mo : MemOrd) (reads : Bool) (base idx : Opd) (off : DWord) (n : Nat) (write : Bool) : Bool :=
  decide (c.m ≠ 0) && lanes32.all (fun j => !c.m.getLsbD j || refCodes s c.blk (read64 c.blk c.warp c.ref.wi base j) (refOff c idx off j) n write == []) &&
    !memWaits c s mo reads (refEa c base idx off) && !slotsTaken s c.blk.core
theorem refFree_of {s : State} {c : Ctx} {mo : MemOrd} {reads : Bool} {base idx : Opd} {off : DWord} {n : Nat} {write : Bool}
    (h : refFreeB s c mo reads base idx off n write = true) : c.m ≠ 0 ∧ RefFree s c mo reads base idx off n write := by
  simp only [refFreeB, Bool.and_eq_true, Bool.not_eq_true', decide_eq_true_eq, List.all_eq_true, Bool.or_eq_true, beq_iff_eq] at h
  obtain ⟨⟨⟨h1, h2⟩, h3⟩, h4⟩ := h
  refine ⟨h1, lanes_all fun j hj hm => ?_, h3, h4⟩
  have := h2 j (by simp [lanes32, hj])
  simpa [hm] using this
def refPreOf (i : Instr) (ops : Ops) (mo : MemOrd) (reads : Bool) (base idx : Opd) (off : DWord) (n : Nat) (write : Bool) :
    State → PathRef → Block → Warp → Slot → Prop := fun s r b w sl =>
  let c := ctxAt s i ops r b w sl
  c.m ≠ 0 ∧ RefFree s c mo reads base idx off n write
/-- Operands of the reference forms: base h0; references h1 and h2; index zero. -/
def fRef (d data : BitVec 9) (width : BitVec 3) : FmtC := { noC with d := d, base := 336, data := data, width := width }
def fRefA (d a b : BitVec 9) : FmtA := { noA with d := d, a := a, b := b, ty := 0 }
theorem wit_ReferenceAccessesComplete :
    Met (.c (fRef 337 265 3)) (hldShape (fRef 337 265 3))
      (refPreOf .hld (.c (fRef 337 265 3)) (ordC (fRef 337 265 3) true) true (.h 0) .zero (offC (fRef 337 265 3)) 8 false) ∧
    Met (.c (fRef 265 337 3)) (hstShape (fRef 265 337 3))
      (refPreOf .hst (.c (fRef 265 337 3)) (ordC (fRef 265 337 3) true) false (.h 0) .zero (offC (fRef 265 337 3)) 8 true) ∧
    Met (.c (fRef 4 265 0)) (hldfShape (fRef 4 265 0))
      (refPreOf .hldf (.c (fRef 4 265 0)) (ordC (fRef 4 265 0) true) true (.h 0) .zero (offC (fRef 4 265 0)) 1 false) ∧
    Met (.c (fRef 265 4 2)) (hstfShape (fRef 265 4 2))
      (refPreOf .hstf (.c (fRef 265 4 2)) (ordC (fRef 265 4 2) true) false (.h 0) .zero (offC (fRef 265 4 2)) 4 true) ∧
    Met (.c (fRef 337 338 3)) (hcasShape (fRef 337 338 3))
      (refPreOf .hcas (.c (fRef 337 338 3)) (ordC (fRef 337 338 3) true) true (.h 0) .zero (offC (fRef 337 338 3)) 8 true) ∧
    Met (.a (fRefA 337 336 4)) (hpinShape (fRefA 337 336 4))
      (refPreOf .hpin (.a (fRefA 337 336 4)) { order := .acq, scope := .system, strong := true } true (.h 0) .zero 0 8 true) ∧
    Met (.a (fRefA 337 336 0)) (hunpinShape (fRefA 337 336 0))
      (refPreOf .hunpin (.a (fRefA 337 336 0)) { order := .rel, scope := .system, strong := true } true (.h 0) .zero 0 8 true) ∧
    Met (.a (fRefA 4 336 0)) (hsizeShape (fRefA 4 336 0))
      (refPreOf .hsize (.a (fRefA 4 336 0)) (.default true) true (.h 0) .zero 0 8 false) :=
  ⟨met0 warpM _ _ _ rfl (by decide) (refFree_of (by decide)), met0 warpM _ _ _ rfl (by decide) (refFree_of (by decide)),
   met0 warpM _ _ _ rfl (by decide) (refFree_of (by decide)), met0 warpM _ _ _ rfl (by decide) (refFree_of (by decide)),
   met0 warpM _ _ _ rfl (by decide) (refFree_of (by decide)), met0 warpM _ _ _ rfl (by decide) (refFree_of (by decide)),
   met0 warpM _ _ _ rfl (by decide) (refFree_of (by decide)), met0 warpM _ _ _ rfl (by decide) (refFree_of (by decide))⟩
theorem wit_ReferenceCopiesComplete :
    (hcopyImport (fRefA 337 336 0) = false ∧ Met (.a (fRefA 337 336 0)) (hcopyShape (fRefA 337 336 0)) always) ∧
    (hcopyImport (fRefA 4 336 0) = false ∧ Met (.a (fRefA 4 336 0)) (hcopyShape (fRefA 4 336 0)) always) ∧
    (hcopyImport (fRefA 337 8 0) = true ∧ Met (.a (fRefA 337 8 0)) (hcopyShape (fRefA 337 8 0)) (fun _ _ _ w sl => effMask w sl ≠ 0)) ∧
    Met (.a (fRefA 337 0 0)) (hnullShape (fRefA 337 0 0)) always ∧
    Met (.a (fRefA 4 336 337)) (hcmpShape (fRefA 4 336 337)) (fun s _ b w sl => effMask w sl ≠ 0 ∧ slotsTaken s b.core = false) ∧
    Met (.a (fRefA 0 272 0)) (hphaseShape (fRefA 0 272 0))
      (fun s r b w sl => fenceWaits .wafer (ctxAt s .hphase (.a (fRefA 0 272 0)) r b w sl) s = false) :=
  ⟨⟨rfl, met0 warpM _ _ _ rfl (by decide) trivial⟩, ⟨rfl, met0 warpM _ _ _ rfl (by decide) trivial⟩,
   ⟨rfl, met0 warpM _ _ _ rfl (by decide) (by decide)⟩, met0 warpM _ _ _ rfl (by decide) trivial,
   met0 warpM _ _ _ rfl (by decide) (by decide), met0 warpM _ _ _ rfl (by decide) (by decide)⟩

/-! ### The matrix array, engines, barriers, launch and system rows -/

/-- Shape words for the tests: k16 to k19 an operand of 16 chunks (64-byte rows, K = 32), k20 to k23 one whose row word is 0; k24 to k31 a
tensor of 8 rows of 8 columns, in bf16 as in the array. -/
def warpK : Warp :=
  { warp0 with k := [(16, 0x1000), (17, 0), (18, 64), (19, 32), (20, 0x3000), (21, 0), (22, 64), (23, 0),
                     (24, 0x5000), (25, 0), (26, 64), (27, 0x00080008), (28, 0x00080008), (29, 0), (30, 0), (31, 0),
                     (32, 0x7000), (33, 0), (34, 64), (35, 0), (40, 0), (41, 64)] }
/-- Met in the state that the tests issue in, for a shape that depends on the block. -/
def MetIn (ops : Ops) (sh : State → Shape) (pre : State → PathRef → Block → Warp → Slot → Prop) : Prop :=
  ∃ s r b w sl, Issuing s r b w sl ∧ s.ops = ops ∧ Unhindered (sh s) b w sl ∧ pre s r b w sl
theorem metIn0 (w : Warp) (ops : Ops) (sh : State → Shape) (pre : State → PathRef → Block → Warp → Slot → Prop)
    (hs : w.slots[0]? = some slot0) (hu : unhinderedB (sh (at0 w ops)) (blkOf w) w slot0 = true)
    (hp : pre (at0 w ops) ref0 (blkOf w) w slot0) : MetIn ops sh pre :=
  ⟨at0 w ops, ref0, blkOf w, w, slot0, ⟨rfl, rfl, rfl, hs, rfl⟩, rfl, unhindered_of hu, hp⟩
def fMat (d a b c : BitVec 9) : FmtA := { noA with d := d, a := a, b := b, c := c, ty := 0 }
theorem wit_MatrixOperationsComplete :
    MetIn (.a (fMat 1 288 292 0)) (mmaShape (fMat 1 288 292 0)) (fun s r b w _ =>
      mmaChecks false (fMat 1 288 292 0) b (kGroup w (.k 16) 4) (kGroup w (.k 20) 4) = [] ∧ ArrayRoom s r b 2) ∧
    mmaChecks true (fMat 1 288 292 0) { blkOf warpK with lrec := { probeRecord with pair := true } } (kGroup warpK (.k 16) 4) (kGroup warpK (.k 20) 4) = [] ∧
    MetIn (.a (fMat 7 0 0 0)) (mzeroShape (fMat 7 0 0 0)) (fun s r b _ _ => ArrayRoom s r b 0) ∧
    MetIn (.a (fMat 7 304 0 0)) (mloadShape (fMat 7 304 0 0)) (fun s r b w _ =>
      (mloadSpan (fMat 7 304 0 0) b (kGroup w (.k 32) 4)).codes = [] ∧ ArrayRoom s r b 1) ∧
    (mrowPut (fMat 4 312 0 15) = true ∧ MetIn (.a (fMat 4 312 0 15)) (mrowShape (fMat 4 312 0 15)) (fun s r b w _ =>
      (read32 b w r.wi (.k 40) 0).toNat ≤ 63 ∧ ArrayRoom s r b 0)) ∧
    (mrowPut (fMat 4 312 0 7) = false ∧ MetIn (.a (fMat 4 312 0 7)) (mrowShape (fMat 4 312 0 7)) (fun s r b w _ =>
      (read32 b w r.wi (.k 40) 0).toNat ≤ 63 ∧ ArrayRoom s r b 0)) ∧
    MetIn (.a (fMat 7 296 265 0)) (mdrainShape (fMat 7 296 265 0)) (fun s r b w _ =>
      shapeChecks 2 (kGroup w (.k 24) 8) (kGroup w .zero 4) b = [] ∧ ArrayRoom s r b 1 ∧ (s.bay (bkOfCk b.core)).fix.length < 32) :=
  ⟨metIn0 warpK _ _ _ rfl (by decide) ⟨by decide, Or.inl (by decide), by decide, by decide, Or.inl rfl⟩, by decide,
   metIn0 warpK _ _ _ rfl (by decide) ⟨Or.inl (by decide), by decide, by decide, Or.inl rfl⟩,
   metIn0 warpK _ _ _ rfl (by decide) ⟨by decide, Or.inl (by decide), by decide, by decide, Or.inl rfl⟩,
   ⟨rfl, metIn0 warpK _ _ _ rfl (by decide) ⟨by decide, Or.inl (by decide), by decide, by decide, Or.inl rfl⟩⟩,
   ⟨rfl, metIn0 warpK _ _ _ rfl (by decide) ⟨by decide, Or.inl (by decide), by decide, by decide, Or.inl rfl⟩⟩,
   metIn0 warpK _ _ _ rfl (by decide) ⟨by decide, ⟨Or.inl (by decide), by decide, by decide, Or.inl rfl⟩, by decide⟩⟩

/-- Batches and commands: `mwait` of batch 0, done, and of batch 1 of which it is not; `enl` and `fix`; `ewait` of no command, and of a warp
with a command in the Enlarger's queue. -/
def fEng (a b : BitVec 9) : FmtA := fMat 0 a b 0
def warpB : Warp := { warp0 with csr := { warp0.csr with batchIssued := 1 }, batches := [(1, [7])], engCmds := [(9, false)] }
def fWait (n : Word) : FmtB := { noB with d := 0, a := 265, ty := 0, imm := n }
def bayBusy : Bay := { Bay.init with enl := [engCmd (ctxOf .enl (.a (fEng 296 265)) ref0 blk0 warpK slot0) 9 0 [] []] }
theorem wit_BatchesAndEnginesComplete :
    Met (.a (fMat 272 0 0 0)) (mbatchShape (fMat 272 0 0 0)) always ∧
    Met (.b (fWait 0)) (mwaitShape (fWait 0)) (fun _ r b w _ =>
      batchAhead ((read32 b w r.wi .zero 0).setWidth 16 + 0) w.csr.batchDone = false) ∧
    Met (.b (fWait 1)) (mwaitShape (fWait 1)) (fun _ r b w _ =>
      let n : BitVec 16 := (read32 b w r.wi .zero 0).setWidth 16 + 1
      batchAhead n w.csr.batchIssued = false ∧ batchAhead n w.csr.batchDone = true) ∧
    Met (.a (fEng 296 265)) (engShape (fEng 296 265)) (fun s _ b w _ => shapeChecks 0 (kGroup w (.k 24) 8) (kGroup w .zero 4) b = [] ∧
      2 ≤ (s.core b.core).freeLocks.length ∧ (s.core b.core).owed = [] ∧ (s.bay (bkOfCk b.core)).enl.length < 32) ∧
    Met (.a (fEng 296 265)) (engShape (fEng 296 265)) (fun s _ b w _ => shapeChecks 1 (kGroup w (.k 24) 8) (kGroup w .zero 4) b = [] ∧
      1 ≤ (s.core b.core).freeLocks.length ∧ (s.core b.core).owed = [] ∧ (s.bay (bkOfCk b.core)).fix.length < 32) ∧
    Met (.b { fWait 0 with d := 272 }) (ewaitShape { fWait 0 with d := 272 }) (fun _ _ _ w _ => w.engCmds.length ≤ 0) ∧
    Met (.b { fWait 0 with d := 272 }) (ewaitShape { fWait 0 with d := 272 }) (fun s _ _ w _ =>
      0 < (w.engCmds.filter (fun x => s.bays.any (fun e => e.2.enl.any (·.id == x.1) || e.2.fix.any (·.id == x.1)))).length) ∧
    Met (.b { fWait 0 with d := 272 }) (ewaitShape { fWait 0 with d := 272 }) (fun s _ _ _ sl => ∃ ids n, sl.wait = .ewait ids n ∧
      (ids.filter (fun x => s.bays.any (fun e => e.2.enl.any (·.id == x.1) || e.2.fix.any (·.id == x.1)))).length ≤ n) :=
  ⟨met0 warpB _ _ _ rfl (by decide) trivial, met0 warpB _ _ _ rfl (by decide) (by decide),
   met0 warpB _ _ _ rfl (by decide) ⟨by decide, by decide⟩, met0 warpK _ _ _ rfl (by decide) ⟨by decide, by decide, rfl, by decide⟩,
   met0 warpK _ _ _ rfl (by decide) ⟨by decide, by decide, rfl, by decide⟩, met0 warpK _ _ _ rfl (by decide) (by decide),
   met_at ({ at0 warpB (.b { fWait 0 with d := 272 }) with bays := [(0, bayBusy)] }) (blkOf warpB) warpB slot0 _ _ _ rfl rfl rfl rfl rfl rfl
     (by decide) (by decide),
   met_at (at0 { warpB with slots := [{ slot0 with wait := .ewait [(9, true)] 0 }, Slot.empty] } (.b { fWait 0 with d := 272 })) _ _ _ _ _ _
     rfl rfl rfl rfl rfl rfl (by decide) ⟨_, _, rfl, by decide⟩⟩
/-- Named barrier 15, the last one declared, and the gang barrier: arrival without an arrival before, a wait that passes, one that waits. -/
def fBar (n : BitVec 7) : F32 := { noL with b := n }
def atBar (x : DWord) (gang : Bool) (f : F32) : State :=
  { at0 warp0 (.l32 f) with blocks := [{ blkOf warp0 with bars := if gang then [] else [(15, x)], gbar := if gang then x else 0 }] }
theorem wit_BarriersComplete :
    (∀ gang : Bool, ∀ x : DWord, x = 0 ∨ x = 0x100000000 ∨ x = 1 → ∃ u : BarUnit, u.gang = gang ∧ (u.gang = true ∨ u.n = 15) ∧
      ∃ b, (atBar x gang (fBar (if gang then 0 else 15))).block? 0 = some b ∧ u.word b = x ∧ b.warps[0]? = some warp0 ∧
        (u.gang = true ∨ u.n < b.lrec.barriers) ∧ unhinderedB (barShape gang (fBar (if gang then 0 else 15))) b warp0 slot0 = true ∧
        fenceWaits (if gang then .domain else .block) (ctxAt (atBar x gang (fBar 15)) .barArrive (.l32 (fBar 15)) ref0 b warp0 slot0)
          (atBar x gang (fBar 15)) = false) ∧
    (∀ gang : Bool, ∃ (s : State) (b : Block), s.block? 0 = some b ∧ b.warps[0]? = some warp0 ∧ (gang = true ∨ 15 < b.lrec.barriers) ∧
      fenceWaits (if gang then .domain else .block) (ctxAt s .barArrive (.l32 (fBar 15)) ref0 b warp0 slot0) s = true) ∧
    ((0x100000000 : DWord).getLsbD 0 = false ∧ (0x100000000 : DWord).getLsbD 32 = true ∧ (1 : DWord).getLsbD 0 = true) := by
  refine ⟨fun gang x hx => ⟨{ gang := gang, n := 15 }, rfl, Or.inr rfl, ?_⟩, fun gang => ⟨{ at0 warp0 (.l32 (fBar 15)) with
    reqs := [{ newReq (ctxOf .ld (.c noC) ref0 blk0 warp0 slot0) 0 .load (.default false) 0 3 0x1000 4 with id := 0 }] }, blkOf warp0, rfl, rfl,
    Or.inr (by decide), by cases gang <;> decide⟩, by decide⟩
  rcases hx with rfl | rfl | rfl <;> cases gang <;> exact ⟨_, rfl, by decide, rfl, by decide, by decide, by decide⟩
/-- A barrier of one warp: complete when it has arrived, not before; for a gang in each of its members. -/
theorem wit_barrier_tests :
    (∃ b : Block, (∀ (i : Nat) (w : Warp), b.warps[i]? = some w → w.done = false → (arrivedOf (b.bars.get 0 15)).getLsbD i = true) ∧
      arrivedOf (b.bars.get 0 15) ≠ 0) ∧
    (∃ b : Block, ¬(arrivedOf (b.bars.get 0 15) ≠ 0)) ∧
    (∃ s : State, ∀ b ∈ s.blocks.filter (fun b => b.gangId == 0),
      (∀ (i : Nat) (w : Warp), b.warps[i]? = some w → w.done = false → (arrivedOf b.gbar).getLsbD i = true) ∧ arrivedOf b.gbar ≠ 0) := by
  refine ⟨⟨{ blkOf warp0 with bars := [(15, 1)] }, ?_, by decide⟩, ⟨blk0, by decide⟩, ⟨atBar 1 true noL, ?_⟩⟩
  · intro i w hw _
    match i with
    | 0 => decide
    | n + 1 => simp [blkOf] at hw
  · intro b hb
    have hb' : b = { blkOf warp0 with bars := [], gbar := 1 } := by
      simpa [atBar, at0] using (List.mem_filter.mp hb).1
    subst hb'
    refine ⟨?_, by decide⟩
    intro i w hw _
    match i with
    | 0 => decide
    | n + 1 => simp [blkOf] at hw
/-- k0 and k1 hold address 0x1000; k2 and k3 an address of wafer 1, domain 0, of the pod; k4 and k5 one of the host; k6 is 0, k7 is 64 (a
valid hint of domain 0); k8 and k9 a new frame at 0x20000. -/
def warpS : Warp :=
  { warp0 with k := [(0, 0x1000), (1, 0), (2, 0), (3, 32014336), (4, 0), (5, 56 * 2 ^ 19), (6, 0), (7, 64), (8, 0x20000), (9, 0)] }
theorem wit_LaunchAndGridRowsComplete :
    Met (.a (fMat 272 4 0 0)) (lfirstBcShape (fMat 272 4 0 0)) always ∧ Met (.a (fMat 272 0 0 0)) (gidShape (fMat 272 0 0 0)) always ∧
    ((opd9 352).isPred = true ∧ Met (.a (fMat 352 0 0 0)) (gpollShape (fMat 352 0 0 0)) always) ∧
    ((opd9 272).isPred = false ∧ Met (.a (fMat 272 0 0 0)) (gpollShape (fMat 272 0 0 0)) always) ∧
    Met (.a (fMat 272 0 0 3)) (gstatShape (fMat 272 0 0 3)) always ∧ Met (.a (fMat 272 278 0 0)) (perfShape (fMat 272 278 0 0)) always ∧
    Met (.a (fMat 282 272 0 0)) (glaunchShape (fMat 282 272 0 0)) (fun s r b w _ => laneCodes s b (read64 b w r.wi (.k 0) 0) 128 false true w.priv = []) ∧
    Met (.a (fMat 0 272 0 0)) (gcancelShape (fMat 0 272 0 0)) always ∧ Met (.a (fMat 0 279 0 0)) (ghintShape (fMat 0 279 0 0)) always ∧
    Met (.a (fMat 0 278 0 0)) (gfaultShape (fMat 0 278 0 0)) always :=
  ⟨met0 warpS _ _ _ rfl (by decide) trivial, met0 warpS _ _ _ rfl (by decide) trivial, ⟨rfl, met0 warpS _ _ _ rfl (by decide) trivial⟩,
   ⟨rfl, met0 warpS _ _ _ rfl (by decide) trivial⟩, met0 warpS _ _ _ rfl (by decide) trivial, met0 warpS _ _ _ rfl (by decide) trivial,
   met0 warpS _ _ _ rfl (by decide) (by decide), met0 warpS _ _ _ rfl (by decide) trivial, met0 warpS _ _ _ rfl (by decide) trivial,
   met0 warpS _ _ _ rfl (by decide) trivial⟩
/-- Register accesses of the first and last listed number, the colour, the first and last number of the aperture, and SCHEDMODE. -/
def fCsr (d a : BitVec 9) (n : Word) : FmtB := { noB with d := d, a := a, ty := 0, imm := n }
/-- A load of the warp from the register aperture that is still on its way. -/
def atAperture : State :=
  { at0 warp0 (.b (fCsr 0 272 0x40)) with reqs := [{ newReq (ctxOf .ld (.c noC) ref0 blk0 warp0 slot0) 0 .load (.default false) 0 3
      (BitVec.ofNat 64 (56 * 2 ^ 51 + 2 ^ 50)) 4 with id := 0 }] }
theorem wit_RegisterAccessesComplete :
    ((0 : Nat) ≤ 0x0E ∧ ([0, 0x0E, 0x12, 0x1C].all (fun n => unhinderedB (csrShape (fCsr 272 0 (BitVec.ofNat 32 n)) false true) blk0 warp0 slot0 &&
      unhinderedB (csrShape (fCsr 272 0 (BitVec.ofNat 32 n)) false false) blk0 user slot0)) = true) ∧
    Met (.b (fCsr 272 0 0x1C)) (csrShape (fCsr 272 0 0x1C) false true) (fun _ _ _ w _ => w.priv = true) ∧
    Met (.b (fCsr 272 0 0x10)) (csrShape (fCsr 272 0 0x10) false false) (fun s _ _ w _ => w.priv = false ∧ s.unitOps = []) ∧
    Met (.b (fCsr 272 0 0x40)) (csrShape (fCsr 272 0 0x40) false true) (fun s r _ w _ => w.priv = true ∧
      0x40 ≤ csrNum (fCsr 272 0 0x40) ∧ apertureOpen s r.bid r.wi s.nextId = false) ∧
    Met (.b (fCsr 272 0 0x13F)) (csrShape (fCsr 272 0 0x13F) false true) (fun s r _ w _ => w.priv = true ∧ apertureOpen s r.bid r.wi s.nextId = false) ∧
    Met (.b (fCsr 0 272 0x01)) (csrShape (fCsr 0 272 0x01) true false) (fun _ _ _ w _ => w.priv = false ∧ csrNum (fCsr 0 272 0x01) ≠ 0x1C) ∧
    Met (.b (fCsr 0 4 0x10)) (csrShape (fCsr 0 4 0x10) true false) (fun s _ _ w _ => w.priv = false ∧ s.unitOps = []) ∧
    Met (.b (fCsr 0 272 0x1C)) (csrShape (fCsr 0 272 0x1C) true true) (fun _ _ _ w _ => w.priv = true) ∧
    Met (.b (fCsr 0 272 0x13F)) (csrShape (fCsr 0 272 0x13F) true true) (fun s r _ w _ => w.priv = true ∧
      0x40 ≤ csrNum (fCsr 0 272 0x13F) ∧ apertureOpen s r.bid r.wi s.nextId = false) ∧
    Met (.b (fCsr 0 272 0x40)) (csrShape (fCsr 0 272 0x40) true true) (fun s r _ w _ => w.priv = true ∧ apertureOpen s r.bid r.wi s.nextId = true) :=
  ⟨by decide, met0 warp0 _ _ _ rfl (by decide) (by decide), met0 user _ _ _ rfl (by decide) (by decide),
   met0 warp0 _ _ _ rfl (by decide) (by decide), met0 warp0 _ _ _ rfl (by decide) (by decide), met0 user _ _ _ rfl (by decide) (by decide),
   met0 user _ _ _ rfl (by decide) (by decide), met0 warp0 _ _ _ rfl (by decide) (by decide), met0 warp0 _ _ _ rfl (by decide) (by decide),
   met_at atAperture _ _ _ _ _ _ rfl rfl rfl rfl rfl rfl (by decide) (by decide)⟩
/-- A block with eight ranges locked. -/
def full : Block := { blkOf warpS with ilocks := List.replicate 8 (0, 128) }
theorem wit_SystemRowsComplete :
    Met (.a (fMat 0 278 0 0)) (wswitchShape (fMat 0 278 0 0)) (fun s r b w sl => warpQuiet s (ctxAt s .wswitch (.a (fMat 0 278 0 0)) r b w sl) = true ∧
      (read32 b w r.wi (.k 6) 0).getLsbD 0 = false) ∧
    Met (.a (fMat 272 272 278 0)) (ilockShape (fMat 272 272 278 0)) (fun _ _ b _ _ => 8 ≤ b.ilocks.length) ∧
    Met (.a (fMat 272 272 279 0)) (ilockShape (fMat 272 272 279 0)) (fun _ _ b _ _ => b.ilocks.length < 8) ∧
    Met (.a (fMat 272 265 265 0)) (iunlockShape (fMat 272 265 265 0)) always ∧
    Met (.a (fMat 0 272 279 0)) (iprefetchShape (fMat 0 272 279 0)) always ∧ Met (.a (fMat 0 0 0 0)) (haltShape (fMat 0 0 0 0)) always ∧
    Met (.a (fMat 0 272 278 0)) (xlatShape (fMat 0 272 278 0)) (fun _ r b w _ => ¬ownerBad (read64 b w r.wi (.k 0) 0) ∧
      ownerOf (read64 b w r.wi (.k 0) 0) ≠ 62 ∧ (read32 b w r.wi (.k 6) 0).toNat = 0) ∧
    Met (.a (fMat 0 272 279 0)) (xlatShape (fMat 0 272 279 0)) (fun _ r b w _ => ¬ownerBad (read64 b w r.wi (.k 0) 0) ∧
      ownerOf (read64 b w r.wi (.k 0) 0) = 0 ∧ (read32 b w r.wi (.k 7) 0).toNat ≠ 0) ∧
    Met (.a (fMat 0 274 279 0)) (xlatShape (fMat 0 274 279 0)) (fun s r b w _ => ¬ownerBad (read64 b w r.wi (.k 2) 0) ∧ w.done = false ∧
      (read32 b w r.wi (.k 7) 0).toNat ≠ 0 ∧ ownerOf (read64 b w r.wi (.k 2) 0) = 61 ∧
      podReach s (waferOf (dkOfCk b.core)) (podWafer (read64 b w r.wi (.k 2) 0)) = false) ∧
    Met (.a (fMat 282 276 280 0)) (pgmigShape (fMat 282 276 280 0)) (fun _ r b w _ => ownerOf (read64 b w r.wi (.k 4) 0) = 56) ∧
    Met (.a (fMat 282 272 280 0)) (pgmigShape (fMat 282 272 280 0)) (fun _ r b w _ => ownerOf (read64 b w r.wi (.k 0) 0) = 0) ∧
    Met (.a (fMat 282 276 279 278)) (classShape (fMat 282 276 279 278)) (fun _ r b w _ => ownerOf (read64 b w r.wi (.k 4) 0) = 56) ∧
    Met (.a (fMat 282 272 278 278)) (classShape (fMat 282 272 278 278)) (fun _ r b w _ => ownerOf (read64 b w r.wi (.k 0) 0) = 0 ∧
      (read32 b w r.wi (.k 6) 0).toNat = 0) ∧
    Met (.a (fMat 282 272 279 278)) (classShape (fMat 282 272 279 278)) (fun _ r b w _ => ownerOf (read64 b w r.wi (.k 0) 0) = 0 ∧
      (read32 b w r.wi (.k 7) 0).toNat ≠ 0) := by
  exact ⟨met0 warpS _ _ _ rfl (by decide) (by decide),
    met_at { at0 warpS (.a (fMat 272 272 278 0)) with blocks := [full] } full warpS slot0 _ _ _ rfl rfl rfl rfl rfl rfl (by decide) (by decide),
    met0 warpS _ _ _ rfl (by decide) (by decide), met0 warpS _ _ _ rfl (by decide) trivial, met0 warpS _ _ _ rfl (by decide) trivial,
    met0 warpS _ _ _ rfl (by decide) trivial, met0 warpS _ _ _ rfl (by decide) (by decide), met0 warpS _ _ _ rfl (by decide) (by decide),
    met0 warpS _ _ _ rfl (by decide) (by decide), met0 warpS _ _ _ rfl (by decide) (by decide), met0 warpS _ _ _ rfl (by decide) (by decide),
    met0 warpS _ _ _ rfl (by decide) (by decide), met0 warpS _ _ _ rfl (by decide) (by decide), met0 warpS _ _ _ rfl (by decide) (by decide)⟩

/-! ### The hypotheses of the statements about steps and events are met -/

/-- `movi v5, -1` placed on a fresh machine: by the agenda, as the idle choice, as the second half of a pair; and a word of no instruction. -/
def placed : State := State.reset.withFetchWord 32 (0x001 + 0x03A * 4 + 5 * 2048 + 127 * 33554432)
def placedBad : State := State.reset.withFetchWord 64 0x5FB
def pairSlot (w : Warp) : Warp :=
  w.onSlot 0 (fun sl => { sl with ordPfx := some { order := .acq, scope := .block, addr := 0xFFFC } })
def placedPair : State := { placed with agenda := [], blocks := placed.blocks.map (fun b => { b with warps := b.warps.map pairSlot }) }
/-- The same with v5 awaited: the instruction waits. -/
def placedWaits : State :=
  { placed with blocks := placed.blocks.map (fun b => { b with warps := b.warps.map (fun w => { w with empty := [.v 5] }) }) }
theorem wit_StepRunsTheDecodedInstruction :
    ∃ (ms : List Move) (ck isl : Nat) (r : PathRef) (b : Block) (w : Warp) (sl : Slot) (bs : List Byte) (x : Ins) (rest : List Byte),
      pairPath placed = none ∧ placed.agenda = .issue ck isl :: ms ∧ pickIssue { placed with agenda := ms } ck isl = some r ∧
      waitOf { placed with agenda := ms } r = none ∧
      brkHit { placed with agenda := ms } r = false ∧ placed.block? r.bid = some b ∧ b.warps[r.wi]? = some w ∧ w.slots[r.slot]? = some sl ∧
      pathBytes (noteIssue { placed with agenda := ms } ck isl r) b w sl.path.pc = .ok bs ∧ decode bs = .ok (x, rest) :=
  ⟨[], 0, 0, ref0, _, _, _, _, _, _, by decide +kernel, rfl, by decide +kernel, by decide +kernel, by decide +kernel, rfl, rfl, rfl, rfl, rfl⟩
theorem wit_IdleStepRunsTheDecodedInstruction :
    ∃ (s : State) (ck isl : Nat) (r : PathRef) (b : Block) (w : Warp) (sl : Slot) (bs : List Byte) (x : Ins) (rest : List Byte),
      pairPath s = none ∧ s.agenda = [] ∧ firstMove s (faultMoves s) = none ∧ issueChoice s = some (ck, isl, r) ∧ waitOf s r = none ∧
      brkHit s r = false ∧ s.block? r.bid = some b ∧ b.warps[r.wi]? = some w ∧ w.slots[r.slot]? = some sl ∧
      pathBytes (noteIssue s ck isl r) b w sl.path.pc = .ok bs ∧ decode bs = .ok (x, rest) :=
  ⟨{ placed with agenda := [] }, 0, 0, ref0, _, _, _, _, _, _, by decide +kernel, rfl, by decide +kernel, by decide +kernel,
    by decide +kernel, by decide +kernel, rfl, rfl, rfl, rfl, rfl⟩
theorem wit_WaitingStepRunsTheDecodedInstruction :
    ∃ (ms : List Move) (ck isl : Nat) (r : PathRef) (b : Block) (w : Warp) (sl : Slot) (bs : List Byte) (x : Ins) (rest : List Byte) (wt : Wait)
        (u : State),
      pairPath placedWaits = none ∧ placedWaits.agenda = .issue ck isl :: ms ∧ pickIssue { placedWaits with agenda := ms } ck isl = some r ∧
      waitOf { placedWaits with agenda := ms } r = some wt ∧
      placedWaits.block? r.bid = some b ∧ b.warps[r.wi]? = some w ∧ w.slots[r.slot]? = some sl ∧
      pathBytes { placedWaits with agenda := ms } b w sl.path.pc = .ok bs ∧ decode bs = .ok (x, rest) ∧
      exec x.instr (({ placedWaits with agenda := ms } : State).atPath r x.ops) = .next u ∧ u.prefixed r = false :=
  ⟨[], 0, 0, ref0, _, _, _, _, _, _, .regs [.v 5], _, by decide +kernel, rfl, by decide +kernel, by decide +kernel, rfl, rfl, rfl, rfl, rfl,
    rfl, by decide +kernel⟩
theorem wit_PairStepRunsTheDecodedInstruction :
    (∃ (r : PathRef) (b : Block) (w : Warp) (sl : Slot) (bs : List Byte) (x : Ins) (rest : List Byte), pairPath placedPair = some r ∧
      placedPair.block? r.bid = some b ∧ b.warps[r.wi]? = some w ∧ w.slots[r.slot]? = some sl ∧
      pathBytes placedPair b w sl.path.pc = .ok bs ∧ decode bs = .ok (x, rest)) ∧
    (∃ (ms : List Move) (ck isl : Nat) (r : PathRef) (b : Block) (w : Warp) (sl : Slot) (bs : List Byte) (e : DecodeErr),
      pairPath placedBad = none ∧ placedBad.agenda = .issue ck isl :: ms ∧ pickIssue { placedBad with agenda := ms } ck isl = some r ∧
      waitOf { placedBad with agenda := ms } r = none ∧
      brkHit { placedBad with agenda := ms } r = false ∧ placedBad.block? r.bid = some b ∧ b.warps[r.wi]? = some w ∧
      w.slots[r.slot]? = some sl ∧ pathBytes (noteIssue { placedBad with agenda := ms } ck isl r) b w sl.path.pc = .ok bs ∧
      decode bs = .error e) :=
  ⟨⟨ref0, _, _, _, _, _, _, by decide +kernel, rfl, rfl, rfl, rfl, rfl⟩,
   ⟨[], 0, 0, ref0, _, _, _, [0xFB, 0x05, 0, 0, 0, 0, 0, 0], .unassignedL64 0x17E, by decide +kernel, rfl, by decide +kernel, by decide +kernel,
     by decide +kernel, rfl, rfl, rfl, rfl, rfl⟩⟩

/-- An event's hypotheses are met by some state and arguments. -/
def EvMet (pre : State → EvArgs → Prop) : Prop := ∃ s a, s.ops = .event a ∧ pre s a
theorem evMet (s : State) (a : EvArgs) {pre : State → EvArgs → Prop} (h : pre { s with ops := .event a } a) : EvMet pre := ⟨_, a, rfl, h⟩
def ev0 : EvArgs := {}
/-- The tests' block with warp `w` in the machine whose domain 0 is up. -/
def evW (w : Warp) : State := atUp w (.event ev0)
def sleeper : Slot := { slot0 with wait := .sleep 0 }
def joiner : Slot := { slot0 with wait := .join }
def pathLow : PathState := { pc := 0x11000, rpc := none, mask := 0xFF }
def warpJoin : Warp := { warp0 with slots := [joiner, Slot.empty], spill := [.path pathLow false] }
def warpRot : Warp := { warp0 with rotation := 2048, slots := [{ slot0 with age := 5 }, Slot.empty], spill := [.path pathLow false] }
def issue0 : IssueSlot := { active := [(5, 0, 0), (7, 0, 3)], pending := [(6, 0, 0)], last := none, run := 0, issuedAt := none, readySince := [(6, 0, 0)], passed := [], trade := false }
/-- A warp that has issued, on a core with an armed breakpoint at `a` and code `bs` in its instruction cache. -/
def warpRan : Warp := { warp0 with freshLanes := 0 }
def codeLine (bs : List Byte) : CLine :=
  { vline := 0x10000 / 128, bytes := bs ++ List.replicate (128 - bs.length) 0, attr := { Attr.zero with perms := 0x3F, size := 2 ^ 21, pline := 512 },
    locks := [] }
def atBrk (a : DWord) (bs : List Byte) : State :=
  { evW warpRan with cores := [(0, { Core.init with brks := [(0, { addr := a, en := true, secok := false })], icache := [codeLine bs] })] }
theorem wit_PathEventsHappen :
    EvMet (fun s _ => ∃ sl, s.slot? ref0 = some sl ∧ sl.wait = .sleep 0 ∧ 0 ≤ s.clock) ∧
    EvMet (fun s a => (s.core a.k).issue[a.i]? = some issue0 ∧ issue0.pending = [] ++ (6, 0, 0) :: [] ∧
      (∃ x ∈ issue0.readySince, x.1 = 6 ∧ x.2.1 = 0 ∧ x.2.2 + 1024 ≤ s.clock) ∧
      (5, 0, 0) ∈ issue0.active ∧ ∀ e ∈ issue0.active, e = (5, 0, 0) ∨ (0 : Nat) < e.2.2) ∧
    EvMet (fun s a => ∃ b, Names s ref0 b warpJoin joiner ∧ joiner.live = true ∧ LowestFree warpJoin 0 pathLow ∧
      (spillUsable s b a.i warpJoin 0).1 = true ∧ ∀ j x, warpJoin.slots[j]? = some x → x.live = true → x.wait = .join ∧ j ≤ 0) ∧
    EvMet (fun s a => ∃ b sl, Names s ref0 b warpRot sl ∧ sl.mayRotate = true ∧ LowestFree warpRot 0 pathLow ∧ warpRot.inTrap = false ∧
      2048 ≤ warpRot.rotation ∧ (spillUsable s b a.i warpRot 0).1 = true ∧
      ∀ x, warpRot.slots[1]? = some x → x.mayRotate = true → x.age.toNat < sl.age.toNat) ∧
    EvMet (fun s _ => ∃ b, Names s ref0 b warpRan slot0 ∧ warpRan.isFresh slot0 = false ∧ slot0.ordPfx = none ∧ pathFree s b warpRan 0 = true ∧
      ∃ e ∈ (s.core b.core).brks, e.2.en = true ∧ (e.2.secok = true ∨ b.world = false) ∧ vaddr e.2.addr / 2 = vaddr slot0.path.pc / 2) ∧
    EvMet (fun s _ => ∃ b, Names s ref0 b warpRan slot0 ∧ warpRan.isFresh slot0 = false ∧ slot0.ordPfx = none ∧ pathFree s b warpRan 0 = true ∧
      ∃ e ∈ (s.core b.core).brks, e.2.en = true ∧ (e.2.secok = true ∨ b.world = false) ∧ vaddr e.2.addr / 2 = vaddr (slot0.path.pc + 4) / 2 ∧
        ∃ bs, pathBytes s b warpRan slot0.path.pc = .ok bs ∧ isOrdp bs = true) ∧
    EvMet (fun s a => ∃ b, s.block? a.k = some b ∧ b.phase = .wantSave 0x80 ∧ b.saveRec.isSome = true) :=
  ⟨evMet (evW { warp0 with slots := [sleeper, Slot.empty] }) ev0 ⟨sleeper, rfl, rfl, by decide⟩,
   evMet { evW warp0 with clock := 1024, cores := [(0, { Core.init with issue := [issue0] })] } ev0
     ⟨rfl, rfl, by decide, by decide, by decide⟩,
   evMet (evW warpJoin) ev0 ⟨_, ⟨rfl, rfl, rfl⟩, rfl, ⟨rfl, by simp⟩, by decide, by
     intro j x hx hl
     match j with
     | 0 => simp [warpJoin] at hx; subst hx; exact ⟨rfl, Nat.le_refl 0⟩
     | 1 => simp [warpJoin] at hx; subst hx; simp [Slot.empty] at hl
     | n + 2 => simp [warpJoin] at hx⟩,
   evMet (evW warpRot) ev0 ⟨_, _, ⟨rfl, rfl, rfl⟩, by decide, ⟨rfl, by simp⟩, by decide, by decide, by decide, by
     intro x hx hr
     simp [warpRot] at hx; subst hx; simp [Slot.mayRotate, Slot.empty] at hr⟩,
   evMet (atBrk 0x10000 []) ev0 ⟨_, ⟨rfl, rfl, rfl⟩, by decide, rfl, by decide, _, List.mem_singleton.mpr rfl, by decide⟩,
   evMet (atBrk 0x10004 [0xC5, 0x57, 0, 0]) ev0 ⟨_, ⟨rfl, rfl, rfl⟩, by decide, rfl, by decide, _, List.mem_singleton.mpr rfl, by decide, by decide,
     by decide, _, rfl, by decide⟩,
   evMet { evW warp0 with blocks := [{ blkOf warp0 with phase := .wantSave 0x80, saveRec := some 0 }] } ev0 ⟨_, rfl, rfl, rfl⟩⟩
/-- Fetches: a fault left by a reply; a line that is missing; a page that is not mapped; a pc in the scratchpad. -/
theorem wit_fetch_events :
    EvMet (fun s _ => ∃ b w sl s1 again, Names s ref0 b w sl ∧ b.push = [0x10000] ∧
      bringLine s b.core ((0x10000 : DWord) &&& ~~~127#64) b.world b.lrec.privileged = (s1, again)) ∧
    EvMet (fun s _ => fetchDue s ref0 = true ∧ ∃ sl, s.slot? ref0 = some sl ∧ sl.fetchFault = some codeNoPage) ∧
    EvMet (fun s _ => fetchDue s ref0 = true ∧ ∃ b w sl va s1 l, Names s ref0 b w sl ∧ sl.fetchFault = none ∧ pathBytes s b w sl.path.pc = .error va ∧
      fetchLine s b.core va w.secure w.priv = (.line l, s1)) ∧
    EvMet (fun s _ => fetchDue s ref0 = true ∧ ∃ b w sl va s1, Names s ref0 b w sl ∧ sl.fetchFault = none ∧ pathBytes s b w sl.path.pc = .error va ∧
      fetchLine s b.core va w.secure w.priv = (.fault codeNoPage, s1) ∧ fetchCode va = none) ∧
    EvMet (fun s _ => fetchDue s ref0 = true ∧ ∃ b w sl va s1, Names s ref0 b w sl ∧ sl.fetchFault = none ∧ pathBytes s b w sl.path.pc = .error va ∧
      fetchLine s b.core va w.secure w.priv = (.fault codeOwnerBad, s1)) :=
  ⟨evMet { evW warp0 with blocks := [{ blkOf warp0 with push := [0x10000] }] } ev0 ⟨_, _, _, _, _, ⟨rfl, rfl, rfl⟩, rfl, rfl⟩,
   evMet (evW { warp0 with slots := [{ slot0 with fetchFault := some codeNoPage }, Slot.empty] }) ev0 ⟨by decide, _, rfl, rfl⟩,
   evMet (evW warp0) ev0 ⟨by decide, _, _, _, _, _, _, ⟨rfl, rfl, rfl⟩, rfl, rfl, rfl⟩,
   evMet { evW warp0 with domains := [] } ev0 ⟨by decide, _, _, _, _, _, ⟨rfl, rfl, rfl⟩, rfl, rfl, rfl, rfl⟩,
   evMet (evW { warp0 with slots := [{ slot0 with path := { slot0.path with pc := BitVec.ofNat 64 (62 * 2 ^ 51) } }, Slot.empty] }) ev0
     ⟨by decide, _, _, _, _, _, ⟨rfl, rfl, rfl⟩, rfl, rfl, rfl⟩⟩

/-- A load of lane 3 in flight with number 1, and its request. -/
def ctx0 : Ctx := ctxOf .ld (.c noC) ref0 blk0 warp0 slot0
def pendL : Pend := { basePend ctx0 with tag := 1, kind := .load 4 false, dst := .regs (.v 4) 1, need := 0xFF }
def reqL : Req := { newReq ctx0 1 .load (.default false) 0 3 0x1000 4 with id := 0 }
def reqAt (st : Stage) : Req := { reqL with stage := st }
def piece0 : Piece := { tag := 1, bid := 0, wi := 0, lane := 3, va := 0x1004, off := 4, bytes := [1, 2, 3, 4], hint := 0, secure := false, priv := true }
def wbEnt0 : WbEnt := { line := 32, pieces := [piece0], draining := [] }
def flying (rs : List Req) (ps : List Pend) : State := { evW warp0 with reqs := rs, pends := ps }
def pendW : Pend := { pendL with kind := .waitv 0 4, need := 1, aux := [(0, 7)] }
theorem wit_ArrivalsAndPollsHappen :
    EvMet (fun s a => ∃ p b, s.pend? a.k = some p ∧ p.kind = .long ∧ p.vals ≠ [] ∧ s.block? p.bid = some b ∧ b.warps[p.wi]? = some warp0) ∧
    (∀ kind ∈ [PendKind.reg, .matrix], EvMet (fun s a => ∃ p b, s.pend? a.k = some p ∧ p.kind = kind ∧ p.vals ≠ [] ∧
      s.block? p.bid = some b ∧ b.warps[p.wi]? = some warp0)) ∧
    EvMet (fun s a => ∃ r p b, s.req? a.k = some r ∧ r.stage = .answered ∧ forwardedOn s r.id = false ∧
      (∀ q ∈ s.reqs, q.core = r.core → q.stage = .answered → vlineOf q.va = vlineOf r.va → r.seq ≤ q.seq) ∧ s.pend? r.tag = some p ∧
      p.kind = .load 4 false ∧ p.bid = r.bid ∧ p.wi = r.wi ∧ s.block? p.bid = some b ∧ b.warps[p.wi]? = some warp0) ∧
    EvMet (fun s a => ∃ r, s.req? a.k = some r ∧ r.stage = .acked ∧ forwardedOn s r.id = false ∧ r.pieces = [] ∧ ∀ p, s.pend? r.tag = some p → p.dst = .none ∧ p.dst2 = .none) ∧
    EvMet (fun s a => ∃ r, s.req? a.k = some r ∧ r.stage = .acked ∧ forwardedOn s r.id = false ∧ r.pieces ≠ [] ∧ ∀ x ∈ r.pieces, ∀ p, s.pend? x.tag = some p → p.dst = .none ∧ p.dst2 = .none) ∧
    EvMet (fun s a => (s.core a.k).bank a.i = [wbEnt0] ∧ wbEnt0.draining = [] ∧ wbEnt0.pieces = [piece0]) ∧
    EvMet (fun s a => ∃ p b, s.pend? a.k = some p ∧ p.kind = .waitv 0 4 ∧ s.block? p.bid = some b ∧ b.warps[p.wi]? = some warp0 ∧
      waitvOpen s p 0 4 ≠ 0 ∧ ∀ j, ownerOf (p.aux.get 0 (32 + j)) = 62 → (sliceAt b (p.aux.get 0 (32 + j))).isSome = true) := by
  refine ⟨evMet (flying [] [{ pendL with kind := .long, vals := [(0, 5)] }]) { k := 1 } ⟨_, _, rfl, rfl, by decide, rfl, rfl⟩, ?_,
    evMet (flying [reqAt .answered] [pendL]) ev0 ⟨_, _, _, rfl, rfl, rfl, by decide, rfl, rfl, rfl, rfl, rfl, rfl⟩,
    evMet (flying [reqAt .acked] [{ pendL with kind := .store, dst := .none }]) ev0 ⟨_, rfl, rfl, rfl, rfl, ?_⟩,
    evMet (flying [{ reqAt .acked with pieces := [piece0] }] []) ev0 ⟨_, rfl, rfl, rfl, by decide, ?_⟩,
    evMet { evW warp0 with cores := [(0, { Core.init with wb := [(0, [wbEnt0])] })] } ev0 ⟨rfl, rfl, rfl⟩,
    evMet (flying [] [pendW]) { k := 1 } ⟨_, _, rfl, rfl, rfl, rfl, by decide, ?_⟩⟩
  · intro kind hk
    exact evMet (flying [] [{ pendL with kind := kind, vals := [(0, 5)] }]) { k := 1 } ⟨_, _, rfl, rfl, by simp, rfl, rfl⟩
  · intro p hp
    have : p = { pendL with kind := .store, dst := .none } := (Option.some.inj hp).symm
    subst this
    exact ⟨rfl, rfl⟩
  · intro x hx p hp
    exact absurd hp (by simp at hx; subst hx; simp [flying, State.pend?])
  · intro j h
    have h0 : pendW.aux.get 0 (32 + j) = 0 := by simp [pendW, Tab.get, Tab.get?]
    rw [h0] at h
    exact absurd h (by decide)

/-- Deferred faults, log entries and replies: a fault of one lane on its way, and entries in each state that matters. -/
def defer0 : Deferred := { code := codeNoPage, kind := 1, pc := 0x10000, lanes := 8, addr := 0x1000, tag := 1, lane := 3 }
def ent0 : LogEnt :=
  { LogEnt.empty with state := .pending, pc := 0x10000, enc := ctx0.enc, lanes := 8, addr := [(3, 0x1000)], tag := 1, kind := 0,
                      code := codeNoPage, tokens := [(9, codeNoPage)], pages := [(0, 2 ^ 16)], seq := 1, lane := 3 }
def warpLog (e : LogEnt) : Warp := { warp0 with log := List.replicate 4 e }
def faultedL : Req := reqAt (.faulted codeNoPage true)
def ringOpen : RingQ := { base := 0x40000, log := 4, prod := 0, cons := 0 }
def held0 : FaultRecEnt := { bytes := List.replicate 32 1, token := 9 }
def domWait (w : Waiter) : State := { evW warp0 with domains := [(0, { dom0 with waiters := [(9, w)] })] }
def fetcher : Slot := { slot0 with wait := .fetch 9 }
theorem wit_FaultEventsHappen :
    EvMet (fun s a => faultsFor s a.k a.i = [] ∧ ∃ w, s.warp? a.k a.i = some w ∧ w.done = false ∧ defer0 ∈ w.deferred ∧
      laneOpen s defer0.tag = false ∧ (∀ x ∈ w.deferred, x = defer0) ∧ deliverySlot w defer0 = some 0) ∧
    EvMet (fun s a => faultsFor s a.k a.i = [] ∧ ∃ b w, s.block? a.k = some b ∧ b.warps[a.i]? = some w ∧ w.done = true ∧ b.killed = false ∧
      defer0 ∈ w.deferred ∧ laneOpen s defer0.tag = false ∧ (∀ x ∈ w.deferred, x = defer0)) ∧
    EvMet (fun s a => ∃ p b w, s.pend? a.k = some p ∧ s.block? p.bid = some b ∧ b.warps[p.wi]? = some w ∧ w.done = false ∧
      loggedFaults s a.k ≠ [] ∧ untranslated s a.k = false ∧ logPlace w a.k = some 0 ∧ 0 < w.log.length) ∧
    EvMet (fun s a => ∃ p b w, s.pend? a.k = some p ∧ s.block? p.bid = some b ∧ b.warps[p.wi]? = some w ∧ w.done = false ∧
      loggedFaults s a.k ≠ [] ∧ untranslated s a.k = false ∧ logPlace w a.k = none ∧ a.k ∉ w.logWait) ∧
    EvMet (fun s a => (s.domain a.k).held = [held0] ∧ (s.domain a.k).fltq.open = true) ∧
    EvMet (fun s a => (s.domain a.k).waiters.get? (a.v.toNat % 2 ^ 31) = none) ∧
    EvMet (fun s a => (s.domain a.k).waiters.get? (a.v.toNat % 2 ^ 31) = some (.logEnt 1) ∧ ∃ w e, s.warp? 0 0 = some w ∧ w.log[0]? = some e ∧
      e.state ≠ .free ∧ e.tokens.find? (fun y => y.1 == a.v.toNat % 2 ^ 31) = some (9, codeNoPage)) ∧
    EvMet (fun s a => (s.domain a.k).waiters.get? (a.v.toNat % 2 ^ 31) = some (.fetch 0 0 0 codeNoPage) ∧ ∃ sl, s.slot? ref0 = some sl ∧
      sl.wait = .fetch (a.v.toNat % 2 ^ 31)) ∧
    EvMet (fun s a => ∃ b w e, s.block? a.k = some b ∧ b.warps[a.i]? = some w ∧ w.log[a.j]? = some e ∧ e.state = .fatal ∧ w.done = false) ∧
    (∀ kind ∈ [0, 4], EvMet (fun s a => ∃ b w e, s.block? a.k = some b ∧ b.warps[a.i]? = some w ∧ w.log[a.j]? = some e ∧ e.state = .resolved ∧
      e.memfx = false ∧ e.kind = kind)) ∧
    (∃ x tm, decodeWord ent0.enc = .ok x ∧ tmplOf x = some tm) := by
  refine ⟨evMet (evW { warp0 with deferred := [defer0] }) ev0 ⟨rfl, _, rfl, rfl, List.mem_singleton.mpr rfl, rfl, by simp, rfl⟩,
    evMet (evW { warp0 with done := true, deferred := [defer0] }) ev0 ⟨rfl, _, _, rfl, rfl, rfl, rfl, List.mem_singleton.mpr rfl, rfl, by simp⟩,
    evMet { flying [faultedL] [pendL] with blocks := [blkOf (warpLog LogEnt.empty)] } { k := 1 } ⟨_, _, _, rfl, rfl, rfl, rfl, by decide, rfl, rfl, by decide⟩,
    evMet { flying [faultedL] [pendL] with blocks := [blkOf (warpLog { ent0 with tag := 2 })] } { k := 1 }
      ⟨_, _, _, rfl, rfl, rfl, rfl, by decide, rfl, rfl, by decide⟩,
    evMet { evW warp0 with domains := [(0, { dom0 with held := [held0], fltq := ringOpen })] } ev0 ⟨rfl, rfl⟩,
    evMet (evW warp0) ev0 rfl,
    evMet { domWait (.logEnt 1) with blocks := [blkOf (warpLog ent0)] } { v := 9 } ⟨rfl, _, _, rfl, rfl, by decide, rfl⟩,
    evMet { domWait (.fetch 0 0 0 codeNoPage) with blocks := [blkOf { warp0 with slots := [fetcher, Slot.empty] }] } { v := 0x80000009 }
      ⟨rfl, _, rfl, rfl⟩,
    evMet (evW (warpLog { ent0 with state := .fatal })) ev0 ⟨_, _, _, rfl, rfl, rfl, rfl, rfl⟩, ?_, ?_⟩
  · intro kind _
    exact evMet (evW (warpLog { ent0 with state := .resolved, kind := kind })) ev0 ⟨_, _, _, rfl, rfl, rfl, rfl, rfl, rfl⟩
  · exact ⟨_, _, rfl, rfl⟩

/-- The event's request, at number 0, with what the statements ask of it. -/
def ReqMet (pre : State → EvArgs → Req → Prop) : Prop := EvMet (fun s a => ∃ r, s.req? a.k = some r ∧ pre s a r)
theorem reqMet (s : State) (a : EvArgs) (r : Req) {pre : State → EvArgs → Req → Prop} (hr : ({ s with ops := .event a } : State).req? a.k = some r)
    (h : pre { s with ops := .event a } a r) : ReqMet pre := evMet s a ⟨r, hr, h⟩
def vaHost : DWord := BitVec.ofNat 64 (56 * 2 ^ 51)
def vaPod : DWord := BitVec.ofNat 64 (61 * 2 ^ 51 + 2 ^ 47)
def leafIs (x : DWord) : Domain := { dom0 with tlb := [{ page := 0, size := 2 ^ 21, leaf := x, lpa := 0, moving := false }] }
def ownsTlb (x : DWord) (r : Req) : State := { flying [r] [pendL] with domains := [(0, leafIs x)] }
/-- A request whose turn it is at the owner 0 (offset 0x1000), or at one out of reach. -/
abbrev OwnerDue (s : State) (r : Req) : Prop := r.stage = .toOwner ∧ translateDue s r = true ∧ ownerOf r.target ≠ 56 ∧
  translator (waferOf (dkOfCk r.core)) r.target = (0, 0x1000) ∧ ownerOf r.target ≠ 61 ∧ heldAtOwner s 0 0x1000 = false
theorem wit_request_translate :
    (∀ va ∈ [vaHost, vaHost + BitVec.ofNat 64 (2 ^ 50)], ReqMet (fun s _ r => r.stage = .toOwner ∧ translateDue s r = true ∧ ownerOf r.target = 56 ∧
      (offsetOf r.target < 2 ^ 50 ∨ (apertureOff r.target).isSome = true))) ∧
    ReqMet (fun s _ r => r.stage = .toOwner ∧ translateDue s r = true ∧ r.pieces = [] ∧ r.kind = .load ∧ ownerOf r.target = 61 ∧
      podReach s (waferOf (dkOfCk r.core)) (podWafer r.target) = false) ∧
    ReqMet (fun s _ r => OwnerDue s r ∧ tlbFind (s.domain 0) 0x1000 = none) ∧
    ReqMet (fun s _ r => OwnerDue s r ∧ r.pieces = [] ∧ r.kind = .load ∧
      ∃ e, tlbFind (s.domain 0) 0x1000 = some e ∧ permOk { entry := e.leaf.toNat, addr := e.lpa, size := e.size } r.access r.priv = false) ∧
    ReqMet (fun s _ r => OwnerDue s r ∧ r.pieces = [] ∧ r.kind = .load ∧
      ∃ e, tlbFind (s.domain 0) 0x1000 = some e ∧ permOk { entry := e.leaf.toNat, addr := e.lpa, size := e.size } r.access r.priv = true ∧
        ({ entry := e.leaf.toNat, addr := e.lpa, size := e.size } : Leaf).world ≠ r.secure) ∧
    (∀ x ∈ [0xFF, 0x3F], ReqMet (fun s _ r => OwnerDue s r ∧ r.strong = true ∧
      ∃ e, tlbFind (s.domain 0) 0x1000 = some e ∧ e.leaf = x ∧ permOk { entry := e.leaf.toNat, addr := e.lpa, size := e.size } r.access r.priv = true ∧
        ({ entry := e.leaf.toNat, addr := e.lpa, size := e.size } : Leaf).world = r.secure ∧
        classFault r.kind ({ entry := e.leaf.toNat, addr := e.lpa, size := e.size } : Leaf).cls = none ∧
        ((({ entry := e.leaf.toNat, addr := e.lpa, size := e.size } : Leaf).bit 6 = true ∧ r.access.writes = false) ∨
          (s.unitNat ({ entry := e.leaf.toNat, addr := e.lpa, size := e.size } : Leaf).addr 8).1 = e.leaf.toNat))) := by
  refine ⟨?_, reqMet (flying [{ reqL with va := vaPod }] [pendL]) ev0 _ rfl (by decide),
    reqMet { flying [reqL] [pendL] with domains := [] } ev0 _ rfl (by decide +kernel),
    reqMet (ownsTlb 0xF1 reqL) ev0 _ rfl ⟨by decide +kernel, by decide, by decide, _, rfl, by decide⟩,
    reqMet (ownsTlb 0x4FF reqL) ev0 _ rfl ⟨by decide +kernel, by decide, by decide, _, rfl, by decide, by decide⟩, ?_⟩
  · intro va hva
    simp only [List.mem_cons, List.not_mem_nil, or_false] at hva
    rcases hva with rfl | rfl
    · exact reqMet (flying [{ reqL with va := vaHost }] [pendL]) ev0 _ rfl (by decide)
    · exact reqMet (flying [{ reqL with va := vaHost + BitVec.ofNat 64 (2 ^ 50) }] [pendL]) ev0 _ rfl (by decide)
  · intro x hx
    simp only [List.mem_cons, List.not_mem_nil, or_false] at hx
    rcases hx with rfl | rfl
    · exact reqMet (ownsTlb 0xFF { reqL with strong := true }) ev0 _ rfl
        ⟨by decide +kernel, by decide, _, rfl, rfl, by decide, by decide, by decide, .inl (by decide)⟩
    · exact reqMet { ownsTlb 0x3F { reqL with strong := true } with mem := [(0, 0x3F)] } ev0 _ rfl
        ⟨by decide +kernel, by decide, _, rfl, rfl, by decide, by decide, by decide, .inr (by decide +kernel)⟩
/-- A walk of page 0 of owner 0 from the root at 0, which finds nothing, with the requests that wait for it. -/
def walking (rs : List Req) (d : Domain) : State := { flying rs [pendL] with domains := [(0, { d with walks := [(0, 0)] })] }
def barePage : Domain := { Domain.init with up := true }
/-- The class of domain 0's first 2 MiB being changed. -/
def classChange : UnitOp :=
  { op := 90, what := 1, dk := 0, lo := 0, hi := 2 ^ 21, cls := 1, secure := false, waitReqs := [], cores := [], tag := none, core := 0,
    bid := 0, wi := 0, host := false, phase := 1 }
def WalkFound (s : State) (a : EvArgs) : Option Leaf :=
  (walkRoot (s.updDomain a.k (fun d => { d with walks := d.walks.filter (fun x => x.1 != a.i) })) a.k (a.i * 2 ^ 16) false 0).1
def WalkLeft (s : State) (a : EvArgs) : State :=
  (walkRoot (s.updDomain a.k (fun d => { d with walks := d.walks.filter (fun x => x.1 != a.i) })) a.k (a.i * 2 ^ 16) false 0).2
theorem wit_walk_done :
    (∀ held : Bool, EvMet (fun s a => ((s.domain a.k).walks.take 16).find? (fun x => x.1 == a.i) = some (a.i, 0) ∧
      WalkFound s a = none ∧ walkWaiters s a.k a.i = if held then [reqAt (.walking 0)] else [])) ∧
    EvMet (fun s a => ((s.domain a.k).walks.take 16).find? (fun x => x.1 == a.i) = some (a.i, 0) ∧ walkWaiters s a.k a.i = [reqAt (.walking 0)] ∧
      WalkFound s a = none ∧ heldAtOwner (WalkLeft s a) a.k 0x1000 = true) ∧
    (∀ e ∈ [none, some ({ page := 0, size := 2 ^ 21, leaf := 0xFF, lpa := 0, moving := false } : TlbEnt)],
      EvMet (fun s a => ((s.domain a.k).walks.take 16).find? (fun x => x.1 == a.i) = some (a.i, 0) ∧ walkWaiters s a.k a.i = [reqAt (.walking 0)] ∧
      WalkFound s a = none ∧ heldAtOwner (WalkLeft s a) a.k 0x1000 = false ∧ tlbFind ((WalkLeft s a).domain a.k) 0x1000 = e ∧
        (walkRoot (WalkLeft s a) a.k 0x1000 false 0).1 = none)) ∧
    ((reqAt (.walking 0)).pieces = [] ∧ (reqAt (.walking 0)).kind = .load ∧
      (translator (waferOf (dkOfCk (reqAt (.walking 0)).core)) (reqAt (.walking 0)).target).2 = 0x1000) := by
  refine ⟨fun held => ?_, evMet { walking [reqAt (.walking 0)] barePage with unitOps := [classChange] } ev0
      (by decide +kernel),
    fun e he => ?_, by decide⟩
  · cases held
    · exact evMet (walking [] barePage) ev0 (by decide +kernel)
    · exact evMet (walking [reqAt (.walking 0)] barePage) ev0 (by decide +kernel)
  · simp only [List.mem_cons, List.not_mem_nil, or_false] at he
    rcases he with rfl | rfl
    · exact evMet (walking [reqAt (.walking 0)] barePage) ev0 (by decide +kernel)
    · exact evMet (walking [reqAt (.walking 0)] dom0) ev0 (by decide +kernel)
/-- A request of kind `k` at its home, at 0x1000 of domain 0, and the state it is performed in. -/
def homeReq (k : ReqKind) (st : Stage) : Req := { reqL with kind := k, stage := st, pa := 0x1000, size := 8, obj := 0x1000, strong := true }
def homed (k : ReqKind) (st : Stage) : State := flying [homeReq k st] [pendL]
/-- A heal of the word at 0x1008, in an object of 16 bytes at 0x1000, that compares with `x`. -/
def healReq (x : DWord) : Req := { homeReq .heal .toHome with va := 0x1008, cmp := x }
def healing (x : DWord) : State := { flying [healReq x] [] with mem := [(0x1000, 1)] }
/-- A 128-bit access, none or one half of it performed. -/
def wideReq (k : ReqKind) (h : Option Bool) : Req := { homeReq k .toHome with size := 16, half := h }
theorem atHome (s : State) (r : Req) (hr : ({ s with ops := .event ev0 } : State).req? 0 = some r) (hs : r.stage = .toHome)
    (h : (!lockHolds { s with ops := .event ev0 } r && !behindForward { s with ops := .event ev0 } r && !behindOthers { s with ops := .event ev0 } r &&
      !r.splits && r.half.isNone && (homeFault (countHot { s with ops := .event ev0 } r.pa r.core) r).isNone) = true)
    (hp : prepHome { s with ops := .event ev0 } r = .ready) :
    AtHome { s with ops := .event ev0 } (countHot { s with ops := .event ev0 } r.pa r.core) ev0 r := by
  simp only [Bool.and_eq_true, Bool.not_eq_true', Option.isNone_iff_eq_none] at h
  exact ⟨⟨hr, hs⟩, h.1.1.1.1.1, h.1.1.1.1.2, h.1.1.1.2, ⟨h.1.1.2, h.1.2⟩, hp, rfl, h.2⟩
theorem wit_TranslationAndHomeHappen :
    (∀ k ∈ [ReqKind.store, .load, .rmw 0, .rmw 9, .red 1, .resolve], EvMet (fun s a => ∃ r s1, AtHome s s1 a r ∧ r.kind = k ∧ r.pieces = [] ∧
      r.strong = true ∧ r.pa % 128 + r.size ≤ 128 ∧ forwarding s r.pa = none)) ∧
    (∀ x ∈ [(0 : DWord), 5], EvMet (fun s a => ∃ r s1, AtHome s s1 a r ∧ r.kind = .heal ∧ forwarding s r.pa = none ∧
      BitVec.ofNat 64 (natOfBytes (memRead s1.mem r.fieldPa r.size)) = 0 ∧ r.cmp = x)) ∧
    (∀ k ∈ [ReqKind.load, .store], ∀ h ∈ [none, some false, some true], EvMet (fun s a => ∃ r, AtStage s a r .toHome ∧ lockHolds s r = false ∧
      behindForward s r = false ∧ behindOthers s r = false ∧ prepHome s r = .ready ∧ homeFault s r = none ∧
      homeFault (countHot s r.pa r.core) r = none ∧ r.kind = k ∧ r.half = h ∧ (h = none → r.splits = true))) ∧
    (∀ st ∈ [Stage.visitorRead, .ownership], EvMet (fun s a => ∃ r s1, AtStage s a r st ∧ lockHolds s r = false ∧ behindOthers s r = false ∧
      s1 = countHot s r.pa r.core ∧ prepLine s r (r.pa / 128) (st == .ownership) (some (dkOfCk r.core)) = .ready ∧ r.attr.cls = 0 ∧
      prepSnoops s r (windowNeeds s r) false = .ready ∧ prepSnoops s r [] true = .ready ∧ prepRoom s (r.pa / 128) = .ready ∧
      homeFault s1 r = none ∧ noGrant s r = false ∧ noGrant s1 r = false ∧
      r.hint = 0 ∧ pageLocked s r.pa = false ∧ forwarding s r.pa = none ∧ s.poisoned (r.pa / 128 * 128) 128 = false)) := by
  refine ⟨fun k hk => ?_, ?_, fun k hk h hh => ?_, fun st hst => ?_⟩
  · simp only [List.mem_cons, List.not_mem_nil, or_false] at hk
    rcases hk with rfl | rfl | rfl | rfl | rfl | rfl <;>
      exact ⟨homed _ .toHome, ev0, rfl, homeReq _ .toHome, _, atHome (homed _ .toHome) _ rfl rfl (by decide +kernel) (by rfl), rfl, rfl, rfl, by decide,
        by decide +kernel⟩
  · intro x hx
    simp only [List.mem_cons, List.not_mem_nil, or_false] at hx
    rcases hx with rfl | rfl <;>
      exact ⟨healing _, ev0, rfl, healReq _, _, atHome (healing _) _ rfl rfl (by decide +kernel) (by rfl), rfl, by decide +kernel, by decide +kernel, rfl⟩
  · simp only [List.mem_cons, List.not_mem_nil, or_false] at hk hh
    rcases hk with rfl | rfl <;> rcases hh with rfl | rfl | rfl <;>
      exact ⟨flying [wideReq _ _] [pendL], ev0, rfl, wideReq _ _, ⟨rfl, rfl⟩, by decide +kernel, by decide +kernel, by decide +kernel, by rfl,
        by decide +kernel, by decide +kernel, rfl, rfl, by decide⟩
  · simp only [List.mem_cons, List.not_mem_nil, or_false] at hst
    rcases hst with rfl | rfl
    · exact ⟨homed .load .visitorRead, ev0, rfl, homeReq .load .visitorRead, _, ⟨rfl, rfl⟩, by decide +kernel, by decide +kernel, rfl, by rfl, by decide,
        by rfl, by rfl, by rfl, by decide +kernel⟩
    · exact ⟨homed .store .ownership, ev0, rfl, homeReq .store .ownership, _, ⟨rfl, rfl⟩, by decide +kernel, by decide +kernel, rfl, by rfl, by decide,
        by rfl, by rfl, by rfl, by decide +kernel⟩

/-- Messages of line 32 of domain 0 for the visitor partition of domain 1, which holds a copy `v` in way 0 or none. -/
def vline0 (st : VState) (q : BitVec 8) : VLine :=
  { pline := 32, state := st, seq := q, bytes := List.replicate 128 7, dirty := if st = .m then 1 else 0, gid := 0, cls := 0, vline := 32, way := 0 }
def msg (b : MsgBody) : Msg := { id := 0, body := b }
def coh (ms : List Msg) (vs : List VLine) (ts : List Trans) : State :=
  { evW warp0 with msgs := ms, reqs := [homeReq .load .granted], domains := [(0, { dom0 with trans := ts }), (1, { dom0 with visit := vs })] }
def line0 : List Byte := List.replicate 128 9
def trans0 : Trans := { pline := 32, req := none, waitFor := [(1, 3)], inval := true }
/-- Whether the message stands first of its class on its way. -/
abbrev MsgDue (s : State) (b : MsgBody) : Prop := s.msg? 0 = some (msg b) ∧ msgDue s (msg b) = true
/-- Wafer 0 with the host-coherent window at 0, the host's state of half 64 (address 0x1000), its snoops and its reads that wait. -/
def hostWin (st : Nat) (snoops : List (Nat × Bool × Nat)) (reads : List (Nat × Bool × Nat)) : State :=
  { evW warp0 with wafers := [(0, { Wafer.init with hostwinEn := true, halves := [(64, st)], snoops := snoops, hostReads := reads })] }
theorem win0 (st : Nat) (sn rd : List (Nat × Bool × Nat)) (o : Ops) : halfAddr { hostWin st sn rd with ops := o } 0 64 = some 0x1000 := by
  simp [halfAddr, hostWin, State.wafer, Tab.get, Tab.get?, devAddr, Wafer.init]
theorem wit_CoherenceEventsHappen :
    (∀ drop ∈ [none, some false, some true], ∀ k ∈ [ReqKind.load, .store], EvMet (fun s _ => ∃ r, MsgDue s (.grant 32 1 false 3 0 line0 drop) ∧
      s.req? 0 = some r ∧ r.pa / 128 = 32 ∧ r.kind = k ∧ s.vis? 1 32 = none ∧
      ∃ k < (s.domain 1).visitor, ∀ v ∈ (s.domain 1).visit, visSet v.pline = visSet 32 → v.way ≠ k)) ∧
    (∀ q ∈ [2, 4], EvMet (fun s _ => MsgDue s (.probe 32 1 true q) ∧ awaited s 32 1 = some (3, 0))) ∧
    EvMet (fun s _ => MsgDue s (.probe 32 1 true 3) ∧ awaited s 32 1 = none ∧ ∃ v, s.vis? 1 32 = some v ∧ v.tracked = true ∧
      v.state = .m ∧ seqAhead v.seq 3 = false) ∧
    EvMet (fun s _ => MsgDue s (.probe 32 1 false 3) ∧ awaited s 32 1 = none ∧ ∃ v, s.vis? 1 32 = some v ∧ v.tracked = true ∧
      v.state = .e ∧ seqAhead v.seq 3 = true) ∧
    EvMet (fun s _ => MsgDue s (.probe 32 1 true 3) ∧ awaited s 32 1 = none ∧ s.vis? 1 32 = none) ∧
    EvMet (fun s _ => MsgDue s (.answer 32 1 3 0 [] false) ∧ (writebackOf s 1 32).isSome = true) ∧
    (∀ dirty ∈ [(0 : BitVec 4), 1], EvMet (fun s _ => MsgDue s (.answer 32 1 3 dirty line0 false) ∧ line0.length = 128 ∧ writebackOf s 1 32 = none ∧
      (s.domain (homeOfLine 32)).trans.find? (fun x => x.pline == 32 && x.waitFor.contains (1, 3)) = some trans0)) ∧
    EvMet (fun s a => s.msgs = [] ∧ ∃ v, s.vis? a.k a.i = some v ∧ v.state = .m) ∧
    EvMet (fun s a => writebackOf s a.k a.i = some (msg (.writeback 32 1 1 line0)) ∧ msgDue s (msg (.writeback 32 1 1 line0)) = true ∧
      (s.domain (homeOfLine a.i)).trans = []) ∧
    EvMet (fun s a => writebackOf s a.k a.i = some (msg (.writeback 32 1 1 line0)) ∧ msgDue s (msg (.writeback 32 1 1 line0)) = true ∧
      (s.domain (homeOfLine a.i)).trans.find? (fun x => x.pline == a.i && x.waitFor.any (fun y => y.1 == a.k)) = some trans0) ∧
    EvMet (fun s a => ∃ b, a.j = 9 ∧ s.block? a.i = some b ∧ dkOfCk b.core = a.k) ∧
    (∀ st ∈ [0, 1, 2], EvMet (fun s a => halfAddr s a.k a.i = some 0x1000 ∧ Tab.get 0 (s.wafer a.k).halves a.i = st ∧ a.data.length = 64 ∧
      hostBehind s a.k a.i (0x1000 / 128) s.nextId = false ∧ (s.wafer a.k).hostReads = [])) ∧
    EvMet (fun s a => halfAddr s a.k a.i = some 0x1000 ∧ hostBehind s a.k a.i (0x1000 / 128) s.nextId = true ∧ (s.wafer a.k).hostReads = []) ∧
    (∀ own, EvMet (fun s a => halfAddr s a.k a.i = some 0x1000 ∧ (s.wafer a.k).hostReads.find? (fun h => h.1 == a.i && h.2.1 == own) = some (64, own, 0) ∧
      hostBehind s a.k a.i (0x1000 / 128) 0 = false)) ∧
    (∀ inval, EvMet (fun s a => halfAddr s a.k a.i = some 0x1000 ∧
      (s.wafer a.k).snoops.find? (fun e => e.1 == a.i) = some (a.i, inval, 0))) := by
  refine ⟨fun drop hd k hk => ?_, fun q hq => ?_, evMet (coh [msg (.probe 32 1 true 3)] [vline0 .m 3] []) ev0 ⟨by decide +kernel, rfl, _, rfl, rfl, rfl, rfl⟩,
    evMet (coh [msg (.probe 32 1 false 3)] [vline0 .e 4] []) ev0 ⟨by decide +kernel, rfl, _, rfl, rfl, rfl, rfl⟩,
    evMet (coh [msg (.probe 32 1 true 3)] [] []) ev0 ⟨by decide +kernel, rfl, rfl⟩,
    evMet (coh [msg (.answer 32 1 3 0 [] false), { id := 1, body := .writeback 32 1 1 line0 }] [] []) ev0 (by decide +kernel),
    fun d hd => ?_, evMet (coh [] [vline0 .m 3] []) { k := 1, i := 32 } ⟨rfl, _, rfl, rfl⟩,
    evMet (coh [msg (.writeback 32 1 1 line0)] [] []) { k := 1, i := 32 } (by decide +kernel),
    evMet (coh [msg (.writeback 32 1 1 line0)] [] [trans0]) { k := 1, i := 32 } (by decide +kernel),
    evMet (evW warp0) { j := 9 } ⟨_, rfl, rfl, rfl⟩,
    fun st _ => evMet (hostWin st [] []) { i := 64, data := List.replicate 64 1 } ⟨win0 st [] [] _, rfl, rfl, by rfl, rfl⟩,
    evMet { hostWin 0 [] [] with domains := [(0, { dom0 with trans := [trans0] })] } { i := 64 } ⟨by simp [halfAddr, hostWin, State.wafer, Tab.get, Tab.get?, devAddr, Wafer.init], by decide +kernel, rfl⟩,
    fun own => evMet (hostWin 1 [] [(64, own, 0)]) { i := 64 } ⟨win0 1 [] _ _, by cases own <;> rfl, by cases own <;> rfl⟩,
    fun inval => evMet (hostWin 1 [(64, inval, 0)] []) { i := 64 } ⟨win0 1 _ _ _, rfl⟩⟩
  all_goals simp only [List.mem_cons, List.not_mem_nil, or_false] at *
  · exact evMet { coh [msg (.grant 32 1 false 3 0 line0 drop)] [] [] with reqs := [homeReq k .granted] } ev0
      ⟨_, ⟨rfl, by rfl⟩, rfl, by show 0x1000 / 128 = 32; decide, rfl, rfl, 0, by show 0 < 4; decide, fun v hv => by cases hv⟩
  · exact evMet (coh [msg (.probe 32 1 true q), { id := 1, body := .grant 32 1 false 3 0 line0 none }] [] []) ev0 ⟨⟨rfl, by rfl⟩, by rfl⟩
  · exact evMet (coh [msg (.answer 32 1 3 d line0 false)] [] [trans0]) ev0 ⟨⟨rfl, by rfl⟩, rfl, by rfl, by rfl⟩

/-- Domain 0 with the changes of a test. -/
def dom (f : Domain → Domain) : State := { evW warp0 with domains := [(0, f dom0)] }
def dirEnt0 : DirEnt := { pline := 32, sharers := 3, owner := 1, owned := false, seq := 5, lru := 0 }
def inWay (n : Nat) : VLine :=
  { pline := 32, state := .m, seq := 3, bytes := List.replicate 128 7, dirty := 1, gid := 0, cls := 0, vline := 32, way := n }
/-- The host's port through which an aperture access of wafer `a.k` comes. -/
def hostPort (a : EvArgs) : Nat := mkDk a.k (hostDomains.getD (a.j % 4) 0)
theorem wit_RegisterEventsHappen :
    (∀ v ∈ [(0 : BitVec 32), 12], EvMet (fun s a => (s.domain a.k).splitBusy = none ∧ a.v.toNat % 16 ≤ 12 ∧ a.v = v)) ∧
    EvMet (fun s a => (s.domain a.k).splitBusy.isSome = true) ∧ EvMet (fun _ a => 12 < a.v.toNat % 16) ∧
    (∀ n ∈ [4, 12], EvMet (fun s a => (s.domain a.k).splitBusy = some n ∧ splitDue s a.k = true ∧ (s.domain a.k).visit ≠ [] ∧
      ∀ v ∈ (s.domain a.k).visit, v.way < n)) ∧
    (∀ n ∈ [0, 3], EvMet (fun s a => (s.domain a.k).splitBusy = some n ∧ splitDue s a.k = true ∧
      ∃ v ∈ (s.domain a.k).visit, n ≤ v.way ∧ v.state = .m ∧ v.bytes.length = 128 ∧
        (∀ x ∈ (s.domain a.k).visit, x.pline = v.pline → x = v) ∧ v.dirty.getLsbD 0 = true)) ∧
    EvMet (fun s a => (s.domain a.k).dirrd = none) ∧
    EvMet (fun s a => (s.domain a.k).dirrd = some 32 ∧ s.dir? 32 = some dirEnt0 ∧ dirEnt0.owner < 64) ∧
    EvMet (fun s a => (s.domain a.k).dirrd = some 32 ∧ s.dir? 32 = none) ∧
    (∀ priv, EvMet (fun s a => coreOn s (dkOfCk a.k) (slotOfCk a.k) = true ∧ blocksOn s a.k ≠ [] ∧
      ∀ b ∈ blocksOn s a.k, b.lrec.privileged = priv)) ∧
    EvMet (fun s a => coreOn s (dkOfCk a.k) (slotOfCk a.k) = true ∧ blocksOn s a.k = []) ∧
    (∀ v ∈ [(1 : BitVec 32), 64], EvMet (fun s a => bayOn s a.k = true ∧ 1 ≤ a.v.toNat % 128 ∧ a.v.toNat % 128 ≤ 64 ∧ a.v = v)) ∧
    (∀ v ∈ [(0 : BitVec 32), 65], EvMet (fun s a => bayOn s a.k = true ∧ (a.v.toNat % 128 = 0 ∨ 64 < a.v.toNat % 128) ∧ a.v = v)) ∧
    EvMet (fun s _ => 4 * (s.safelightSteps + 1) ≤ s.clock ∧ s.bays ≠ []) ∧
    EvMet (fun s a => (s.domain (hostPort a)).portq = [] ∧ a.orig = .host ∧ a.data = [] ∧ (s.wafer a.k).hostwinEn = false ∧ a.i = 0x30) ∧
    EvMet (fun _ a => a.orig = .firmware true ∧ a.i = 4 ∧ a.v.toNat % 64 ≠ 0) ∧ EvMet (fun _ a => a.i = 0x10 ∧ a.orig = .firmware true) ∧
    EvMet (fun _ a => a.i = 0x10 ∧ a.orig = .device true) ∧ EvMet (fun _ a => a.i = 0x50 ∧ a.orig = .device false) ∧
    EvMet (fun _ a => a.i % 4 ≠ 0 ∧ a.orig = .device false) ∧ EvMet (fun s a => a.i % 4 ≠ 0 ∧ a.orig = .host ∧ (s.domain (hostPort a)).portq = []) ∧
    EvMet (fun s a => a.data = [1] ∧ a.orig = .host ∧ (s.domain (hostPort a)).portq = []) ∧
    EvMet (fun s a => a.orig = .firmware true ∧ a.i = 0x1000000 + 0x100000 * 55 + 0x18 ∧ (s.domain (mkDk a.k 55)).saves = []) ∧
    EvMet (fun _ a => a.orig = .firmware true ∧ a.i = 0x1000000 + 0x100000 * 55 + 0x28) := by
  refine ⟨fun v hv => ?_, evMet (dom (fun d => { d with splitBusy := some 3 })) ev0 rfl, evMet (evW warp0) { v := 13 } (by decide),
    fun n hn => ?_, fun n hn => ?_, evMet (evW warp0) ev0 rfl,
    evMet (dom (fun d => { d with dirrd := some 32, dir := [dirEnt0] })) ev0 ⟨rfl, rfl, by decide⟩,
    evMet (dom (fun d => { d with dirrd := some 32 })) ev0 ⟨rfl, rfl⟩,
    fun priv => evMet { evW warp0 with blocks := [{ blk0 with lrec := { blk0.lrec with privileged := priv } }] } ev0
      ⟨by cases priv <;> decide +kernel, by cases priv <;> decide +kernel, by cases priv <;> decide +kernel⟩,
    evMet (evW warp0) { k := 1 } ⟨by decide, by decide⟩, fun v hv => ?_, fun v hv => ?_,
    evMet { evW warp0 with clock := 4, bays := [(0, Bay.init)] } ev0 ⟨by decide, by decide⟩, evMet (evW warp0) { i := 0x30 } (by decide +kernel),
    evMet (evW warp0) { i := 4, v := 8, orig := .firmware true } (by decide), evMet (evW warp0) { i := 0x10, orig := .firmware true } ⟨rfl, rfl⟩,
    evMet (evW warp0) { i := 0x10, orig := .device true } ⟨rfl, rfl⟩, evMet (evW warp0) { i := 0x50, orig := .device false } ⟨rfl, rfl⟩,
    evMet (evW warp0) { i := 2, orig := .device false } ⟨by decide, rfl⟩, evMet (evW warp0) { i := 2 } (by decide +kernel),
    evMet (evW warp0) { data := [1] } (by decide +kernel),
    evMet (evW warp0) { i := 0x1000000 + 0x100000 * 55 + 0x18, orig := .firmware true } (by decide +kernel),
    evMet (evW warp0) { i := 0x1000000 + 0x100000 * 55 + 0x28, orig := .firmware true } (by decide)⟩
  all_goals simp only [List.mem_cons, List.not_mem_nil, or_false] at *
  · rcases hv with rfl | rfl
    · exact evMet (evW warp0) ev0 (by decide)
    · exact evMet (evW warp0) { v := 12 } (by decide)
  · rcases hn with rfl | rfl
    · exact evMet (dom (fun d => { d with splitBusy := some 4, visit := [inWay 3] })) ev0 (by decide +kernel)
    · exact evMet (dom (fun d => { d with splitBusy := some 12, visit := [inWay 11] })) ev0 (by decide +kernel)
  · have split (n : Nat) : EvMet (fun s a => (s.domain a.k).splitBusy = some n ∧ splitDue s a.k = true ∧
        ∃ v ∈ (s.domain a.k).visit, n ≤ v.way ∧ v.state = .m ∧ v.bytes.length = 128 ∧
          (∀ x ∈ (s.domain a.k).visit, x.pline = v.pline → x = v) ∧ v.dirty.getLsbD 0 = true) :=
      evMet (dom (fun d => { d with splitBusy := some n, visit := [inWay n] })) ev0
        ⟨rfl, rfl, _, List.mem_cons_self .., Nat.le_refl n, rfl, rfl, fun x hx _ => List.mem_singleton.mp hx,
          by show (1 : BitVec 4).getLsbD 0 = true; decide⟩
    rcases hn with rfl | rfl
    · exact split 0
    · exact split 3
  · rcases hv with rfl | rfl
    · exact evMet (evW warp0) { v := 1 } (by decide)
    · exact evMet (evW warp0) { v := 64 } (by decide)
  · rcases hv with rfl | rfl
    · exact evMet (evW warp0) ev0 (by decide)
    · exact evMet (evW warp0) { v := 65 } (by decide)

/-- A page of owner 0 mapped with entry `x`, and a migration of page 4 (64 KiB) to `new`. -/
def pageIs (n size : Nat) (x : DWord) : TlbEnt := { page := n, size := size, leaf := x, lpa := 0x8000, moving := false }
def mig0 (phase new : Nat) : Mig := { vpage := 4, size := 2 ^ 16, oldPa := 0x40000, newPa := new, tag := none, phase := phase, ownerDk := 0, fwd := [] }
def migrates (m : Mig) (t : List TlbEnt) : State := dom (fun d => { d with migs := [m], tlb := t })
def page4 : List TlbEnt := [pageIs 4 (2 ^ 16) 0x400FF]
def purge0 : UnitOp :=
  { op := 0, what := 2, dk := 0, lo := 0x40000, hi := 0x50000, cls := 0, secure := false, host := false, waitReqs := [], cores := [0], tag := none,
    core := 0, bid := 0, wi := 0, phase := 2 }
theorem wit_migration_events :
    EvMet (fun s a => ∃ u, s.unitOps.find? (fun x => x.op == a.k) = some u ∧ u.phase = 2 ∧ a.i ∈ u.cores) ∧
    EvMet (fun s a => (s.domain a.k).migs = [mig0 0 0x60000] ∧ ∃ s1, findLeaf s a.k (4 * 2 ^ 16) false = (none, s1)) ∧
    EvMet (fun s a => (s.domain a.k).migs = [mig0 0 0x60000] ∧ ∃ s1 l, findLeaf s a.k (4 * 2 ^ 16) false = (some l, s1) ∧ l.size = 2 ^ 30) ∧
    (∀ new ∈ [0x60001, 56 * 2 ^ 35], EvMet (fun s a => (s.domain a.k).migs = [mig0 0 new] ∧ ∃ s1 l, findLeaf s a.k (4 * 2 ^ 16) false = (some l, s1) ∧
      l.size ≠ 2 ^ 30 ∧ ¬(new % l.size = 0 ∧ namesMemory new = true))) ∧
    EvMet (fun s a => (s.domain a.k).migs = [mig0 0 0x40000] ∧ ∃ s1 l, findLeaf s a.k (4 * 2 ^ 16) false = (some l, s1) ∧
      l.size ≠ 2 ^ 30 ∧ (0x40000 % l.size = 0 ∧ namesMemory 0x40000 = true) ∧ 0x40000 = l.frame) ∧
    EvMet (fun s a => (s.domain a.k).migs = [mig0 0 0x60000] ∧ ∃ s1 l, findLeaf s a.k (4 * 2 ^ 16) false = (some l, s1) ∧
      l.size ≠ 2 ^ 30 ∧ (0x60000 % l.size = 0 ∧ namesMemory 0x60000 = true) ∧ 0x60000 ≠ l.frame ∧ l.cls ≠ 1 ∧ s1.unitOps = [] ∧
      winNeeds s1 (leafPa a.k l) l.size true = []) ∧
    EvMet (fun s a => s.memOk ∧ (s.domain a.k).migs.find? (fun x => x.phase == 1) = some (mig0 1 0x60000) ∧
      ∃ s1 l, findLeaf s a.k (4 * 2 ^ 16) false = (some l, s1) ∧ l.addr % 8 = 0 ∧ l.addr / 128 * 128 + 128 ≤ 0x60000 ∧
        hotTable s1 (homeOf 0x40000) = none ∧ hotTable s1 (homeOf 0x60000) = none) ∧
    EvMet (fun s a => (s.domain a.k).migs.find? (fun x => x.phase == 3) = some { mig0 3 0x60000 with fwd := [0] } ∧
      ∃ r, s.req? 0 = some r ∧ r.stage.isOpen = false) := by
  refine ⟨evMet { evW warp0 with unitOps := [purge0] } ev0 ⟨_, rfl, rfl, by decide⟩, evMet (migrates (mig0 0 0x60000) []) ev0 ⟨rfl, _, rfl⟩,
    evMet (migrates (mig0 0 0x60000) [pageIs 0 (2 ^ 30) 0xFF]) ev0 ⟨rfl, _, _, rfl, rfl⟩, fun new hn => ?_,
    evMet (migrates (mig0 0 0x40000) page4) ev0 ⟨rfl, _, _, rfl, by decide, by decide, by decide⟩,
    evMet (migrates (mig0 0 0x60000) page4) ev0 ⟨rfl, _, _, rfl, by decide, by decide, by decide, by decide, rfl, by decide⟩,
    evMet (migrates (mig0 1 0x60000) page4) ev0 ⟨rfl, rfl, _, _, rfl, by decide, by decide, rfl, rfl⟩,
    evMet { migrates { mig0 3 0x60000 with fwd := [0] } page4 with reqs := [homeReq .load .answered] } ev0 ⟨rfl, _, rfl, rfl⟩⟩
  simp only [List.mem_cons, List.not_mem_nil, or_false] at hn
  rcases hn with rfl | rfl
  · exact evMet (migrates (mig0 0 _) page4) ev0 ⟨rfl, _, _, rfl, by decide, by decide⟩
  · exact evMet (migrates (mig0 0 _) page4) ev0 ⟨rfl, _, _, rfl, by decide, by decide⟩
/-- A relocation set of one span (page 4, class 1) and one entry, from 0x40000 to 0x50000: its descriptor at 0x1000, its list at 0x10A0, its
table at 0x1080; and the set in force. -/
def relMem : List Host.Cell :=
  [(0x1000, 0x80), (0x1001, 0x10), (0x1008, 1), (0x100C, 1), (0x1010, 0xA0), (0x1011, 0x10), (0x1082, 4), (0x108A, 5), (0x10A2, 4), (0x10AC, 1)]
def relTlb : List TlbEnt := [pageIs 4 (2 ^ 16) 0x401FF, pageIs 5 (2 ^ 16) 0x501FF, pageIs 0 (2 ^ 16) 0xFF]
def fwd0 (st : FwdState) : FwdEnt := { old := 0x40000, new := 0x50000, state := st }
def span0 : Span := { span := 4, first := 0, count := 1, frame := 4 }
def rel0 (st : FwdState) : RelSet :=
  { desc := 0x1000, fwd := 0x1080, world := false, spans := [span0], entries := [fwd0 st], next := 0, doneWord := 0, doneVal := 0, busy := true,
    tokens := [] }
def relocates (desc : DWord) (rel : Option RelSet) (extra : List Host.Cell) : State :=
  { dom (fun d => { d with tlb := relTlb, relset := desc, rel := rel }) with
    mem := relMem ++ extra, wafers := [(0, { Wafer.init with heapLimit := [(0, 0x100000)] })] }
theorem pair_eq {α β : Type} {x : α × β} {a : α} (h : x.1 = a) : ∃ s, x = (a, s) := ⟨x.2, by rw [← h]⟩
theorem pair_some {α β : Type} {x : Option α × β} (h : x.1.isSome = true) : ∃ r s, x = (some r, s) := by
  obtain ⟨a, b⟩ := x
  cases a with
  | none => cases h
  | some a => exact ⟨a, b, rfl⟩
theorem wit_relocation_events :
    EvMet (fun s a => (s.domain a.k).relBusy = false ∧ ∃ s1, readSet s a.k a.flag = (none, s1)) ∧
    EvMet (fun s a => (s.domain a.k).relBusy = false ∧ ∃ r s1, readSet s a.k a.flag = (some r, s1)) ∧
    EvMet (fun s a => (s.domain a.k).relBusy = true) ∧
    EvMet (fun s a => ∃ r, (s.domain a.k).rel = some r ∧ r.busy = true ∧ r.tokens = [] ∧ ∀ e ∈ r.entries, e.state = .copied ∨ e.state = .skipped) ∧
    EvMet (fun s a => ∃ r, (s.domain a.k).rel = some r ∧ r.busy = true ∧ r.tokens = [] ∧ r.nextEntry = some 0 ∧ r.entries[0]? = some (fwd0 .uncopied) ∧
      r.spans.find? (fun x => decide (x.first ≤ 0) && decide (0 < x.first + x.count)) = some span0 ∧
      bitsOf (s.unitNat (span0.frame * 2 ^ 16 + 0x40000 % 2 ^ 16) 8).1 31 24 ≠ 0) ∧
    EvMet (fun s a => ∃ r, (s.domain a.k).rel = some r ∧ r.busy = true ∧ r.tokens = [] ∧ r.nextEntry = some 0 ∧ r.entries[0]? = some (fwd0 .uncopied) ∧
      let addr := span0.frame * 2 ^ 16 + 0x40000 % 2 ^ 16
      let h := s.unitNat addr 8
      let x := (setFwd h.2 a.k 0 .copying).unitRead addr (min (8 * (h.1 % 2 ^ 13 + 1)) (2 ^ 16 - 0x40000 % 2 ^ 16))
      bitsOf h.1 31 24 = 0 ∧ ∃ s4, writeObject (waferOf a.k) r ((BitVec.ofNat 57 0x50000).signExtend 64) (x.1.set 3 0) x.2 = (.ok (), s4)) :=
  ⟨evMet (relocates 0x1020 none []) ev0 ⟨rfl, pair_eq rfl⟩, evMet (relocates 0x1000 none []) ev0 ⟨rfl, pair_some (by decide +kernel)⟩,
   evMet (relocates 0x1000 (some (rel0 .uncopied)) []) ev0 rfl,
   evMet (relocates 0x1000 (some (rel0 .skipped)) []) ev0 ⟨_, rfl, rfl, rfl, by simp [rel0, fwd0]⟩,
   evMet (relocates 0x1000 (some (rel0 .uncopied)) [(0x40003, 1)]) ev0 ⟨_, rfl, rfl, rfl, rfl, rfl, rfl, by decide⟩,
   evMet (relocates 0x1000 (some (rel0 .uncopied)) []) ev0 ⟨_, rfl, rfl, rfl, rfl, rfl, by decide, pair_eq (by rfl)⟩⟩
/-- A sweep of one record at 0x1000: of no word, or of one word at 0x1100 that holds `w`. -/
def sweep0 (rec_ : DWord) : Sweep := { rec_ := rec_, word := 0, world := false, good := 1, written := 0, skipped := 0 }
def sweeping (rec_ : DWord) (m : List Host.Cell) : State := { dom (fun d => { d with sweep := some (sweep0 rec_) }) with mem := m }
theorem wit_MigrationAndRelocationHappen :
    EvMet (fun s a => (s.domain a.k).sweep = some (sweep0 0x800000) ∧ ∃ s1, unitLoad s (waferOf a.k) 0x800000 16 false = (none, s1)) ∧
    EvMet (fun s a => (s.domain a.k).sweep = some (sweep0 0x1000) ∧ ∃ s1 x h, unitLoad s (waferOf a.k) 0x1000 16 false = (some (x, h), s1) ∧
      bitsOf x 95 64 = 0 ∧ bitsOf x 2 0 = 0 ∧ bitsOf x 63 57 = 0) ∧
    EvMet (fun s a => (s.domain a.k).sweep = some (sweep0 0x1000) ∧ ∃ s1 x h, unitLoad s (waferOf a.k) 0x1000 16 false = (some (x, h), s1) ∧
      bitsOf x 95 64 = 0 ∧ bitsOf x 63 57 ≠ 0) ∧
    (∀ m ∈ [[((0x1001 : Nat), (0x11 : Byte)), (0x1008, 1), (0x1107, 0x80)], [(0x1001, 0x11), (0x1008, 1), (0x1101, 0x20)]],
      EvMet (fun s a => (s.domain a.k).sweep = some (sweep0 0x1000) ∧ ∃ s1 x h p s2, unitLoad s (waferOf a.k) 0x1000 16 false = (some (x, h), s1) ∧
        bitsOf x 95 64 = 1 ∧ bitsOf x 2 0 = 0 ∧ bitsOf x 63 57 = 0 ∧ bitsOf x 127 96 = 0 ∧
        unitXlat s1 (waferOf a.k) 0x1100 .read false (fun c => c == 0 || c == 1) = (some p, s2) ∧
        let word : DWord := BitVec.ofNat 64 (s2.unitNat p 8).1
        (refNull word = true ∨ (refNull word = false ∧ refColour word ≠ 1 ∧ healRef word 1 (BitVec.ofNat 64 (vaddr (refAddr word))) ≠ word ∧
          forwardingOf (s2.unitNat p 8).2 (waferOf a.k) (vaddr (refAddr word)) = none)) ∧
        ∃ p' s3, unitXlat (s2.unitNat p 8).2 (waferOf a.k) 0x1100 .rmw false (fun c => c == 0 || c == 1) = (some p', s3))) := by
  refine ⟨evMet (sweeping 0x800000 []) ev0 ⟨rfl, _, rfl⟩, evMet (sweeping 0x1000 []) ev0 ⟨rfl, _, _, _, rfl, rfl, rfl, rfl⟩,
    evMet (sweeping 0x1000 [(0x1007, 0x80)]) ev0 ⟨rfl, _, _, _, rfl, by rfl, by decide⟩, fun m hm => ?_⟩
  simp only [List.mem_cons, List.not_mem_nil, or_false] at hm
  rcases hm with rfl | rfl
  · exact evMet (sweeping 0x1000 [(0x1001, 0x11), (0x1008, 1), (0x1107, 0x80)]) ev0
      ⟨rfl, _, _, _, _, _, rfl, rfl, rfl, rfl, rfl, rfl, Or.inl rfl, _, _, rfl⟩
  · exact evMet (sweeping 0x1000 [(0x1001, 0x11), (0x1008, 1), (0x1101, 0x20)]) ev0
      ⟨rfl, _, _, _, _, _, rfl, rfl, rfl, rfl, rfl, rfl, Or.inr ⟨by rfl, by decide, by decide, by rfl⟩, _, _, rfl⟩

/-- Two parts of a computation in turn: a translation found, then applied. -/
theorem pair_ok {ε α β : Type} {x : Except ε α × β} (h : (match x.1 with | .ok _ => true | _ => false) = true) : ∃ r s, x = (.ok r, s) := by
  obtain ⟨a, b⟩ := x
  cases a with
  | error _ => cases h
  | ok a => exact ⟨a, b, rfl⟩
theorem pair_then {α β : Type} {x : α × β} {a : α} {p : β → Prop} (h : x.1 = a) (hp : p x.2) : ∃ s, x = (a, s) ∧ p s :=
  ⟨x.2, by rw [← h], hp⟩
/-- Requests at the bridge: for offset `o` of the aperture, and for host address 0, which the owner-56 table at 0x8000 maps. -/
def apReq (o : Nat) (k : ReqKind) (secure : Bool) (x : BitVec 128) : Req :=
  { reqL with va := BitVec.ofNat 64 (56 * 2 ^ 51 + 2 ^ 50 + o), kind := k, stage := .bridge, secure := secure, data := x, size := 4 }
def atBridge (r : Req) : State := flying [r] [pendL]
def hostReq (k : ReqKind) : Req := { reqL with va := vaHost, kind := k, stage := .bridge, data := 5, size := 4 }
def hostMapped (k : ReqKind) : State :=
  { flying [hostReq k] [pendL] with domains := [(0, { dom0 with hostRoot := 0x8000 })], mem := [(0x8000, 1), (0x8002, 1), (0x10000, 0xFF)] }
theorem wit_bridge_events :
    EvMet (fun s a => ∃ r, AtStage s a r .bridge ∧ apertureOff r.target = some 4 ∧ r.kind = .load ∧ apSecure 4 = false) ∧
    EvMet (fun s a => ∃ r, AtStage s a r .bridge ∧ apertureOff r.target = some 0x50 ∧ r.kind = .load ∧ apSecure 0x50 = true ∧ r.secure = true) ∧
    EvMet (fun s a => ∃ r, AtStage s a r .bridge ∧ apertureOff r.target = some 0x50 ∧ r.pieces = [] ∧ r.kind = .store ∧ apSecure 0x50 = true ∧ r.secure = false) ∧
    EvMet (fun s a => ∃ r, AtStage s a r .bridge ∧ apertureOff r.target = some 4 ∧ r.pieces = [] ∧ r.kind = .store ∧ r.data.toNat % 64 ≠ 0) ∧
    EvMet (fun s a => ∃ r, AtStage s a r .bridge ∧ apertureOff r.target = some 4 ∧ r.pieces = [] ∧ r.kind = .rmw 0) ∧
    (∀ k ∈ [ReqKind.load, .store, .rmw 1, .rmw 9], EvMet (fun s a => ∃ r, AtStage s a r .bridge ∧ apertureOff r.target = none ∧ r.kind = k ∧ r.pieces = [] ∧
      ∃ l s1, findLeaf s (mkDk (waferOf (dkOfCk r.core)) 0) (offsetOf r.target) true = (some l, s1) ∧
        ∃ x s2, useLeaf s1 (mkDk (waferOf (dkOfCk r.core)) 0) (offsetOf r.target) true l r.access r.priv r.secure = (.ok x, s2))) ∧
    (rmwOf 9 = .add ∨ rmwOf 9 = .xchg ∨ rmwOf 9 = .cas) ∧ ¬(rmwOf 1 = .add ∨ rmwOf 1 = .xchg ∨ rmwOf 1 = .cas) := by
  refine ⟨evMet (atBridge (apReq 4 .load false 0)) ev0 ⟨_, ⟨rfl, rfl⟩, by decide, rfl, by decide⟩,
    evMet (atBridge (apReq 0x50 .load true 0)) ev0 ⟨_, ⟨rfl, rfl⟩, by decide, rfl, by decide, rfl⟩,
    evMet (atBridge (apReq 0x50 .store false 0)) ev0 ⟨_, ⟨rfl, rfl⟩, by decide, rfl, rfl, by decide, rfl⟩,
    evMet (atBridge (apReq 4 .store false 9)) ev0 ⟨_, ⟨rfl, rfl⟩, by decide, rfl, rfl, by decide⟩,
    evMet (atBridge (apReq 4 (.rmw 0) false 0)) ev0 ⟨_, ⟨rfl, rfl⟩, by decide, rfl, rfl⟩, fun k hk => ?_, by decide, by decide⟩
  simp only [List.mem_cons, List.not_mem_nil, or_false] at hk
  rcases hk with rfl | rfl | rfl | rfl <;>
    exact evMet (hostMapped _) ev0 ⟨hostReq _, ⟨rfl, rfl⟩, by decide, rfl, rfl, { entry := 0xFF, addr := 0x10000, size := 2 ^ 30 },
      pair_then (by rfl) (pair_ok (by rfl))⟩
/-- An inbound window of 2^30 bytes at 0 on domain 0; wafer 1 in reach by link 0. -/
def inbound0 : State := dom (fun d => { d with inwinLog := 30 })
def inEv (off : Nat) (write : Bool) : EvArgs := { i := off, data := [1, 2, 3, 4], flag := write }
def podReq (k : ReqKind) : Req := { reqL with kind := k, stage := .remote, pa := 2 ^ 52 + 0x1000, strong := true }
def linkUp (n : Nat) : PodLink := { PodLink.init with usable := true, peerWafer := 1, replays := n }
def pods (k : ReqKind) : State := { flying [podReq k] [pendL] with wafers := [(0, { Wafer.init with podmap := 3, links := [(0, linkUp 5)] })] }
theorem trip {α β γ : Type} {x : α × β × γ} {a : α} {c : γ} (h : x.1 = a ∧ x.2.2 = c) : ∃ s, x = (a, s, c) := by
  obtain ⟨u, v, w⟩ := x
  obtain ⟨rfl, rfl⟩ := h
  exact ⟨v, rfl⟩
theorem trip_some {α β γ : Type} {x : Option α × β × γ} {c : γ} (h : x.1.isSome = true ∧ x.2.2 = c) : ∃ a s, x = (some a, s, c) := by
  obtain ⟨u, v, w⟩ := x
  obtain ⟨h, rfl⟩ := h
  cases u with
  | none => cases h
  | some a => exact ⟨a, v, rfl⟩
/-- A port where nothing waits; an access within its window, in one piece; where it lies. -/
abbrev PortHere (s : State) (a : EvArgs) : Prop := (portOf a.k).isSome = true ∧ (s.domain a.k).portq = []
abbrev PortIn (s : State) (a : EvArgs) : Prop := PortHere s a ∧ 30 ≤ (s.domain a.k).inwinLog ∧ (s.domain a.k).inwinLog ≤ 46 ∧
  a.i + a.data.length ≤ 2 ^ (s.domain a.k).inwinLog
abbrev PortOne (s : State) (a : EvArgs) : Prop := a.data ≠ [] ∧ vaddr ((s.domain a.k).inwin + BitVec.ofNat 64 a.i) % 8 + a.data.length ≤ 8
def portPlace (s : State) (a : EvArgs) : Option Nat × State × Bool :=
  inboundPlace s (waferOf a.k) ((s.domain a.k).inwin + BitVec.ofNat 64 a.i) a.data.length (if a.flag then .write else .read)
theorem wit_inbound_events :
    EvMet (fun _ a => portOf a.k = none) ∧ EvMet (fun s a => PortHere s a ∧ ¬PortIn s a) ∧
    (∀ write, EvMet (fun s a => PortIn s a ∧ PortOne s a ∧ a.flag = write ∧ ∃ x s1, portPlace s a = (some x, s1, false))) ∧
    (∀ write, EvMet (fun s a => PortIn s a ∧ PortOne s a ∧ a.flag = write ∧ ∃ s1, portPlace s a = (none, s1, true))) ∧
    (∀ write, EvMet (fun s a => PortIn s a ∧ PortOne s a ∧ a.flag = write ∧ ∃ s1, portPlace s a = (none, s1, false))) := by
  refine ⟨evMet inbound0 { k := 1 } (by decide), evMet inbound0 (inEv (2 ^ 30 - 3) true) (by decide +kernel), fun write => ?_, fun write => ?_,
    fun write => ?_⟩ <;> cases write
  · exact evMet inbound0 (inEv 0x1000 false) ⟨by decide +kernel, by decide +kernel, rfl, trip_some (by decide +kernel)⟩
  · exact evMet inbound0 (inEv 0x1000 true) ⟨by decide +kernel, by decide +kernel, rfl, trip_some (by decide +kernel)⟩
  · exact evMet { inbound0 with unitOps := [classChange] } (inEv 0x1000 false) ⟨by decide +kernel, by decide +kernel, rfl, trip (by decide +kernel)⟩
  · exact evMet { inbound0 with unitOps := [classChange] } (inEv 0x1000 true) ⟨by decide +kernel, by decide +kernel, rfl, trip (by decide +kernel)⟩
  · exact evMet inbound0 (inEv 0x800000 false) ⟨by decide +kernel, by decide +kernel, rfl, trip (by decide +kernel)⟩
  · exact evMet inbound0 (inEv 0x800000 true) ⟨by decide +kernel, by decide +kernel, rfl, trip (by decide +kernel)⟩
theorem wit_PortAndLinkEventsHappen :
    EvMet (fun s a => ∃ r, AtStage s a r .remote ∧ r.pieces = [] ∧ r.kind = .load ∧ podReach s (waferOf (dkOfCk r.core)) (waferOf (homeOf r.pa)) = false) ∧
    (∀ k ∈ [ReqKind.store, .load], EvMet (fun s a => ∃ r, AtStage s a r .remote ∧ podReach s (waferOf (dkOfCk r.core)) (waferOf (homeOf r.pa)) = true ∧
      lockHolds s r = false ∧ behindForward s r = false ∧ behindOthers s r = false ∧ prepHome s r = .ready ∧
      homeFault (countHot s r.pa r.core) r = none ∧ r.kind = k ∧ r.pieces = [] ∧ r.splits = false ∧ r.half = none ∧
      r.strong = true ∧ r.pa % 128 + r.size ≤ 128 ∧ routeLink s (waferOf (dkOfCk r.core)) (domOf (dkOfCk r.core)) 1 (r.pa / 128) = some 0)) ∧
    (∀ n ∈ [7, 8], EvMet (fun s a => a.i < 32 ∧ (s.wafer a.k).links.get .init a.i = linkUp n ∧ (linkUp n).present = true ∧ (linkUp n).usable = true)) ∧
    (∀ up, ∀ tr ∈ [none, some 3], EvMet (fun s a => a.i < 32 ∧ ((s.wafer a.k).links.get .init a.i).present = true ∧ a.flag = up ∧
      (s.wafer a.k).training = tr)) ∧
    (∃ s : State, pairPath s = none ∧ s.agenda = [.firmware 0] ∧ (s.wafer 0).training.isSome = true) := by
  refine ⟨evMet (flying [podReq .load] [pendL]) ev0 ⟨_, ⟨rfl, rfl⟩, rfl, rfl, by decide⟩, fun k hk => ?_, fun n _ => ?_,
    fun up tr _ => evMet { evW warp0 with wafers := [(0, { Wafer.init with training := tr })] } { i := 31, flag := up } ⟨by simp, by rfl, rfl, rfl⟩,
    { State.reset with agenda := [.firmware 0], wafers := [(0, { Wafer.init with training := some 3 })] }, by decide +kernel⟩
  · simp only [List.mem_cons, List.not_mem_nil, or_false] at hk
    rcases hk with rfl | rfl
    · exact evMet (pods .store) ev0 ⟨_, ⟨rfl, rfl⟩, by decide +kernel, by decide, by decide, by decide +kernel, by rfl, by decide +kernel, rfl, rfl, rfl, rfl,
        rfl, by decide, by decide +kernel⟩
    · exact evMet (pods .load) ev0 ⟨_, ⟨rfl, rfl⟩, by decide +kernel, by decide, by decide, by decide +kernel, by rfl, by decide +kernel, rfl, rfl, rfl, rfl,
        rfl, by decide, by decide +kernel⟩
  · exact evMet { evW warp0 with wafers := [(0, { Wafer.init with podmap := 3, links := [(0, linkUp n)] })] } ev0 ⟨by decide, by rfl, by rfl, by rfl⟩

/-- Operation `i` with fields `f` at row `row` of the core's matrix queue. -/
def mat0 (i : Instr) (f : FmtA) (kops : List Word) (row state : Nat) : MatOp :=
  { op := 0, tag := 1, bid := 0, wi := 0, pc := 0x10000, enc := codeWord (encode { instr := i, ops := .a f }), kops := kops, pair := [], row := row,
    startRow := 0, state := state, bdata := [], need := 0, work := 0, flags := 0, secure := false, priv := true, lane := 0 }
def quadA : List Word := [0x1000, 0, 64, 32]
def quadB : List Word := [0x3000, 0, 64, 0]
def arrayOf (m : MatOp) : State := { evW warp0 with cores := [(0, { Core.init with matq := [m] })], pends := [{ pendL with kind := .matrix }] }
def turnB (i : Instr) (f : FmtA) (m : MatOp) : Bool :=
  (matNext (arrayOf m) 0 == some m) && (m.fields == some (i, f)) && decide (m.row < 64)
def Turn (i : Instr) (m : MatOp) (p : State → EvArgs → FmtA → Prop) : Prop :=
  EvMet (fun s a => ∃ f b, matNext s a.k = some m ∧ m.fields = some (i, f) ∧ s.block? m.bid = some b ∧ m.row < 64 ∧ p s a f)
theorem turn_of {i : Instr} {m : MatOp} {p : State → EvArgs → FmtA → Prop} (f : FmtA) (hb : m.bid = 0) (hm : matNext (arrayOf m) 0 = some m)
    (hf : m.fields = some (i, f)) (hr : m.row < 64) (h : p (arrayOf m) ev0 f) : Turn i m p := by
  obtain ⟨op, tag, bid, wi, pc, enc, kops, pair, row, startRow, state, bdata, need, work, flags, secure, priv, lane⟩ := m
  subst hb
  exact ⟨arrayOf _, ev0, rfl, f, _, hm, hf, rfl, hr, h⟩
theorem fetch_ok {x : UAns × State} (h : (match x.1 with | .ok _ => true | _ => false) = true) : ∃ bs s1, x = (.ok bs, s1) := by
  obtain ⟨a, b⟩ := x
  cases a with
  | ok bs => exact ⟨bs, b, rfl⟩
  | _ => cases h
def arrUnit : UWho := { ck := 0, bid := 0, secure := false, priv := true }
theorem wit_array_turns :
    Turn .mzero (mat0 .mzero (fMat 7 0 0 0) [] 0 0) (fun _ _ _ => True) ∧
    (∀ row ∈ [0, 63], Turn .mload (mat0 .mload (fMat 7 304 0 0) quadB row 0) (fun s _ f => ∃ bs s1,
      unitFetch s arrUnit (addrAt quadB 0 + BitVec.ofNat 64 (row * wordAt quadB 2)) (64 * mloadSize f) = (.ok bs, s1))) ∧
    Turn .mma (mat0 .mma (fMat 1 288 292 0) (quadA ++ quadB) 0 0) (fun s _ f => ∃ l s1,
      readCols s arrUnit (addrAt quadB 0) (wordAt quadB 2 * munit (fmtB f)) (rowSpan (fmtB f) 32) = (.ok l, s1)) ∧
    (∀ row ∈ [0, 63], Turn .mmaPair (mat0 .mmaPair (fMat 1 288 292 0) (quadA ++ quadB) row 1) (fun s _ f => ∃ bs s1,
      unitFetch s arrUnit (addrAt quadA 0 + BitVec.ofNat 64 (row * wordAt quadA 2 * munit (fmtA f))) (rowSpan (fmtA f) 32) = (.ok bs, s1))) ∧
    Turn .mrow (mat0 .mrow (fMat 4 312 0 15) [63] 0 0) (fun _ _ f => mrowPut f = true) ∧
    Turn .mrow (mat0 .mrow (fMat 4 312 0 7) [63] 0 0) (fun s _ f => mrowPut f = false ∧ ∃ p, s.pend? 1 = some p ∧ p.kind = .matrix) ∧
    Turn .mdrain (mat0 .mdrain (fMat 7 296 265 0) [0x5000, 0, 64, 0x80008, 0x80008, 0, 0, 0] 0 0) (fun _ _ _ => True) ∧
    Turn .mload (mat0 .mload (fMat 7 304 0 0) [0, 1, 64, 0] 0 0) (fun s _ f => ∃ s1,
      unitFetch s arrUnit (addrAt [0, 1, 64, 0] 0 + BitVec.ofNat 64 0) (64 * mloadSize f) = (.log codeNoPage (BitVec.ofNat 64 (2 ^ 32)), s1)) ∧
    Turn .mload (mat0 .mload (fMat 7 304 0 0) [0, 32014336, 64, 0] 0 0) (fun s _ f => ∃ s1,
      unitFetch s arrUnit (addrAt [0, 32014336, 64, 0] 0 + BitVec.ofNat 64 0) (64 * mloadSize f) = (.fault codeLinkDown vaPod, s1)) := by
  refine ⟨turn_of _ rfl (by rfl) (by rfl) (by decide) trivial, fun row hr => ?_,
    turn_of _ rfl (by rfl) (by rfl) (by decide) (pair_ok (by rfl)), fun row hr => ?_,
    turn_of _ rfl (by rfl) (by rfl) (by decide) (by rfl), turn_of _ rfl (by rfl) (by rfl) (by decide) ⟨by rfl, _, rfl, rfl⟩,
    turn_of _ rfl (by rfl) (by rfl) (by decide) trivial, turn_of _ rfl (by rfl) (by rfl) (by decide) (pair_eq (by rfl)),
    turn_of _ rfl (by rfl) (by rfl) (by decide) (pair_eq (by rfl))⟩ <;>
  (simp only [List.mem_cons, List.not_mem_nil, or_false] at hr
   rcases hr with rfl | rfl <;> exact turn_of _ rfl (by rfl) (by rfl) (by decide) (fetch_ok (by rfl)))
/-- An `enl` of 8 rows in the queue of bay 0 at row `row`, or paid with its completion word at 0x7000 still to be written. -/
def eng0 (row state : Nat) (comp : Option (List Word)) : EngCmd :=
  { id := 0, core := 0, bid := 0, wi := 0, pc := 0x10000, gid := 0, warpNo := 0, kind := 0,
    shape := [0x5000, 0, 64, 0x80008, 0x80008, 0, 0, 0], comp := comp, secure := false, priv := true, state := state, waitTile := false, tile := [],
    row := row, token := none, fva := 0, lane := 0 }
def engines (c : EngCmd) : State := { evW warp0 with bays := [(0, { Bay.init with enl := [c] })] }
theorem wit_ArrayAndEngineEventsHappen :
    (∀ c ∈ [eng0 0 0 none, eng0 7 1 none, eng0 7 1 (some [0x7000, 0, 9, 0])], EvMet (fun s a => s.eng? a.k a.i a.j = some c ∧ c.token = none ∧
      (engMayStart s a.k a.i c = true ∨ c.state = 1) ∧ c.row < c.rows ∧ c.kind = 0 ∧ c.row < (shapeOf c.shape).r ∧ (∃ b, s.block? c.bid = some b) ∧
      ∃ bs s2, unitFetch (if c.state = 0 then s.updEng a.k a.i a.j (fun x => { x with state := 1 }) else s)
        { ck := c.core, bid := c.bid, secure := c.secure, priv := c.priv } ((shapeOf c.shape).rowAddr c.row)
          (rowSpan (shapeOf c.shape).tfmt (shapeOf c.shape).c) = (.ok bs, s2))) ∧
    EvMet (fun s a => ∃ x s1, engRow s (eng0 7 1 none) 7 = (.ok x, s1) ∧ s.eng? a.k a.i a.j = some (eng0 7 1 none)) ∧
    EvMet (fun s a => s.eng? a.k a.i a.j = some (eng0 8 2 (some [0x7000, 0, 9, 0])) ∧
      ∃ p s1, wordPlace s (eng0 8 2 (some [0x7000, 0, 9, 0])) (addrAt [0x7000, 0, 9, 0] 0) = (.ok p, s1)) := by
  refine ⟨fun c hc => ?_, evMet (engines (eng0 7 1 none)) ev0 ?_, evMet (engines (eng0 8 2 (some [0x7000, 0, 9, 0]))) ev0 ⟨by rfl, pair_ok (by rfl)⟩⟩
  · refine evMet (engines c) ev0 ?_
    simp only [List.mem_cons, List.not_mem_nil, or_false] at hc
    rcases hc with rfl | rfl | rfl <;>
      exact ⟨by rfl, rfl, by decide, by decide, rfl, by decide, ⟨_, rfl⟩, fetch_ok (by rfl)⟩
  · obtain ⟨x, s1, h⟩ := fetch_ok (x := engRow { engines (eng0 7 1 none) with ops := .event ev0 } (eng0 7 1 none) 7) (by rfl)
    exact ⟨x, s1, h, by rfl⟩

/-- A launch record: two units of one warp of 8 registers; scope `sc`, gang `n`. -/
def recBytes (sc n : Nat) : List Byte :=
  bytesOfNat 8 0x10000 ++ bytesOfNat 4 2 ++ bytesOfNat 2 1 ++ bytesOfNat 2 1 ++ [1, 8] ++ bytesOfNat 2 0 ++ [0, 0, BitVec.ofNat 8 n, 0] ++ bytesOfNat 2 0 ++
  bytesOfNat 2 0 ++ [0, BitVec.ofNat 8 sc] ++ bytesOfNat 2 0 ++ List.replicate 56 0 ++ bytesOfNat 8 0x2000 ++ List.replicate 32 0
def recOf (sc : Nat) : LaunchRec := { probeRecord with regs := 8, gridx := 2, scope := sc, prio := 0, scratch := 0, tiles := 0, barriers := 0 }
def launchOf (sc n : Nat) : Launch :=
  { tok := 5, bytes := recBytes sc n, addr := 0x3000, dk := 0, secure := false, priv := true, scope := none, tag := none, path := none, queue := none,
    reject := false }
/-- Wafer 0 with domain 0 of two cores up and no block resident; grid 0 of record `r` rooted at level `lvl`. -/
def dom2 : Domain := { dom0 with mask := 3 }
def empty2 : State := { evW warp0 with blocks := [], domains := [(0, dom2)] }
def gridOf (r : LaunchRec) (lvl : Nat) : Grid := newGrid 0 (launchOf 0 1) r (lvl, 0) 0
def launching (l : Launch) : State := { empty2 with msgs := [msg (.launch 5)], launches := [l] }
def deal0 (hi : Nat) : Dealing := { gid := 0, next := 0, lo := 0, hi := hi, extra := [(0, none)], closed := false, seq := 0 }
def dealing (r : LaunchRec) (lvl hi : Nat) : State := updDeals { empty2 with grids := [gridOf r lvl] } lvl 0 (fun _ => [deal0 hi])
theorem wit_launches :
    (∀ sc ∈ [0, 1, 2], EvMet (fun s a => s.msg? a.k = some (msg (.launch 5)) ∧ s.launches.find? (fun x => x.tok == 5) = some (launchOf sc 1) ∧
      launchDue s (msg (.launch 5)) (launchOf sc 1) = true ∧ launchAccepted (s.dropMsg a.k) (launchOf sc 1) (parseLaunch (recBytes sc 1)) = true)) ∧
    EvMet (fun s a => s.msg? a.k = some (msg (.launch 5)) ∧ ∃ l, s.launches.find? (fun x => x.tok == 5) = some l ∧ launchDue s (msg (.launch 5)) l = true ∧
      launchAccepted (s.dropMsg a.k) l (parseLaunch l.bytes) = false ∧ l.queue = none ∧ (parseLaunch l.bytes).compAddr = 0) ∧
    EvMet (fun s a => s.msg? a.k = some (msg (.reply 5 7)) ∧ ∃ l p b w, s.launches.find? (fun x => x.tok == 5) = some l ∧ l.tag = some 1 ∧ s.pend? 1 = some p ∧
      p.need = 1 ∧ s.block? p.bid = some b ∧ b.warps[p.wi]? = some w) := by
  refine ⟨fun sc hs => ?_, evMet (launching { launchOf 0 1 with bytes := List.replicate 128 0 }) ev0 ⟨rfl, _, rfl, by rfl, by rfl, rfl, by rfl⟩,
    evMet { flying [] [{ pendL with need := 1 }] with msgs := [msg (.reply 5 7)], launches := [{ launchOf 0 1 with tag := some 1 }] } ev0
      ⟨rfl, _, _, _, _, rfl, rfl, rfl, rfl, rfl, rfl⟩⟩
  refine evMet (launching (launchOf sc 1)) ev0 ⟨rfl, rfl, ?_⟩
  simp only [List.mem_cons, List.not_mem_nil, or_false] at hs
  rcases hs with rfl | rfl | rfl <;> exact ⟨by rfl, by rfl⟩
/-- A glaunch whose record, at 0x3000, has been read. -/
def pendG : Pend := { pendL with kind := .record, enc := codeWord (encode { instr := .glaunchDomain, ops := .a (fMat 282 272 0 0) }), aux := [(0, 0x3000)] }
theorem wit_glaunch_issue :
    EvMet (fun s a => ∃ b w sl p, Names s ⟨a.k, a.i, a.j⟩ b w sl ∧ sl.wait = .record 1 none ∧ s.pend? 1 = some p ∧ mayGoOn b w a.j = true ∧
      p.aux.get? 1 = none ∧ p.aux.get? 2 = none ∧ recordReady s b p 0x3000 = true ∧ (dstOf (opd9 (p.enc.extractLsb' 11 9)) 2).regs'.any w.isEmpty = false ∧
      ∃ bs s1, recordRead s b w 0x3000 = (.bytes bs, s1) ∧ (parseLaunch bs).prio < 56) :=
  evMet { flying [] [pendG] with blocks := [blkOf { warp0 with slots := [{ slot0 with wait := .record 1 none }, Slot.empty] }] } ev0
    ⟨_, _, _, _, ⟨rfl, rfl, rfl⟩, rfl, rfl, by decide, rfl, rfl, by decide, by decide, List.replicate 128 0, _, by rfl, by decide⟩
theorem wit_dealing :
    (∀ hi ∈ [1, 2], EvMet (fun s a => (s.wafer a.k).pavHold = false ∧ dealHead s (s.wafer a.k).pavDeal = some (deal0 hi) ∧ ∃ g h s1, s.grid? 0 = some g ∧
      hintOf s a.k g 0 = (h, s1) ∧ h ≠ .wait ∧ pergolaTakes s1 g 0 = true ∧
      (partyOf hi (weightSum (podParties s1 a.k)) 0 (podParties s1 a.k) 0).getD a.k = 0)) ∧
    EvMet (fun s a => (s.wafer a.k).pavHold = false ∧ dealHead s (s.wafer a.k).pavDeal = some (deal0 2) ∧ ∃ g s1, s.grid? 0 = some g ∧
      hintOf s a.k g 0 = (.hint 0 0, s1) ∧ pergolaTakes s1 g 0 = true) ∧
    EvMet (fun s a => (s.wafer a.k).pergHold = false ∧ dealHead s (s.wafer a.k).pergDeal = some (deal0 2) ∧ ∃ g h s1, s.grid? 0 = some g ∧ g.lrec.scope ≠ 2 ∧
      hintOf s a.k g 0 = (h, s1) ∧ h ≠ .wait) ∧
    EvMet (fun s a => (s.wafer a.k).pergHold = false ∧ dealHead s (s.wafer a.k).pergDeal = some (deal0 2) ∧ ∃ g, s.grid? 0 = some g ∧ g.lrec.scope = 2 ∧
      (deal0 2).extra = [(0, none)]) :=
  ⟨fun hi hh => by
     simp only [List.mem_cons, List.not_mem_nil, or_false] at hh
     rcases hh with rfl | rfl <;>
       exact evMet (dealing (recOf 2) 2 _) ev0 ⟨rfl, rfl, _, .none, _, rfl, rfl, nofun, by rfl, by decide +kernel⟩,
   evMet (dealing { recOf 2 with hintMode := 1, hintCount := 1 } 2 2) ev0 ⟨rfl, rfl, _, _, rfl, by rfl, by rfl⟩,
   evMet (dealing (recOf 1) 1 2) ev0 ⟨rfl, rfl, _, .none, _, rfl, by decide, rfl, nofun⟩,
   evMet (dealing (recOf 2) 1 2) ev0 ⟨rfl, rfl, _, rfl, rfl, rfl⟩⟩
/-- Unit 0 of the grid on its way to the Arbor of domain 0, or waiting there, offered or not. -/
def coming (g : Grid) : State := { empty2 with grids := [g], msgs := [msg (.unit 0 0 0 0 none)] }
def unitQ (offered : Bool) : UnitQ := { gid := 0, linear := 0, target := 0, save := none, arrival := 0, offerAt := 0, offered := offered, prio := 0 }
def waits (g : Grid) (us : List UnitQ) (hold : Bool) : State :=
  { empty2 with grids := [g], domains := [(0, { dom2 with units := us, hold := hold })], wafers := [(0, { Wafer.init with views := [(0, 1)] })] }
def pCnt : GridCnt := { GridCnt.zero with cancelled := true, dealt := 1 }
theorem wit_arbor_events :
    EvMet (fun s a => ∃ s1 g, arrivalNext s a.k = some (0, 0, 0, none, s1) ∧ s1.grid? 0 = some g ∧ (g.arbors.get .zero a.k).cancelled = true) ∧
    EvMet (fun s a => ∃ s1 g u s2, arrivalNext s a.k = some (0, 0, 0, none, s1) ∧ s1.grid? 0 = some g ∧ enqueueUnit s1 a.k 0 0 0 none = (some u, s2) ∧
      ∃ cs, pickUnit s2 a.k = some (u, cs)) ∧
    EvMet (fun s a => ∃ s1 g u s2, arrivalNext s a.k = some (0, 0, 0, none, s1) ∧ s1.grid? 0 = some g ∧ enqueueUnit s1 a.k 0 0 0 none = (some u, s2) ∧
      pickUnit s2 a.k = none) ∧
    EvMet (fun s a => ∃ u cs, pickUnit s a.k = some (u, cs) ∧ u.save = none ∧ (s.grid? u.gid).isSome = true) ∧
    EvMet (fun s a => ∃ u, offerDue s a.k = some u) := by
  refine ⟨evMet (coming { gridOf (recOf 0) 0 with arbors := [(0, pCnt)] }) ev0 ⟨_, _, rfl, rfl, rfl⟩,
    evMet (coming (gridOf (recOf 0) 0)) ev0 ⟨_, _, _, _, rfl, rfl, rfl, _, by rfl⟩,
    evMet { coming (gridOf (recOf 0) 0) with domains := [(0, { dom2 with hold := true })] } ev0 ⟨_, _, _, _, rfl, rfl, rfl, by rfl⟩,
    evMet (waits (gridOf (recOf 0) 0) [unitQ false] false) ev0 ⟨_, _, by rfl, rfl, rfl⟩,
    evMet { waits (gridOf { recOf 1 with gang := 8 } 1) [unitQ false] false with clock := 4096 } ev0 ⟨_, by rfl⟩⟩
theorem wit_LaunchPathHappens :
    EvMet (fun s a => ∃ u g, s.msgs.find? (fun m => match m.body with | .offer _ _ _ dk _ => waferOf dk == a.k | _ => false) = some (msg (.offer 0 0 0 0 none)) ∧
      (s.domain 0).units.find? (fun u => u.gid == 0 && u.linear == 0 && u.save == none && u.offered) = some u ∧ s.grid? 0 = some g ∧
      (g.pergolas.get .zero a.k).cancelled = false ∧ ∃ d, destOf (s.dropMsg 0) a.k (offerTarget (s.dropMsg 0) 0 u)
        ((if g.lrec.pair then 2 else 1) * unitSize (s.dropMsg 0) 0 u) (some (domOf 0)) = some d) ∧
    EvMet (fun s a => ∃ u g, s.msgs.find? (fun m => match m.body with | .offer _ _ _ dk _ => waferOf dk == a.k | _ => false) = some (msg (.offer 0 0 0 0 none)) ∧
      (s.domain 0).units.find? (fun u => u.gid == 0 && u.linear == 0 && u.save == none && u.offered) = some u ∧ s.grid? 0 = some g ∧
      (g.pergolas.get .zero a.k).cancelled = true) ∧
    EvMet (fun s a => ∃ u g, (s.domain 0).units.find? (fun u => u.gid == 0 && u.linear == 0 && u.save == none && u.offered) = some u ∧ s.grid? 0 = some g ∧
      destOf (s.dropMsg 0) a.k (offerTarget (s.dropMsg 0) 0 u) ((if g.lrec.pair then 2 else 1) * unitSize (s.dropMsg 0) 0 u) (some (domOf 0)) = none) ∧
    EvMet (fun s a => s.msgs.find? (fun m => match m.body with | .publish dk _ => waferOf dk == a.k | _ => false) = some (msg (.publish 0 9))) ∧
    (∀ lvl ∈ [0, 1, 2], EvMet (fun s a => a.k = lvl ∧ cancelNext s a.k a.i = some (0, 0) ∧ ∃ g, (s.dropMsg 0).grid? 0 = some g ∧
      (g.rootLvl = a.k → g.rootKey = a.i → g.cancelled = false))) := by
  refine ⟨evMet { waits (gridOf (recOf 1) 1) [unitQ true] false with
      msgs := [msg (.offer 0 0 0 0 none)], domains := [(0, { dom2 with units := [unitQ true] }), (1, dom2)],
      wafers := [(0, { Wafer.init with views := [(1, 1)] })] } ev0 ⟨_, _, rfl, rfl, rfl, rfl, _, by rfl⟩,
    evMet { waits { gridOf (recOf 1) 1 with pergolas := [(0, pCnt)] } [unitQ true] false with msgs := [msg (.offer 0 0 0 0 none)] } ev0 ⟨_, _, rfl, rfl, rfl, rfl⟩,
    evMet (waits (gridOf (recOf 1) 1) [unitQ true] false) ev0 ⟨_, _, rfl, rfl, by rfl⟩,
    evMet { empty2 with msgs := [msg (.publish 0 9)] } ev0 rfl, fun lvl hl => ?_⟩
  refine evMet { empty2 with grids := [gridOf (recOf 2) 2], msgs := [msg (.cancel 0 lvl 0)] } { k := lvl } ⟨rfl, ?_⟩
  simp only [List.mem_cons, List.not_mem_nil, or_false] at hl
  rcases hl with rfl | rfl | rfl <;> exact ⟨rfl, _, rfl, fun _ _ => rfl⟩

/-! ### Retirement and saving -/

def small (w : Warp) : Block := { blkOf w with lrec := recOf 0 }
def bye (b : Block) (d : Domain) : State := { evW warp0 with blocks := [b], domains := [(0, d)] }
def wants : Block := { small warp0 with phase := .wantSave 1 }
def halted (why : Nat) : Block := { small warp0 with phase := .halting why, saveRec := some 0x100000 }
def pool (n : Nat) : Domain := { dom2 with saveBase := 0x100000, savePages := n, saveReqs := [{ bid := 0, reason := 1 }] }
def kept : Saved := { key := 0, recPa := 0x100000, pages := 5, poolDk := 0, reason := 1, blk := small warp0, ops := [], locks := [], engs := [], pends := [] }
def unitS : UnitQ := { unitQ false with save := some 0 }
def gDone (lvl : Nat) : Grid := { gridOf (recOf lvl) lvl with arbors := [(0, { GridCnt.zero with reported := lvl == 0, dealt := 2, retired := 2 })] }
theorem wit_retirement :
    EvMet (fun s a => s.block? a.k = some { small warp0 with phase := .ending } ∧ retireDue s { small warp0 with phase := .ending } = true) ∧
    EvMet (fun s a => s.grid? 0 = some (gDone 2) ∧ s.grids.find? (fun x =>
        (a.k == 0 && arborReportDue s a.i x) || (a.k == 1 && pergolaReportDue s a.i x) || rootDue s a.k a.i x) = some (gDone 2) ∧ a.k = 0 ∧
        arborReportDue s a.i (gDone 2) = true ∧ (gDone 2).rootLvl = 2 ∧ (∀ x ∈ (gDone 2).pergolas, x.2.reported = false) ∧
        (gDone 2).compPart = 0 ∧ (gDone 2).pavilion.discarded ≠ (gDone 2).lrec.blocks) ∧
    EvMet (fun s a => s.grid? 0 = some (gDone 0) ∧ s.grids.find? (fun x =>
        (a.k == 0 && arborReportDue s a.i x) || (a.k == 1 && pergolaReportDue s a.i x) || rootDue s a.k a.i x) = some (gDone 0) ∧
        rootDue s a.k a.i (gDone 0) = true ∧ arborReportDue s a.i (gDone 0) = false ∧ (gDone 0).compPart = 0 ∧ (gDone 0).compToken = none ∧
        (gDone 0).lrec.faultRec = 0 ∧ ∃ ps s1 y s2,
        dispPlaces ((s.updGrid 0 (fun g => { g with compPart := 1 })).updGrid 0 (fun g => { g with compPart := 2 })) 0 false 0x2008 24 .write = (.ok ps, s1) ∧
        dispPlaces ((ps.foldl (fun s p => unitPut s p.2.2 (((countBytes (gDone 0)).drop p.1).take p.2.1)) s1).updGrid 0
          (fun g => { g with compPart := 3 })) 0 false 0x2000 8 .write = (.ok [(0, 8, y)], s2)) :=
  ⟨evMet (bye { small warp0 with phase := .ending } dom2) ev0 ⟨rfl, by decide⟩,
   evMet { empty2 with grids := [gDone 2] } ev0 ⟨rfl, rfl, rfl, by decide, rfl, nofun, rfl, by decide⟩,
   evMet { empty2 with grids := [gDone 0] } ev0 ⟨rfl, rfl, by decide, by decide, rfl, rfl, rfl, _, _, _, _, by rfl, by rfl⟩⟩
theorem wit_preempt_save :
    (∀ why ∈ [0x80, 0x82], EvMet (fun s a => s.block? a.k = some (halted why) ∧ (halted why).phase = .halting why ∧ (halted why).saveRec = some 0x100000 ∧
      saveDue s (halted why) = true ∧ (∀ x ∈ gangLive s (halted why).gangId, x.member < 8 ∧ saveDue s x = true) ∧
      s.blocks.filter (fun x => x.gangId == (halted why).gangId) = [halted why] ∧ (s.domain (halted why).home).dbgHeld = [])) ∧
    EvMet (fun s a => s.block? a.k = some (halted 0x80) ∧ ∃ x ∈ gangLive s (halted 0x80).gangId, x.member < 8 ∧ saveDue s x = false) :=
  ⟨fun why _ => evMet (bye (halted why) dom2) ev0 ⟨rfl, rfl, rfl, by rfl, fun x hx => by
     have h : x = halted why := List.mem_singleton.mp hx
     subst h
     exact ⟨by show (0 : Nat) < 8; decide, by rfl⟩, by rfl, rfl⟩,
   evMet { bye (halted 0x80) dom2 with blocks := [halted 0x80, { halted 0x80 with bid := 1, member := 1, phase := .running }] } ev0
     ⟨by rfl, by decide +kernel⟩⟩
theorem wit_RetirementAndSavingHappen :
    EvMet (fun s a => (s.domain a.k).saveReqs = [{ bid := 0, reason := 1 }] ∧ SaveReq.stands s { bid := 0, reason := 1 } = true ∧ s.block? 0 = some wants ∧
      (reserveAll ((gangLive s wants.gangId).filter (fun x => x.saveRec.isNone))
        (s.updDomain a.k (fun d => { d with saveReqs := [{ bid := 0, reason := 1 }] }))).isSome = true) ∧
    EvMet (fun s a => (s.domain a.k).saveReqs = [{ bid := 0, reason := 1 }] ∧ SaveReq.stands s { bid := 0, reason := 1 } = true ∧ s.block? 0 = some wants ∧
      reserveAll ((gangLive s wants.gangId).filter (fun x => x.saveRec.isNone))
        (s.updDomain a.k (fun d => { d with saveReqs := [{ bid := 0, reason := 1 }] })) = none) :=
  ⟨evMet (bye wants (pool 8)) ev0 ⟨rfl, by decide +kernel, rfl, by decide +kernel⟩,
   evMet (bye wants (pool 4)) ev0 ⟨rfl, by decide +kernel, rfl, by decide +kernel⟩⟩
/-- The kept block in world `w`. -/
def keptIn (w : Bool) : Saved := { kept with blk := { kept.blk with world := w, lrec := { kept.blk.lrec with world := w } } }
theorem wit_resume_and_debug :
    EvMet (fun s a => (pickUnit s a.k).any (fun x => x.1 == unitS && x.2 != []) = true ∧ unitS.save = some 0 ∧ (savedMembers s a.k 0)[0]? = some kept) ∧
    (∀ w, EvMet (fun s a => debugSel (s.domain a.k) = some (keptIn w) ∧ a.flag = false ∧ (∀ b ∈ s.blocks, b.gangId ≠ 0) ∧
      ∀ x ∈ (s.domain a.k).saved, x.key = 0 → x.blk.bid = 0)) := by
  refine ⟨evMet { empty2 with grids := [gridOf (recOf 0) 0], domains := [(0, { dom2 with units := [unitS], saved := [kept] })] } ev0 (by decide +kernel),
    fun w => ?_⟩
  cases w
  · exact evMet { empty2 with domains := [(0, { dom2 with dbgHeld := [0], saved := [keptIn false] })] } ev0 (by decide +kernel)
  · exact evMet { empty2 with domains := [(0, { dom2 with dbgHeld := [0], saved := [keptIn true] })] } ev0 (by decide +kernel)

/-! ### Host queues -/

def hq (on : Bool) : HostQ := { HostQ.init with ring := 0x40000, log := 4, enabled := on, mapped := true, prod := 1 }
/-- Domain 0 up with host queue 0 as `x`, its ring at 0x40000, and the bytes `cells` in memory. -/
def ringOf (x : HostQ) (cells : List Host.Cell) : State := { empty2 with domains := [(0, { dom2 with queues := [(0, x)], replicas := [(0, x.replica)] })], mem := cells }
/-- An entry of type `kind` with one more byte. -/
def kindCells (kind off v : Nat) : List Host.Cell := [(0x40000, BitVec.ofNat 8 kind), (0x40000 + off, BitVec.ofNat 8 v)]
theorem wit_notify :
    (∀ v ∈ [(5 : BitVec 32), 99], EvMet (fun s a => a.v = v ∧ a.i < 1024 ∧ (s.domain a.k).up = true ∧ (s.domain (queueDk (waferOf a.k) a.i)).up = true ∧
      ∃ r s1, replicaOf s a.k a.i = (r, s1) ∧ r.enabled = true ∧ r.world = false ∧
        (s.hostq (queueDk (waferOf a.k) a.i) a.i).enabled = true ∧ (s.hostq (queueDk (waferOf a.k) a.i) a.i).err = false ∧
        (s.hostq (queueDk (waferOf a.k) a.i) a.i).world = false ∧ (s.hostq (queueDk (waferOf a.k) a.i) a.i).pendingOp = none ∧
        (2 ^ (s.hostq (queueDk (waferOf a.k) a.i) a.i).log < (a.v - (s.hostq (queueDk (waferOf a.k) a.i) a.i).cons).toNat ↔ v = 99))) ∧
    EvMet (fun s a => a.i < 1024 ∧ (s.domain a.k).up = true ∧ (s.domain (queueDk (waferOf a.k) a.i)).up = true ∧
      ∃ r s1, replicaOf s a.k a.i = (r, s1) ∧ r.enabled = false) := by
  refine ⟨fun v hv => evMet (ringOf (hq true) []) { v := v } ⟨rfl, ?_⟩, evMet (ringOf (hq false) []) ev0 ⟨by decide, rfl, rfl, _, _, rfl, rfl⟩⟩
  simp only [List.mem_cons, List.not_mem_nil, or_false] at hv
  rcases hv with rfl | rfl <;> exact ⟨by decide, rfl, rfl, _, _, rfl, rfl, rfl, rfl, rfl, rfl, rfl, by decide⟩
theorem wit_qcmd :
    (∀ x ∈ [hq true, { hq true with entryDone := true }], EvMet (fun s a => portOf a.k = some 0 ∧ queuesOn s a.k = true ∧ (s.domain a.k).qbusy = none ∧
      s.hostq a.k (256 * 0 + a.i % 256) = x ∧ launchHeld s x = false ∧ ∃ bs s1, s.unitRead (qrecAddr s a.k (256 * 0 + a.i % 256)) 128 = (bs, s1) ∧ badRecord bs = true)) ∧
    EvMet (fun s a => portOf a.k = some 0 ∧ queuesOn s a.k = true ∧ (s.domain a.k).qbusy = none ∧
      s.hostq a.k (256 * 0 + a.i % 256) = hq true ∧ launchHeld s (hq true) = false ∧
      ∃ bs s1, s.unitRead (qrecAddr s a.k (256 * 0 + a.i % 256)) 128 = (bs, s1) ∧ badRecord bs = false) ∧
    EvMet (fun s a => s.msgs.find? (fun m => match m.body with | .qinval _ d _ => d == a.k | _ => false) = some (msg (.qinval 0 0 1)) ∧
      (∃ r, (s.domain a.k).replicas.get? 0 = some r ∧ r.version ≠ 1) ∧ (s.hostq (queueDk (waferOf a.k) 0) 0).version = 1 ∧
      (s.domain (queueDk (waferOf a.k) 0)).qbusy = some (0, 1, [0])) := by
  refine ⟨fun x hx => ?_, evMet (ringOf (hq true) [(8, 4)]) ev0 ⟨rfl, rfl, rfl, rfl, rfl, _, _, rfl, by decide⟩,
    evMet { empty2 with msgs := [msg (.qinval 0 0 1)], domains := [(0, { dom2 with
      queues := [(0, { hq true with version := 1 })], replicas := [(0, (hq true).replica)], qbusy := some (0, 1, [0]) })] } ev0
      ⟨rfl, ⟨_, rfl, by decide⟩, rfl, rfl⟩⟩
  refine evMet (ringOf x []) ev0 ⟨rfl, rfl, rfl, rfl, ?_⟩
  simp only [List.mem_cons, List.not_mem_nil, or_false] at hx
  rcases hx with rfl | rfl <;> exact ⟨rfl, _, _, rfl, by decide⟩
/-- An entry of type `kind` is due at queue 0, where no command waits and CONS has no address to write, and has been read. -/
def Due (s : State) (a : EvArgs) (x : HostQ) (kind : Nat) (bad : Bool) (post : List Byte → State → Prop) : Prop :=
  queueDk (a.k / 1024) (a.k % 1024) = 0 ∧ s.hostq 0 (a.k % 1024) = x ∧ (x.entryDone = false ∧ x.consaddr = 0 ∧ x.pendingOp = none) ∧ entryDue s 0 (a.k % 1024) = true ∧
  ∃ bs s1, queueRead s 0 x (entryAddr x) 256 = (.ok bs, s1) ∧ (parseEntry bs).kind = kind ∧ entryBad bs (parseEntry bs) = bad ∧ post bs s1
set_option maxRecDepth 8000 in
theorem wit_entries :
    (∀ kind ∈ [0, 1], EvMet (fun s a => Due s a (hq true) kind false (fun _ _ => True))) ∧
    (∀ kind ∈ [0, 1, 2, 3, 4, 5], EvMet (fun s a => Due s a (hq true) kind true (fun _ _ => True))) := by
  refine ⟨fun kind hk => ?_, fun kind hk => ?_⟩ <;> simp only [List.mem_cons, List.not_mem_nil, or_false] at hk
  · rcases hk with rfl | rfl
    · exact evMet (ringOf (hq true) []) ev0 ⟨rfl, rfl, ⟨rfl, rfl, rfl⟩, rfl, _, _, by rfl, by rfl, by rfl, trivial⟩
    · exact evMet (ringOf (hq true) [(0x40000, 1)]) ev0 ⟨rfl, rfl, ⟨rfl, rfl, rfl⟩, rfl, _, _, by rfl, by rfl, by rfl, trivial⟩
  · rcases hk with rfl | rfl | rfl | rfl | rfl | rfl
    · exact evMet (ringOf (hq true) [(0x40001, 1)]) ev0 ⟨rfl, rfl, ⟨rfl, rfl, rfl⟩, rfl, _, _, by rfl, by rfl, by rfl, trivial⟩
    · exact evMet (ringOf (hq true) (kindCells 1 1 1)) ev0 ⟨rfl, rfl, ⟨rfl, rfl, rfl⟩, rfl, _, _, by rfl, by rfl, by rfl, trivial⟩
    · exact evMet (ringOf (hq true) (kindCells 2 1 1)) ev0 ⟨rfl, rfl, ⟨rfl, rfl, rfl⟩, rfl, _, _, by rfl, by rfl, by rfl, trivial⟩
    · exact evMet (ringOf (hq true) (kindCells 3 1 1)) ev0 ⟨rfl, rfl, ⟨rfl, rfl, rfl⟩, rfl, _, _, by rfl, by rfl, by rfl, trivial⟩
    · exact evMet (ringOf (hq true) (kindCells 4 1 1)) ev0 ⟨rfl, rfl, ⟨rfl, rfl, rfl⟩, rfl, _, _, by rfl, by rfl, by rfl, trivial⟩
    · exact evMet (ringOf (hq true) (kindCells 5 1 1)) ev0 ⟨rfl, rfl, ⟨rfl, rfl, rfl⟩, rfl, _, _, by rfl, by rfl, by rfl, trivial⟩
set_option maxRecDepth 8000 in
/-- A `WAIT` whose word holds or does not (condition not-equal), a `SIGNAL` at 0x100, and a `FENCE` behind grid 0 or none. -/
theorem wit_HostQueueEventsHappen :
    (∀ poll holds, EvMet (fun s a => Due s a { hq true with waiting := poll } 2 false (fun bs s1 => (parseEntry bs).addr.toNat % (parseEntry bs).bytes = 0 ∧
      ∃ vs s2, queueRead s1 0 { hq true with waiting := poll } (parseEntry bs).addr (parseEntry bs).bytes = (.ok vs, s2) ∧
        (parseEntry bs).holds (natOfBytes vs) = holds))) ∧
    EvMet (fun s a => Due s a (hq true) 3 false (fun bs s1 => (parseEntry bs).addr.toNat % (parseEntry bs).bytes = 0 ∧
      ∃ p s2, queuePlace s1 0 (hq true) (parseEntry bs).addr (parseEntry bs).bytes .write = (.ok p, s2) ∧ qrecAddr s 0 (a.k % 1024) / 128 * 128 + 256 ≤ p)) ∧
    EvMet (fun s a => Due s a (hq true) 4 false (fun _ s1 => ∀ g ∈ (hq true).grids, s1.grid? g = none)) ∧
    EvMet (fun s a => Due s a { hq true with grids := [0] } 4 false (fun _ s1 => (s1.grid? 0).isSome = true)) := by
  refine ⟨fun poll holds => ?_, evMet (ringOf (hq true) (kindCells 3 9 1)) ev0 ⟨rfl, rfl, ⟨rfl, rfl, rfl⟩, rfl, _, _, by rfl, by rfl, by rfl, by rfl, _, _, by rfl, by decide⟩,
    evMet (ringOf (hq true) [(0x40000, 4)]) ev0 ⟨rfl, rfl, ⟨rfl, rfl, rfl⟩, rfl, _, _, by rfl, by rfl, by rfl, nofun⟩,
    evMet { ringOf { hq true with grids := [0] } [(0x40000, 4)] with grids := [gridOf (recOf 0) 0] } ev0 ⟨rfl, rfl, ⟨rfl, rfl, rfl⟩, rfl, _, _, by rfl, by rfl, by rfl, rfl⟩⟩
  cases poll <;> cases holds
  · exact evMet (ringOf (hq true) (kindCells 2 0x20 1)) ev0 ⟨rfl, rfl, ⟨rfl, rfl, rfl⟩, rfl, _, _, by rfl, by rfl, by rfl, by rfl, _, _, by rfl, by rfl⟩
  · exact evMet (ringOf (hq true) [(0x40000, 2)]) ev0 ⟨rfl, rfl, ⟨rfl, rfl, rfl⟩, rfl, _, _, by rfl, by rfl, by rfl, by rfl, _, _, by rfl, by rfl⟩
  · exact evMet (ringOf { hq true with waiting := true } (kindCells 2 0x20 1)) ev0 ⟨rfl, rfl, ⟨rfl, rfl, rfl⟩, rfl, _, _, by rfl, by rfl, by rfl, by rfl, _, _, by rfl, by rfl⟩
  · exact evMet (ringOf { hq true with waiting := true } [(0x40000, 2)]) ev0 ⟨rfl, rfl, ⟨rfl, rfl, rfl⟩, rfl, _, _, by rfl, by rfl, by rfl, by rfl, _, _, by rfl, by rfl⟩

/-! ### Bring-up and attestation -/

def wafer0 : Wafer := { Wafer.init with powered := true }
def lit (w : Wafer) : State := { empty2 with wafers := [(0, w)] }
theorem wit_BringUpAndAttestationHappen :
    EvMet (fun s a => (s.wafer a.k).powered = false ∧ a.k < Config.wafers ∧ verified s (mkDk a.k 0) = true) ∧
    (∀ k ∈ [0, 1], EvMet (fun s a => a.k = k ∧ (s.wafer (waferOf a.k)).powered = true ∧ domOf a.k < Config.domains ∧ (s.domain a.k).up = false ∧ verified s a.k = true ∧
      (domOf a.k ≠ 0 → (s.domain (mkDk (waferOf a.k) 0)).up = true))) ∧
    EvMet (fun s a => verified s a.k = false) ∧
    (∀ f, EvMet (fun s a => spdmOn s a.k = true ∧ a.flag = f ∧ (s.wafer a.k).otpIndex < otpLimit)) ∧
    EvMet (fun s a => spdmOn s a.k = true ∧ a.flag = true ∧ ¬(s.wafer a.k).otpIndex < otpLimit) ∧
    (∀ f, EvMet (fun s a => (s.wafer a.k).powered = true ∧ a.flag = f)) ∧
    EvMet (fun s a => (s.wafer a.k).powered = true ∧ a.flag = true ∧ (s.wafer a.k).minVersion ≤ BitVec.ofNat 32 a.i ∧ ∃ dk ∈ domainsOf a.k, (s.domain dk).up = true) ∧
    EvMet (fun s a => a.flag = false ∨ BitVec.ofNat 32 a.i < (s.wafer a.k).minVersion) := by
  refine ⟨evMet State.reset ev0 ⟨rfl, by decide, rfl⟩, fun k hk => ?_, evMet { lit wafer0 with domains := [(0, { dom2 with fwOk := false })] } ev0 rfl,
    fun f => evMet (lit wafer0) { flag := f } ⟨rfl, rfl, Nat.zero_lt_of_lt (show 0 < otpLimit by decide)⟩, evMet (lit { wafer0 with otpIndex := otpLimit }) { flag := true } ⟨rfl, rfl, by decide⟩,
    fun f => evMet (lit wafer0) { flag := f } ⟨rfl, rfl⟩, evMet (lit wafer0) { flag := true } ⟨rfl, rfl, by decide, 0, by decide, rfl⟩,
    evMet (lit wafer0) ev0 (.inl rfl)⟩
  simp only [List.mem_cons, List.not_mem_nil, or_false] at hk
  rcases hk with rfl | rfl
  · exact evMet { lit wafer0 with domains := [] } ev0 ⟨rfl, rfl, by decide, rfl, rfl, by decide⟩
  · exact evMet (lit wafer0) { k := 1 } ⟨rfl, rfl, by decide, rfl, rfl, fun _ => rfl⟩

/-- A state that lists no memory keeps the form, and the instruction placed at it completes. -/
theorem wit_StepKeepsMemoryCanonical : ∃ s t, s.memOk ∧ step s = .next t :=
  ⟨State.reset.withFetchWord 32 (0x001 + 0x03A * 4 + 5 * 2048 + 127 * 33554432), _, by unfold State.memOk; decide, by rfl⟩
/-- `ld` with its fields as given, at the front of two bytes that follow. -/
theorem wit_DecodeEncode : ∃ x : Ins, x.instr.row.1 ≠ .event ∧ x.shaped = true ∧ x.instr = .ld := ⟨{ instr := .ld, ops := .c noC }, by decide, by decide, rfl⟩

end Sys2Proof.Tests
end

/-!
PROOFS. Reset, and the invariant of memory: every step keeps memory in its canonical form (log 1).

The proof goes along the definitions of the model, one lemma for each function that answers a state:
* `f_mem`: the function leaves memory alone;
* `f_wf`: the function keeps memory in canonical form. Memory is written by a handful of operations (`State.storeBytes`,
  `State.storeRuns`, `unitPut`, `migSwitch`, `zeroHot`, `powerLoss` and the host's own move); each keeps the form by the laws of
  `memWrite`, `memSet` and `List.filter`, and every other function is built from those.

A lemma `f_mem` that holds by definition is proved by `(rfl)`, so that `simp` uses it as a rewriting rule, also under a fold.
-/

namespace Sys2Proof.Machine

open Sys2Proof

/-! ### Answers that hold states -/

/-- The next state that an outcome holds, if any, has its memory in canonical form. -/
def OutWf (o : Host.Outcome State Fault Refusal) : Prop := ∀ t, o = .next t → Memory.wf t.mem

@[simp] theorem outWf_next {s : State} : OutWf (.next s) ↔ Memory.wf s.mem :=
  ⟨fun h => h s rfl, fun h _ e => by cases e; exact h⟩

@[simp] theorem outWf_fault {f : Fault} : OutWf (.fault f) := nofun

/-- The state that may be answered, if any, has its memory in canonical form. -/
def OptWf (o : Option State) : Prop := ∀ t, o = some t → Memory.wf t.mem

@[simp] theorem optWf_none : OptWf none := nofun

@[simp] theorem optWf_some {s : State} : OptWf (some s) ↔ Memory.wf s.mem :=
  ⟨fun h => h s rfl, fun h _ e => by cases e; exact h⟩

theorem optWf_getD {o : Option State} {s : State} (ho : OptWf o) (h : Memory.wf s.mem) : Memory.wf (o.getD s).mem := by
  cases o with
  | none => exact h
  | some t => exact optWf_some.1 ho

/-- The state that an instruction's effect answers has its memory in canonical form; a question to another unit, which is put to
the state before the effect, keeps the form. -/
def ResWf : Res → Prop
  | .done s | .jump s _ | .own s | .hold s _ => Memory.wf s.mem
  | .ask f _ => ∀ s, Memory.wf s.mem → Memory.wf (f s).mem
  | .fault _ | .wait _ | .stall => True

@[simp] theorem resWf_done {s : State} : ResWf (.done s) ↔ Memory.wf s.mem := Iff.rfl
@[simp] theorem resWf_jump {s : State} {t : DWord} : ResWf (.jump s t) ↔ Memory.wf s.mem := Iff.rfl
@[simp] theorem resWf_own {s : State} : ResWf (.own s) ↔ Memory.wf s.mem := Iff.rfl
@[simp] theorem resWf_hold {s : State} {w : Wait} : ResWf (.hold s w) ↔ Memory.wf s.mem := Iff.rfl
@[simp] theorem resWf_ask {f : State → State} {w : Wait} :
    ResWf (.ask f w) ↔ ∀ s, Memory.wf s.mem → Memory.wf (f s).mem := Iff.rfl
@[simp] theorem resWf_fault {f : Flt} : ResWf (.fault f) := trivial
@[simp] theorem resWf_wait {w : Wait} : ResWf (.wait w) := trivial
@[simp] theorem resWf_stall : ResWf .stall := trivial

/-- The state of a home's preparation, if it acts, has its memory in canonical form. -/
def PrepWf : Prep → Prop
  | .act s => Memory.wf s.mem
  | .wait | .ready => True

@[simp] theorem prepWf_act {s : State} : PrepWf (.act s) ↔ Memory.wf s.mem := Iff.rfl
@[simp] theorem prepWf_wait : PrepWf .wait := trivial
@[simp] theorem prepWf_ready : PrepWf .ready := trivial

@[simp] theorem prepWf_then {p : Prep} {q : Unit → Prep} (hp : PrepWf p) (hq : PrepWf (q ())) : PrepWf (p.then q) := by
  cases p with
  | wait => trivial
  | act s => exact hp
  | ready => exact hq

/-! ### States in pairs: what is known of a projection holds of the state that a match names -/

theorem wf_snd {α : Type} {p : α × State} {a : α} {t : State} (e : p = (a, t)) (h : Memory.wf p.2.mem) : Memory.wf t.mem := by
  subst e; exact h

theorem mem_snd {α : Type} {p : α × State} {a : α} {t : State} {m : List Host.Cell} (e : p = (a, t)) (h : p.2.mem = m) :
    t.mem = m := by
  subst e; exact h

theorem wf_fst {α : Type} {p : State × α} {a : α} {t : State} (e : p = (t, a)) (h : Memory.wf p.1.mem) : Memory.wf t.mem := by
  subst e; exact h

theorem wf_mid {α β : Type} {p : α × State × β} {a : α} {b : β} {t : State} (e : p = (a, t, b)) (h : Memory.wf p.2.1.mem) :
    Memory.wf t.mem := by
  subst e; exact h

/-! ### Folds -/

@[simp] theorem foldl_mem {α : Type} {f : State → α → State} (hf : ∀ s x, (f s x).mem = s.mem) (l : List α) (s : State) :
    (l.foldl f s).mem = s.mem :=
  List.foldlRecOn (motive := fun t => t.mem = s.mem) l f rfl fun t ht x _ => (hf t x).trans ht

@[simp] theorem foldl_wf {α : Type} {f : State → α → State} (hf : ∀ s x, Memory.wf s.mem → Memory.wf (f s x).mem) (l : List α)
    {s : State} (h : Memory.wf s.mem) : Memory.wf (l.foldl f s).mem :=
  List.foldlRecOn (motive := fun t => Memory.wf t.mem) l f h fun t ht x _ => hf t x ht

theorem foldl_snd_wf {α β : Type} {f : β × State → α → β × State} (hf : ∀ p x, Memory.wf p.2.mem → Memory.wf (f p x).2.mem)
    (l : List α) {p : β × State} (h : Memory.wf p.2.mem) : Memory.wf (l.foldl f p).2.mem :=
  List.foldlRecOn (motive := fun p => Memory.wf p.2.mem) l f h fun p hp x _ => hf p x hp

theorem foldl_fst_wf {α β : Type} {f : State × β → α → State × β} (hf : ∀ p x, Memory.wf p.1.mem → Memory.wf (f p x).1.mem)
    (l : List α) {p : State × β} (h : Memory.wf p.1.mem) : Memory.wf (l.foldl f p).1.mem :=
  List.foldlRecOn (motive := fun p => Memory.wf p.1.mem) l f h fun p hp x _ => hf p x hp

theorem foldl_mid_wf {α β γ : Type} {f : β × State × γ → α → β × State × γ}
    (hf : ∀ p x, Memory.wf p.2.1.mem → Memory.wf (f p x).2.1.mem) (l : List α) {p : β × State × γ} (h : Memory.wf p.2.1.mem) :
    Memory.wf (l.foldl f p).2.1.mem :=
  List.foldlRecOn (motive := fun p => Memory.wf p.2.1.mem) l f h fun p hp x _ => hf p x hp

/-! ### Machine/Ops -/

@[simp] theorem State.fresh_mem (s : State) : (State.fresh s).2.mem = s.mem := (rfl)

@[simp] theorem State.free_mem (s : State) : (State.free s).2.mem = s.mem := (rfl)

@[simp] theorem State.freeLanes_mem (s : State) : (State.freeLanes s).2.mem = s.mem := (rfl)

@[simp] theorem State.choose_mem (s : State) (n : Nat) : (State.choose s n).2.mem = s.mem := (rfl)

@[simp] theorem perfAdd_mem (s : State) (ck ev n : Nat) (priv secure : Bool) : (perfAdd s ck ev n priv secure).mem = s.mem := by
  unfold perfAdd
  split <;> simp

@[simp] theorem State.dropL1_mem (s : State) (ck : Nat) : (State.dropL1 s ck).mem = s.mem := (rfl)

@[simp] theorem State.noFill_mem (s : State) (ck : Nat) (p : Req → Bool) : (State.noFill s ck p).mem = s.mem := (rfl)

@[simp] theorem acquireL1_mem (s : State) (ck : Nat) : (acquireL1 s ck).mem = s.mem := (rfl)

@[simp] theorem testGbar_mem (s : State) (gang : Nat) : (testGbar s gang).mem = s.mem := by
  unfold testGbar
  dsimp only
  split <;> simp

@[simp] theorem leaveIssue_mem (s : State) (ck isl bid wi : Nat) : (leaveIssue s ck isl bid wi).mem = s.mem := (rfl)

@[simp] theorem exitWarp_mem (s : State) (bid wi : Nat) : (exitWarp s bid wi).mem = s.mem := by
  unfold exitWarp
  repeat' split
  all_goals simp

@[simp] theorem freeRecord_mem (s : State) (dk pa : Nat) : (freeRecord s dk pa).mem = s.mem := (rfl)

@[simp] theorem dropRecord_mem (s : State) (b : Block) : (dropRecord s b).mem = s.mem := by
  unfold dropRecord
  split <;> simp

@[simp] theorem noteBlockEnd_mem (s : State) (bid : Nat) : (noteBlockEnd s bid).mem = s.mem := by
  unfold noteBlockEnd
  repeat' split
  all_goals simp

@[simp] theorem dropSaved_mem (s : State) (dk : Nat) (v : Saved) (f : GridCnt → GridCnt) : (dropSaved s dk v f).mem = s.mem := (rfl)

@[simp] theorem terminateGang_mem (s : State) (gang : Nat) : (terminateGang s gang).mem = s.mem := by
  unfold terminateGang
  dsimp only
  split <;> simp

@[simp] theorem countFault_mem (s : State) (b : Block) (wi : Nat) (code : BitVec 8) (kind : Nat) (lanes : Word) (pc addr : DWord) :
    (countFault s b wi code kind lanes pc addr).mem = s.mem := (rfl)

@[simp] theorem enterHandler_mem (s : State) (r : PathRef) (f : Flt) (handler : DWord) : (enterHandler s r f handler).mem = s.mem := (rfl)

@[simp] theorem takeFault_mem (s : State) (r : PathRef) (f : Flt) : (takeFault s r f).mem = s.mem := by
  unfold takeFault
  repeat' split
  all_goals simp

@[simp] theorem recordFault_mem (s : State) (bid wi : Nat) (f : Flt) : (recordFault s bid wi f).mem = s.mem := by
  unfold recordFault
  split <;> simp

@[simp] theorem raiseDeferred_mem (s : State) (bid wi : Nat) (d : Deferred) : (raiseDeferred s bid wi d).mem = s.mem := by
  unfold raiseDeferred
  repeat' split
  all_goals simp

/-! ### Machine/Issue -/

@[simp] theorem exchange_mem (s : State) (ck isl : Nat) (out inn : Nat × Nat) : (exchange s ck isl out inn).mem = s.mem := by
  unfold exchange
  split <;> simp

@[simp] theorem countIssue_mem (c : Ctx) (s : State) : (countIssue c s).mem = s.mem := by simp [countIssue]

@[simp] theorem beginIssue_mem (c : Ctx) (s : State) : (beginIssue c s).mem = s.mem := by
  unfold beginIssue
  split <;> simp

@[simp] theorem advance_mem (c : Ctx) (s : State) : (advance c s).mem = s.mem := (rfl)

@[simp] theorem transfer_mem (c : Ctx) (s : State) (t : DWord) : (transfer c s t).mem = s.mem := (rfl)

@[simp] theorem park_mem (c : Ctx) (s : State) (wt : Wait) : (park c s wt).mem = s.mem := (rfl)

@[simp] theorem countStall_mem (c : Ctx) (s : State) : (countStall c s).mem = s.mem := by
  unfold countStall
  split <;> simp

@[simp] theorem finish_wf {c : Ctx} {s : State} {r : Res} (h : Memory.wf s.mem) (hr : ResWf r) : Memory.wf (finish c s r).mem := by
  cases r <;> simp_all [finish]

@[simp] theorem issueCore_wf {sh : Shape} {pre : Ctx → State → Option Flt} {eff : Ctx → State → Res} {c : Ctx} {s : State}
    (heff : ∀ c s, Memory.wf s.mem → ResWf (eff c s)) (h : Memory.wf s.mem) : Memory.wf (issueCore sh pre eff c s).mem := by
  unfold issueCore
  split
  · simp [h]
  · dsimp only
    split
    · split <;> simp [h]
    · split
      · simp [finish, h]
      · split
        · simp [h]
        · exact finish_wf (by simpa using h) (heff _ _ (by simpa using h))

@[simp] theorem issue_wf {i : Instr} {sh : Shape} {pre : Ctx → State → Option Flt} {eff : Ctx → State → Res} {s : State}
    (heff : ∀ c s, Memory.wf s.mem → ResWf (eff c s)) (h : Memory.wf s.mem) : OutWf (issue i sh pre eff s) := by
  unfold issue
  split <;> simp_all

@[simp] theorem withS16_wf {s : State} {k : F16 → Host.Outcome State Fault Refusal} (hk : ∀ f, OutWf (k f)) : OutWf (withS16 s k) := by
  unfold withS16; split <;> simp [hk]

@[simp] theorem withL32_wf {s : State} {k : F32 → Host.Outcome State Fault Refusal} (hk : ∀ f, OutWf (k f)) : OutWf (withL32 s k) := by
  unfold withL32; split <;> simp [hk]

@[simp] theorem withA_wf {s : State} {k : FmtA → Host.Outcome State Fault Refusal} (hk : ∀ f, OutWf (k f)) : OutWf (withA s k) := by
  unfold withA; split <;> simp [hk]

@[simp] theorem withB_wf {s : State} {k : FmtB → Host.Outcome State Fault Refusal} (hk : ∀ f, OutWf (k f)) : OutWf (withB s k) := by
  unfold withB; split <;> simp [hk]

@[simp] theorem withC_wf {s : State} {k : FmtC → Host.Outcome State Fault Refusal} (hk : ∀ f, OutWf (k f)) : OutWf (withC s k) := by
  unfold withC; split <;> simp [hk]

@[simp] theorem withEv_wf {s : State} {k : EvArgs → Host.Outcome State Fault Refusal} (hk : ∀ f, OutWf (k f)) : OutWf (withEv s k) := by
  unfold withEv; split <;> simp [hk]

@[simp] theorem event_wf {f : EvArgs → State → State} {s : State} (hf : ∀ a, Memory.wf (f a s).mem) : OutWf (event f s) := by
  simp [event, hf]

@[simp] theorem writeLanes_mem (c : Ctx) (d : Opd) (n : Nat) (f : Nat → BitVec 128) (s : State) :
    (writeLanes c d n f s).mem = s.mem := by
  unfold writeLanes
  repeat' split
  all_goals simp

@[simp] theorem writePred_mem (c : Ctx) (d : Opd) (f : Nat → Bool) (s : State) : (writePred c d f s).mem = s.mem := (rfl)

@[simp] theorem writeK_mem (c : Ctx) (d : Opd) (n : Nat) (x : BitVec 128) (s : State) : (writeK c d n x s).mem = s.mem := (rfl)

@[simp] theorem raiseFlags_mem (c : Ctx) (fl : Word) (s : State) : (raiseFlags c fl s).mem = s.mem := by
  unfold raiseFlags
  split <;> simp

@[simp] theorem addPend_mem (s : State) (p : Pend) : (addPend s p).2.mem = s.mem := (rfl)

@[simp] theorem arriveLater_mem (c : Ctx) (kind : PendKind) (d : Dst) (need : Word) (vals : Tab (BitVec 128)) (s : State) :
    (arriveLater c kind d need vals s).mem = s.mem := (rfl)

/-! ### Machine/Coherence -/

@[simp] theorem State.storeBytes_wf {s : State} (h : Memory.wf s.mem) (a : Nat) (bs : List Byte) : Memory.wf (s.storeBytes a bs).mem :=
  memWrite_wf bs s.mem a h

theorem foldl_memWrite_wf (base : Nat) : ∀ (ps : List (Nat × List Byte)) {m : List Host.Cell}, Memory.wf m →
    Memory.wf (ps.foldl (fun m x => memWrite m (base + x.1) x.2) m)
  | [], _, h => h
  | x :: ps, _, h => foldl_memWrite_wf base ps (memWrite_wf x.2 _ _ h)

@[simp] theorem State.storeRuns_wf {s : State} (h : Memory.wf s.mem) (base : Nat) (ps : List (Nat × List Byte)) :
    Memory.wf (s.storeRuns base ps).mem :=
  foldl_memWrite_wf base ps h

@[simp] theorem mergeSectors_wf {s : State} {pl : Nat} {dirty : BitVec 4} {bs : List Byte} (h : Memory.wf s.mem) :
    Memory.wf (mergeSectors s pl dirty bs).mem :=
  foldl_wf (fun t i ht => by split <;> simp [ht]) _ h

@[simp] theorem State.dropVis_mem (s : State) (dk pl : Nat) : (State.dropVis s dk pl).mem = s.mem := (rfl)

@[simp] theorem State.evictVis_mem (s : State) (dk : Nat) (v : VLine) : (State.evictVis s dk v).mem = s.mem := by
  unfold State.evictVis
  split <;> simp

@[simp] theorem State.putVis_mem (s : State) (dk : Nat) (v : VLine) : (State.putVis s dk v).mem = s.mem := by
  unfold State.putVis
  dsimp only
  repeat' split
  all_goals simp

@[simp] theorem State.putDir_mem (s : State) (e : DirEnt) : (State.putDir s e).mem = s.mem := (rfl)

@[simp] theorem State.tidyDir_mem (s : State) (pl : Nat) : (State.tidyDir s pl).mem = s.mem := by
  unfold State.tidyDir
  repeat' split
  all_goals simp

@[simp] theorem recallAt_wf {s : State} {dk pl : Nat} {inval : Bool} (h : Memory.wf s.mem) : Memory.wf (recallAt s dk pl inval).mem := by
  unfold recallAt
  repeat' split
  all_goals simp [h]

@[simp] theorem mergeInFlight_wf {s : State} {pl : Nat} (h : Memory.wf s.mem) : Memory.wf (mergeInFlight s pl).mem := by
  unfold mergeInFlight
  dsimp only
  split
  · refine foldl_wf (fun s m hs => ?_) s.msgs h
    split
    · split
      · split <;> simp [hs]
      · exact hs
    · split <;> simp [hs]
    · exact hs
  · exact h

@[simp] theorem cancelGrants_mem (s : State) (pl : Nat) (all : Bool) : (cancelGrants s pl all).mem = s.mem := by
  unfold cancelGrants
  dsimp only
  split <;> simp

@[simp] theorem recallLine_wf {s : State} {pl : Nat} {inval : Bool} (h : Memory.wf s.mem) : Memory.wf (recallLine s pl inval).mem := by
  have h1 : Memory.wf (mergeInFlight s pl).mem := mergeInFlight_wf h
  unfold recallLine
  dsimp only
  split
  · exact h1
  · split
    · rw [State.putDir_mem]
      exact foldl_wf (fun _ _ => recallAt_wf) _ (by simpa using h1)
    · exact h1

@[simp] theorem State.unitRead_wf {s : State} {a n : Nat} (h : Memory.wf s.mem) : Memory.wf (State.unitRead s a n).2.mem :=
  foldl_wf (fun _ _ => recallLine_wf) _ h

@[simp] theorem State.unitWrite_wf {s : State} {a : Nat} {bs : List Byte} (h : Memory.wf s.mem) : Memory.wf (State.unitWrite s a bs).mem :=
  State.storeBytes_wf (foldl_wf (fun _ _ => recallLine_wf) _ h) a bs

@[simp] theorem State.unitNat_wf {s : State} {a n : Nat} (h : Memory.wf s.mem) : Memory.wf (State.unitNat s a n).2.mem := by
  simp [State.unitNat, h]

@[simp] theorem dirGrant_mem (s : State) (pl dk : Nat) (excl : Bool) : (dirGrant s pl dk excl).2.mem = s.mem := (rfl)

@[simp] theorem recallFrame_wf {s : State} {pa n : Nat} (h : Memory.wf s.mem) : Memory.wf (recallFrame s pa n).mem := by
  have hr := foldl_wf (fun s pl => recallLine_wf (s := s) (pl := pl) (inval := true)) (trackedLines s pa n) h
  exact foldl_wf (fun s dk hs => by split <;> simpa using hs) _ hr

@[simp] theorem addSnoops_mem (s : State) (w : Nat) (hs : List Nat) (inval : Bool) : (addSnoops s w hs inval).mem = s.mem := (rfl)

@[simp] theorem countErr_mem (s : State) (dk i : Nat) : (countErr s dk i).mem = s.mem := (rfl)

@[simp] theorem hotLoad_wf {s : State} {dk blk : Nat} (h : Memory.wf s.mem) : Memory.wf (hotLoad s dk blk).2.mem := by
  unfold hotLoad
  dsimp only
  repeat' split
  all_goals simp [h]

@[simp] theorem hotStore_wf {s : State} {dk blk : Nat} {t : Tab Nat} (h : Memory.wf s.mem) : Memory.wf (hotStore s dk blk t).mem := by
  unfold hotStore
  dsimp only
  repeat' split
  all_goals simp [h]

@[simp] theorem countHot_wf {s : State} {a ck : Nat} (h : Memory.wf s.mem) : Memory.wf (countHot s a ck).mem := by
  have h0 {dk blk} : Memory.wf (hotLoad s dk blk).2.mem := hotLoad_wf h
  have h1 {dk blk dk' blk' t} : Memory.wf (hotStore (hotLoad s dk blk).2 dk' blk' t).mem := hotStore_wf h0
  unfold countHot
  dsimp only
  repeat' split
  all_goals simp [h, h1]

@[simp] theorem hotClear_wf {s : State} {dk blk n : Nat} (h : Memory.wf s.mem) : Memory.wf (hotClear s dk blk n).mem := by
  unfold hotClear
  dsimp only
  split
  · exact foldl_wf (fun _ _ => State.unitWrite_wf) _ (by simpa using h)
  · simpa using h

/-! ### Machine/Translate -/

@[simp] theorem walkFrom_wf {c : WalkCfg} {off : Nat} : ∀ {fuel lvl base : Nat} {s : State},
    Memory.wf s.mem → Memory.wf (walkFrom c off fuel lvl base s).2.mem
  | 0, _, _, _, h => h
  | fuel + 1, lvl, base, s, h => by
    have hn {a} : Memory.wf (s.unitNat a 8).2.mem := State.unitNat_wf h
    have ih {lvl base a} := walkFrom_wf (c := c) (off := off) (fuel := fuel) (lvl := lvl) (base := base) (hn (a := a))
    rw [walkFrom]
    dsimp only
    repeat' split
    all_goals simp only [hn, ih]

@[simp] theorem walkRoot_wf {s : State} {dk off : Nat} {host : Bool} {root : Nat} (h : Memory.wf s.mem) :
    Memory.wf (walkRoot s dk off host root).2.mem := by
  unfold walkRoot
  split <;> simp [h]

@[simp] theorem walk_wf {s : State} {dk off : Nat} {host : Bool} (h : Memory.wf s.mem) : Memory.wf (walk s dk off host).2.mem := by
  simp [walk, h]

@[simp] theorem tlbPut_mem (s : State) (dk off : Nat) (l : Leaf) : (tlbPut s dk off l).mem = s.mem := (rfl)

@[simp] theorem findLeaf_wf {s : State} {dk off : Nat} {host : Bool} (h : Memory.wf s.mem) : Memory.wf (findLeaf s dk off host).2.mem := by
  unfold findLeaf
  split
  · exact walk_wf h
  · split
    · exact h
    · split
      · next e => simpa using wf_snd e (walk_wf h)
      · next e => exact wf_snd e (walk_wf h)

@[simp] theorem touchLeaf_wf {s : State} {dk : Nat} {l : Leaf} {write : Bool} (h : Memory.wf s.mem) :
    OptWf (touchLeaf s dk l write) := by
  unfold touchLeaf
  dsimp only
  repeat' split
  all_goals simp [h]

@[simp] theorem applyLeaf_wf {s : State} {dk off : Nat} {host : Bool} {l : Leaf} {acc : Access} {priv secure : Bool}
    (h : Memory.wf s.mem) : Memory.wf (applyLeaf s dk off host l acc priv secure).2.mem := by
  unfold applyLeaf
  split
  · exact h
  · split
    · exact h
    · split
      · next e => exact touchLeaf_wf h _ e
      · exact h

@[simp] theorem useLeaf_wf {s : State} {dk off : Nat} {host : Bool} {l : Leaf} {acc : Access} {priv secure : Bool}
    (h : Memory.wf s.mem) : Memory.wf (useLeaf s dk off host l acc priv secure).2.mem := by
  unfold useLeaf
  split
  · next e => exact wf_snd e (applyLeaf_wf h)
  · next e => exact wf_snd e (applyLeaf_wf h)
  · next e =>
    have h1 := wf_snd e (applyLeaf_wf h)
    split
    · next e1 => exact wf_snd e1 (walk_wf h1)
    · next e1 =>
      have h2 := wf_snd e1 (walk_wf h1)
      have h3 {l' : Leaf} : Memory.wf (applyLeaf (if host then _ else tlbPut _ dk off l') dk off host l' acc priv secure).2.mem :=
        applyLeaf_wf (by split <;> simpa using h2)
      split <;> (next e2 => exact wf_snd e2 h3)

@[simp] theorem translate_wf {s : State} {w : Nat} {va : DWord} {acc : Access} {priv secure : Bool} (h : Memory.wf s.mem) :
    Memory.wf (translate s w va acc priv secure).2.mem := by
  unfold translate
  dsimp only
  split
  · exact h
  · split
    · exact h
    · split
      · next e => exact wf_snd e (findLeaf_wf h)
      · next e => exact useLeaf_wf (wf_snd e (findLeaf_wf h))

/-! ### Machine/FaultQueue -/

@[simp] theorem writeFaultRecord_wf {s : State} {dk : Nat} {bs : List Byte} (h : Memory.wf s.mem) :
    Memory.wf (writeFaultRecord s dk bs).mem := by simp [writeFaultRecord, h]

@[simp] theorem sendRecord_wf {s : State} {dk : Nat} {r : FRec} {who : Waiter} (h : Memory.wf s.mem) :
    Memory.wf (sendRecord s dk r who).2.mem := by
  unfold sendRecord
  dsimp only
  split <;> simp [h]

/-! ### Machine/Lanes -/

@[simp] theorem laneEff_wf {op : LaneOp} {x : Opnds} {c : Ctx} {s : State} (h : Memory.wf s.mem) : ResWf (laneEff op x c s) := by
  unfold laneEff
  repeat' split
  all_goals simp [h]

@[simp] theorem uniEff_wf {op : LaneOp} {x : Opnds} {c : Ctx} {s : State} (h : Memory.wf s.mem) : ResWf (uniEff op x c s) := h

@[simp] theorem noEff_wf {c : Ctx} {s : State} (h : Memory.wf s.mem) : ResWf (noEff c s) := h

@[simp] theorem laneA_wf {i : Instr} {op : Option LaneOp} {lk : Bool} {f : FmtA} {s : State} (h : Memory.wf s.mem) :
    OutWf (laneA i op lk f s) :=
  issue_wf (fun _ _ hs => by cases op <;> simp [hs]) h

@[simp] theorem laneR_wf {i : Instr} {op : Option LaneOp} {lk : Bool} {f : FmtA} {s : State} (h : Memory.wf s.mem) :
    OutWf (laneR i op lk f s) := by
  unfold laneR
  dsimp only
  generalize (if f.rnd.toNat ≤ 4 then op else none) = op'
  exact issue_wf (fun _ _ hs => by cases op' <;> simp [hs]) h

@[simp] theorem laneCvt_wf {i : Instr} {op : Option LaneOp} {old : Bool} {f : FmtA} {s : State} (h : Memory.wf s.mem) :
    OutWf (laneCvt i op old f s) := by
  cases op with
  | none => exact issue_wf (fun _ _ => noEff_wf) h
  | some op => exact issue_wf (fun _ _ => laneEff_wf) h

@[simp] theorem laneB_wf {i : Instr} {op : Option LaneOp} {f : FmtB} {s : State} (h : Memory.wf s.mem) : OutWf (laneB i op f s) := by
  cases op with
  | none => exact issue_wf (fun _ _ => noEff_wf) h
  | some op => exact issue_wf (fun _ _ => laneEff_wf) h

@[simp] theorem laneAcc_wf {i : Instr} {op : LaneOp} {x : Opnds} {s : State} (h : Memory.wf s.mem) : OutWf (laneAcc i op x s) :=
  issue_wf (fun _ _ hs => by simp [hs]) h

@[simp] theorem uniA_wf {i : Instr} {op : Option LaneOp} {f : FmtA} {s : State} (h : Memory.wf s.mem) : OutWf (uniA i op f s) :=
  issue_wf (fun _ _ hs => by cases op <;> simp [hs]) h

@[simp] theorem uniB_wf {i : Instr} {op : Option LaneOp} {f : FmtB} {s : State} (h : Memory.wf s.mem) : OutWf (uniB i op f s) := by
  cases op with
  | none => exact issue_wf (fun _ _ => noEff_wf) h
  | some op => exact issue_wf (fun _ _ => uniEff_wf) h

/-! ### Machine/Requests -/

@[simp] theorem State.l1Write_mem (s : State) (ck vline off : Nat) (bs : List Byte) (strong : Bool) :
    (State.l1Write s ck vline off bs strong).mem = s.mem := (rfl)

@[simp] theorem answerNow_mem (s : State) (r : Req) (v : BitVec 128) : (answerNow s r v).mem = s.mem := (rfl)

@[simp] theorem countLine_mem (s : State) (r : Req) (ev : Nat) : (countLine s r ev).mem = s.mem := by
  unfold countLine
  split <;> simp

@[simp] theorem sendLoad_mem (s : State) (r : Req) : (sendLoad s r).mem = s.mem := by
  unfold sendLoad
  repeat' split
  all_goals simp

@[simp] theorem bufferStore_mem (ck : Nat) (p : Piece) (s : State) : (bufferStore ck p s).mem = s.mem := (rfl)

@[simp] theorem feedBuffer_mem {ck : Nat} : ∀ (ps : List Piece) (s : State), (feedBuffer ck ps s).2.mem = s.mem
  | [], _ => rfl
  | p :: ps, s => by
    unfold feedBuffer
    split
    · simp [feedBuffer_mem ps]
    · rfl

@[simp] theorem feedPend_mem (ck : Nat) (s : State) (p : Pend) : (feedPend ck s p).mem = s.mem := by
  unfold feedPend
  dsimp only
  split <;> simp

@[simp] theorem feedCore_mem (s : State) (ck : Nat) : (feedCore s ck).mem = s.mem := by simp [feedCore]

/-! ### Machine/Fetch -/

@[simp] theorem fetchLine_wf {s : State} {ck : Nat} {va : DWord} {secure priv : Bool} (h : Memory.wf s.mem) :
    Memory.wf (fetchLine s ck va secure priv).2.mem := by
  unfold fetchLine
  split
  · exact h
  · dsimp only
    split
    · exact h
    · split
      · next e => exact wf_snd e (translate_wf h)
      · next e =>
        have h1 := wf_snd e (translate_wf h)
        repeat' split
        all_goals simp [h1]

@[simp] theorem bringLine_wf {s : State} {ck : Nat} {va : DWord} {secure priv : Bool} (h : Memory.wf s.mem) :
    Memory.wf (bringLine s ck va secure priv).1.mem := by
  unfold bringLine
  split
  · exact h
  · split <;> (next e => simpa using wf_snd e (fetchLine_wf h))

@[simp] theorem fetchAhead_wf {s : State} {b : Block} {w : Warp} {va : DWord} (h : Memory.wf s.mem) :
    Memory.wf (fetchAhead s b w va).mem := by
  unfold fetchAhead
  split
  · exact foldl_wf (fun _ _ => bringLine_wf) _ h
  · exact h

@[simp] theorem pushStep_wf {s : State} {b : Block} (h : Memory.wf s.mem) : Memory.wf (pushStep s b).mem := by
  unfold pushStep
  simp only [State.updBlock_mem]
  refine foldl_fst_wf ?_ _ h
  exact fun _ _ hp => bringLine_wf hp

@[simp] theorem fetchEff_wf {s : State} {r : PathRef} (h : Memory.wf s.mem) : Memory.wf (fetchEff s r).mem := by
  unfold fetchEff
  split
  · split
    · exact h
    · split
      · exact pushStep_wf h
      · split
        · simp [h]
        · exact h
        · split
          · next e => exact wf_snd e (fetchLine_wf h)
          · next e => exact fetchAhead_wf (by simpa using wf_snd e (fetchLine_wf h))
          · next e =>
            have h1 := wf_snd e (fetchLine_wf h)
            split <;> simp [h1]
  · exact h

@[simp] theorem drainBank_mem (s : State) (ck : Nat) (bank : Nat) : (drainBank s ck bank).mem = s.mem := by
  unfold drainBank
  split
  · rfl
  · simp only [State.updCore_mem]
    exact foldl_mem (fun s g => State.addReq_mem s _) _ s

@[simp] theorem dropDrained_mem (s : State) (ck id : Nat) : (dropDrained s ck id).mem = s.mem := by simp [dropDrained]

/-! ### Machine/Admit -/

@[simp] theorem admitBlock_mem (s : State) (b : Block) : (admitBlock s b).mem = s.mem := by
  unfold admitBlock
  split <;> simp

@[simp] theorem paramBytes_wf {s : State} {b : Block} {va : DWord} {n : Nat} (h : Memory.wf s.mem) :
    Memory.wf (paramBytes s b va n).2.mem := by
  unfold paramBytes
  split
  · next e => exact wf_snd e (translate_wf h)
  · next e =>
    have h1 := wf_snd e (translate_wf h)
    repeat' split
    all_goals simp [h1]

@[simp] theorem pushLines_wf {s : State} {b : Block} (h : Memory.wf s.mem) : Memory.wf (pushLines s b).mem := by
  unfold pushLines
  dsimp only
  split
  · exact h
  · split
    · refine foldl_snd_wf ?_ _ h
      exact fun _ _ ha => paramBytes_wf ha
    · refine pushStep_wf (foldl_snd_wf ?_ _ h)
      exact fun _ _ ha => paramBytes_wf ha

@[simp] theorem startUnit_wf {s : State} {g : Grid} {linear target arrival home : Nat} {cores : List Nat} (h : Memory.wf s.mem) :
    Memory.wf (startUnit s g linear target arrival home cores).mem :=
  foldl_wf (fun t x ht => pushLines_wf (by simpa using ht)) _ h

/-! ### Machine/MemOps -/

@[simp] theorem countBanks_mem (c : Ctx) (va : Nat → DWord) (n : Nat) (s : State) : (countBanks c va n s).mem = s.mem := by
  unfold countBanks
  dsimp only
  split
  · rfl
  · simp

@[simp] theorem markArriving_mem (c : Ctx) (d : Dst) (s : State) : (markArriving c d s).mem = s.mem := (rfl)

@[simp] theorem loadEff_wf {d : Opd} {n : Nat} {sx : Bool} {o : Ctx → MemOrd} {hint : Nat} {va : Ctx → Nat → DWord} {c : Ctx} {s : State}
    (h : Memory.wf s.mem) : ResWf (loadEff d n sx o hint va c s) := by
  unfold loadEff
  dsimp only
  repeat' split
  all_goals simp [h]

@[simp] theorem afterWait_wf {c : Ctx} {s : State} {wt : Wait} (h : Memory.wf s.mem) : ResWf (afterWait c s wt) := h

@[simp] theorem storeLane_mem (c : Ctx) (tag : Nat) (o : MemOrd) (hint n : Nat) (va : DWord) (x : BitVec 128) (s : State) (i : Nat) :
    (storeLane c tag o hint n va x s i).mem = s.mem := by
  unfold storeLane
  repeat' split
  all_goals simp

@[simp] theorem storeEff_wf {data : Opd} {n : Nat} {o : Ctx → MemOrd} {hint : Nat} {va : Ctx → Nat → DWord} {c : Ctx} {s : State}
    (h : Memory.wf s.mem) : ResWf (storeEff data n o hint va c s) := by
  unfold storeEff
  dsimp only
  repeat' split
  all_goals simp [h]

@[simp] theorem stmMember_mem (c : Ctx) (o n : Nat) (x : BitVec 128) (s : State) (bid : Nat) :
    (stmMember c o n x s bid).mem = s.mem := by
  unfold stmMember
  dsimp only
  repeat' split
  all_goals simp

@[simp] theorem stmEff_wf {data : Opd} {n : Nat} {va : Ctx → Nat → DWord} {c : Ctx} {s : State} (h : Memory.wf s.mem) :
    ResWf (stmEff data n va c s) := by
  unfold stmEff
  split <;> simp [h]

@[simp] theorem rmwLane_mem (c : Ctx) (tag : Nat) (op : RmwOp) (red : Bool) (o : MemOrd) (n : Nat) (ret : Bool) (va b d : DWord)
    (s : State) (i : Nat) : (rmwLane c tag op red o n ret va b d s i).mem = s.mem := by
  unfold rmwLane
  dsimp only
  repeat' split
  all_goals simp

@[simp] theorem rmwEff_wf {op : RmwOp} {d : Opd} {back : Bool} {data : Opd} {n : Nat} {o : Ctx → MemOrd} {va : Ctx → Nat → DWord}
    {c : Ctx} {s : State} (h : Memory.wf s.mem) : ResWf (rmwEff op d back data n o va c s) := by
  unfold rmwEff
  dsimp only
  repeat' split
  all_goals simp [h]

@[simp] theorem ldkEff_wf {d : Opd} {n hint : Nat} {va : Ctx → Nat → DWord} {c : Ctx} {s : State} (h : Memory.wf s.mem) :
    ResWf (ldkEff d n hint va c s) := by simp [ldkEff, h]

@[simp] theorem prefetchEff_wf {hint : Nat} {va : Ctx → Nat → DWord} {c : Ctx} {s : State} (h : Memory.wf s.mem) :
    ResWf (prefetchEff hint va c s) := by
  unfold prefetchEff
  split
  · exact h
  · exact foldl_wf (fun t i ht => by dsimp only; split <;> simpa using ht) _ h

@[simp] theorem rangeCopy_wf {what dk : Nat} {s : State} {v : VLine} (h : Memory.wf s.mem) : Memory.wf (rangeCopy what dk s v).mem := by
  unfold rangeCopy
  dsimp only
  repeat' split
  all_goals simp [h]

@[simp] theorem rangeBlock_wf {u : UnitOp} {s : State} {blk : Nat} (h : Memory.wf s.mem) : Memory.wf (rangeBlock u s blk).mem := by
  unfold rangeBlock
  dsimp only
  split
  · exact h
  · split
    · next e => exact wf_snd e (findLeaf_wf h)
    · next e =>
      have h1 := wf_snd e (findLeaf_wf h)
      split
      · exact h1
      · split <;> exact foldl_wf (fun _ _ => rangeCopy_wf) _ h1

@[simp] theorem rangeRun_wf {s : State} {u : UnitOp} (h : Memory.wf s.mem) : Memory.wf (rangeRun s u).mem :=
  foldl_wf (fun _ _ => rangeBlock_wf) _ h

@[simp] theorem rangeProgress_wf {s : State} (h : Memory.wf s.mem) : Memory.wf (rangeProgress s).mem := by
  unfold rangeProgress
  refine foldl_wf (fun t u ht => ?_) _ h
  exact rangeRun_wf ht

@[simp] theorem rangeEff_wf {what : Nat} {base : Opd} {off : DWord} {len : Opd} {c : Ctx} {s : State} (h : Memory.wf s.mem) :
    ResWf (rangeEff what base off len c s) := by
  unfold rangeEff
  dsimp only
  repeat' split
  all_goals simp [h]

@[simp] theorem waitvReads_mem (c : Ctx) (tag n : Nat) (va : Nat → DWord) (m : Word) (s : State) :
    (waitvReads c tag n va m s).mem = s.mem := by simp [waitvReads]

@[simp] theorem waitvEff_wf {d : Opd} {cond n : Nat} {data : Opd} {o : Ctx → MemOrd} {va : Ctx → Nat → DWord} {c : Ctx} {s : State}
    (h : Memory.wf s.mem) : ResWf (waitvEff d cond n data o va c s) := by
  unfold waitvEff
  dsimp only
  repeat' split
  all_goals simp [h]

@[simp] theorem fenceEff_wf {scope : Scope} {acq : Bool} {c : Ctx} {s : State} (h : Memory.wf s.mem) :
    ResWf (fenceEff scope acq c s) := by
  unfold fenceEff
  repeat' split
  all_goals simp [h]

/-! ### Machine/Heap -/

@[simp] theorem goodColour_mem (s : State) (ck : Nat) (secure : Bool) : (goodColour s ck secure).2.mem = s.mem := by
  unfold goodColour
  dsimp only
  split <;> simp

@[simp] theorem refEff_wf {kind : ReqKind} {pk : PendKind} {dst dst2 : Dst} {base idx : Opd} {off : DWord} {n : Nat} {o : MemOrd}
    {data cmp : Ctx → Nat → DWord} {c : Ctx} {s : State} (h : Memory.wf s.mem) :
    ResWf (refEff kind pk dst dst2 base idx off n o data cmp c s) := by
  unfold refEff
  dsimp only
  repeat' split
  all_goals simp [h]

@[simp] theorem importEff_wf {d a : Opd} {c : Ctx} {s : State} (h : Memory.wf s.mem) : ResWf (importEff d a c s) := by
  unfold importEff
  split <;> simp [h]

@[simp] theorem hcopyEff_wf {d a : Opd} {n : Nat} {c : Ctx} {s : State} (h : Memory.wf s.mem) : ResWf (hcopyEff d a n c s) := by
  simp [hcopyEff, h]

@[simp] theorem hcmpEff_wf {d a b : Opd} {c : Ctx} {s : State} (h : Memory.wf s.mem) : ResWf (hcmpEff d a b c s) := by
  unfold hcmpEff
  dsimp only
  split
  · exact h
  · split
    · trivial
    · simp only [resWf_done, markArriving_mem]
      rw [foldl_mem fun s i => ?_]
      · simpa using h
      · repeat' split
        all_goals simp

@[simp] theorem hcopyIssue_wf {i : Instr} {f : FmtA} {s : State} (h : Memory.wf s.mem) : OutWf (hcopyIssue i f s) :=
  issue_wf (fun _ _ hs => by split <;> simp [hs]) h

@[simp] theorem hphaseEff_wf {a : Opd} {c : Ctx} {s : State} (h : Memory.wf s.mem) : ResWf (hphaseEff a c s) := by
  have hf : ResWf (fenceEff .wafer true c s) := fenceEff_wf h
  unfold hphaseEff
  dsimp only
  split
  · next e =>
    rw [e] at hf
    exact afterWait_wf (by simpa using hf)
  · exact hf

/-! ### Machine/Relocate -/

@[simp] theorem unitXlat_wf {s : State} {w : Nat} {va : DWord} {acc : Access} {secure : Bool} {cls : Nat → Bool}
    (h : Memory.wf s.mem) : Memory.wf (unitXlat s w va acc secure cls).2.mem := by
  unfold unitXlat
  split
  · next e =>
    have h1 := wf_snd e (translate_wf h)
    split <;> exact h1
  · next e => exact wf_snd e (translate_wf h)

@[simp] theorem unitLoad_wf {s : State} {w : Nat} {va : DWord} {n : Nat} {secure : Bool} (h : Memory.wf s.mem) :
    Memory.wf (unitLoad s w va n secure).2.mem := by
  unfold unitLoad
  split
  · next e => exact State.unitNat_wf (wf_snd e (unitXlat_wf h))
  · next e => exact wf_snd e (unitXlat_wf h)

@[simp] theorem unitStore_wf {s : State} {w : Nat} {va : DWord} {bs : List Byte} {secure : Bool} (h : Memory.wf s.mem) :
    Memory.wf (unitStore s w va bs secure).mem := by
  unfold unitStore
  split
  · next e => exact State.unitWrite_wf (wf_snd e (unitXlat_wf h))
  · next e => exact wf_snd e (unitXlat_wf h)

@[simp] theorem readRecs_wf {w : Nat} {base : DWord} {secure : Bool} {home : Option Nat} {n : Nat} {s : State} (h : Memory.wf s.mem) :
    Memory.wf (readRecs w base secure home n s).2.mem := by
  unfold readRecs
  refine foldl_snd_wf (fun p i hp => ?_) _ h
  split
  · exact hp
  · split <;> (next e => exact wf_snd e (unitLoad_wf hp))

@[simp] theorem spanFrames_wf {w dk : Nat} {secure : Bool} {sps : List Span} {s : State} (h : Memory.wf s.mem) :
    Memory.wf (spanFrames w dk secure sps s).2.mem := by
  unfold spanFrames
  refine foldl_snd_wf (fun p sp hp => ?_) _ h
  split
  · exact hp
  · split <;> (next e => exact wf_snd e (translate_wf hp))

@[simp] theorem readSet_wf {s : State} {dk : Nat} {secure : Bool} (h : Memory.wf s.mem) : Memory.wf (readSet s dk secure).2.mem := by
  unfold readSet
  dsimp only
  split
  · exact h
  · split
    · next e => exact wf_snd e (unitLoad_wf h)
    · next e =>
      have h1 := wf_snd e (unitLoad_wf h)
      split
      · exact h1
      · split
        · next e1 => exact wf_snd e1 (readRecs_wf h1)
        · next e1 =>
          have h2 := wf_snd e1 (readRecs_wf h1)
          split
          · next e2 => exact wf_snd e2 (readRecs_wf h2)
          · next e2 =>
            have h3 := wf_snd e2 (readRecs_wf h2)
            split
            · exact h3
            · split <;> (next e3 => exact wf_snd e3 (spanFrames_wf h3))

@[simp] theorem State.updRel_mem (s : State) (dk : Nat) (f : RelSet → RelSet) : (State.updRel s dk f).mem = s.mem := (rfl)

@[simp] theorem setFwd_wf {s : State} {dk i : Nat} {st : FwdState} (h : Memory.wf s.mem) : Memory.wf (setFwd s dk i st).mem := by
  unfold setFwd
  repeat' split
  all_goals simp [h]

@[simp] theorem writeObject_wf {w : Nat} {r : RelSet} {new : DWord} {bs : List Byte} {s : State} (h : Memory.wf s.mem) :
    Memory.wf (writeObject w r new bs s).2.mem := by
  unfold writeObject
  refine foldl_snd_wf (fun p pc hp => ?_) _ h
  split
  · exact hp
  · dsimp only
    split
    · next e =>
      have h1 := wf_snd e (translate_wf hp)
      split
      · exact h1
      · exact State.unitWrite_wf h1
    · next e => exact wf_snd e (translate_wf hp)

@[simp] theorem copyObject_wf {s : State} {dk i : Nat} (h : Memory.wf s.mem) : Memory.wf (copyObject s dk i).mem := by
  have h1 {a} : Memory.wf (s.unitNat a 8).2.mem := State.unitNat_wf h
  have h2 {a st} : Memory.wf (setFwd (s.unitNat a 8).2 dk i st).mem := setFwd_wf h1
  unfold copyObject
  split
  · exact h
  · split
    · dsimp only
      split
      · exact h2
      · have h3 {a b n} {c : Prop} [Decidable c] :
            Memory.wf ((if c then setFwd (s.unitNat a 8).2 dk i .copying else (s.unitNat a 8).2).unitRead b n).2.mem :=
          State.unitRead_wf (by split <;> simp [h1, h2])
        split
        · next e => exact setFwd_wf (wf_snd e (writeObject_wf h3))
        · next e => exact setFwd_wf (wf_snd e (writeObject_wf h3))
        · next e => simpa using sendRecord_wf (wf_snd e (writeObject_wf h3))
    · exact h

@[simp] theorem endSet_wf {s : State} {dk : Nat} {r : RelSet} (h : Memory.wf s.mem) : Memory.wf (endSet s dk r).mem := by
  unfold endSet
  split <;> simp [h]

@[simp] theorem orangeryStep_wf {s : State} {dk : Nat} (h : Memory.wf s.mem) : Memory.wf (orangeryStep s dk).mem := by
  unfold orangeryStep
  repeat' split
  all_goals simp [h]

@[simp] theorem relStart_wf {s : State} {dk : Nat} {secure : Bool} (h : Memory.wf s.mem) : Memory.wf (relStart s dk secure).mem := by
  unfold relStart
  split
  · exact h
  · split
    · next e => simpa using wf_snd e (readSet_wf h)
    · next e => exact foldl_wf (fun _ _ => recallFrame_wf) _ (by simpa using wf_snd e (readSet_wf h))

@[simp] theorem relRetire_mem (s : State) (dk : Nat) : (relRetire s dk).mem = s.mem := by
  unfold relRetire
  split <;> simp

@[simp] theorem sweepStart_mem (s : State) (dk : Nat) (secure : Bool) : (sweepStart s dk secure).mem = s.mem := by
  unfold sweepStart
  split <;> simp

@[simp] theorem sweepEnd_wf {s : State} {dk : Nat} {sw : Sweep} {record err : Bool} (h : Memory.wf s.mem) :
    Memory.wf (sweepEnd s dk sw record err).mem := by
  unfold sweepEnd
  split <;> simp [h]

@[simp] theorem sweepAt_wf {s : State} {dk : Nat} {sw : Sweep} {va : DWord} {words : Nat} (h : Memory.wf s.mem) :
    Memory.wf (sweepAt s dk sw va words).mem := by
  unfold sweepAt
  dsimp only
  split
  · next e => simpa using wf_snd e (unitXlat_wf h)
  · next e =>
    have h1 {a} := State.unitNat_wf (a := a) (n := 8) (wf_snd e (unitXlat_wf h))
    split
    · simpa using h1
    · split
      · exact h
      · exact copyObject_wf h1
      · split
        · simpa using h1
        · split
          · next e2 => simpa using wf_snd e2 (unitXlat_wf h1)
          · next e2 => simpa using State.unitWrite_wf (wf_snd e2 (unitXlat_wf h1))

@[simp] theorem sweepStep_wf {s : State} {dk : Nat} (h : Memory.wf s.mem) : Memory.wf (sweepStep s dk).mem := by
  unfold sweepStep
  split
  · exact h
  · split
    · next e => exact sweepEnd_wf (wf_snd e (unitLoad_wf h))
    · next e =>
      have h1 := wf_snd e (unitLoad_wf h)
      dsimp only
      repeat' split
      all_goals simp [h1]

/-! ### Machine/Home -/

@[simp] theorem closeTrans_mem (s : State) (r : Req) : (closeTrans s r).mem = s.mem := by
  unfold closeTrans
  dsimp only
  split <;> simp

@[simp] theorem faultReq_mem (s : State) (r : Req) (code : BitVec 8) (logged : Bool) : (faultReq s r code logged).mem = s.mem := by
  unfold faultReq
  dsimp only
  split
  · simp
  · simp
  · split
    · simp
    · rw [foldl_mem fun _ _ => State.addReq_mem _ _]
      simp

@[simp] theorem answerReq_mem (s : State) (r : Req) (v : BitVec 128) (line : List Byte) : (answerReq s r v line).mem = s.mem := by
  simp [answerReq]

@[simp] theorem ackReq_mem (s : State) (r : Req) : (ackReq s r).mem = s.mem := by
  unfold ackReq
  split <;> simp

@[simp] theorem doneReq_mem (s : State) (r : Req) (v : BitVec 128) : (doneReq s r v).mem = s.mem := by
  unfold doneReq
  split <;> simp

@[simp] theorem loadAnswer_mem (s : State) (r : Req) (img : List Byte) (fill : Bool) : (loadAnswer s r img fill).mem = s.mem := by
  simp [loadAnswer]

@[simp] theorem drainVisitor_mem (s : State) (dk : Nat) (v : VLine) (r : Req) : (drainVisitor s dk v r).mem = s.mem := by
  simp [drainVisitor]

@[simp] theorem routeReq_mem (s : State) (r : Req) : (routeReq s r).mem = s.mem := by
  unfold routeReq
  dsimp only
  repeat' split
  all_goals simp

@[simp] theorem startWalk_mem (s : State) (r : Req) (dk off : Nat) : (startWalk s r dk off).mem = s.mem := (rfl)

@[simp] theorem acceptReq_wf {s : State} {r : Req} {dk off : Nat} {l : Leaf} (h : Memory.wf s.mem) :
    Memory.wf (acceptReq s r dk off l).mem := by
  unfold acceptReq
  split
  · next e => simpa using wf_snd e (applyLeaf_wf h)
  · next e => simpa using wf_snd e (applyLeaf_wf h)
  · next e =>
    have h1 := wf_snd e (applyLeaf_wf h)
    split <;> simpa using h1

@[simp] theorem holdOwner_mem (s : State) (r : Req) : (holdOwner s r).mem = s.mem := (rfl)

@[simp] theorem translateReq_wf {s : State} {r : Req} (h : Memory.wf s.mem) : Memory.wf (translateReq s r).mem := by
  unfold translateReq
  dsimp only
  repeat' split
  all_goals simp [h]

@[simp] theorem walkDone_wf {s : State} {dk key : Nat} (h : Memory.wf s.mem) : Memory.wf (walkDone s dk key).mem := by
  unfold walkDone
  split
  · exact h
  · refine foldl_wf (fun t r ht => ?_) _ ?_
    · dsimp only
      split
      · simpa using ht
      · split
        · exact acceptReq_wf ht
        · split
          · next e => exact acceptReq_wf (by simpa using wf_snd e (walkRoot_wf ht))
          · next e => simpa using wf_snd e (walkRoot_wf ht)
    · split
      · next e => simpa using wf_snd e (walkRoot_wf (by simpa using h))
      · next e => exact wf_snd e (walkRoot_wf (by simpa using h))

@[simp] theorem takePlace_mem (s : State) (r : Req) : (takePlace s r).mem = s.mem := by
  unfold takePlace
  split <;> simp

@[simp] theorem waitHome_wf {s : State} {r : Req} (h : Memory.wf s.mem) : OptWf (waitHome s r) := by
  unfold waitHome
  split <;> simp [h]

@[simp] theorem openTrans_mem (s : State) (e : DirEnt) (targets : List Nat) (inval : Bool) (id : Option Nat) :
    (openTrans s e targets inval id).mem = s.mem := by
  unfold openTrans
  dsimp only
  rw [State.updDomain_mem, foldl_mem fun _ _ => State.send_mem _ _, State.putDir_mem]

@[simp] theorem prepLine_wf {s : State} {r : Req} {pl : Nat} {write : Bool} {keep : Option Nat} (h : Memory.wf s.mem) :
    PrepWf (prepLine s r pl write keep) := by
  unfold prepLine
  dsimp only
  split
  · trivial
  · split
    · trivial
    · repeat' split
      all_goals simp [h]

@[simp] theorem prepRoom_wf {s : State} {pl : Nat} (h : Memory.wf s.mem) : PrepWf (prepRoom s pl) := by
  unfold prepRoom
  split
  · trivial
  · split
    · trivial
    · repeat' split
      all_goals simp [h]

@[simp] theorem prepSnoops_wf {s : State} {r : Req} {hs : List Nat} {write : Bool} (h : Memory.wf s.mem) :
    PrepWf (prepSnoops s r hs write) := by
  unfold prepSnoops
  dsimp only
  repeat' split
  all_goals simp [h]

@[simp] theorem prepHome_wf {s : State} {r : Req} (h : Memory.wf s.mem) : PrepWf (prepHome s r) := by
  unfold prepHome
  refine prepWf_then ?_ (prepWf_then (prepLine_wf h) (prepSnoops_wf h))
  split
  · exact prepLine_wf h
  · trivial

@[simp] theorem holdHome_mem (s : State) (r : Req) : (holdHome s r).mem = s.mem := by simp [holdHome]

@[simp] theorem pinHome_wf {s : State} {r : Req} {up : Bool} {hdr : Nat} (h : Memory.wf s.mem) : Memory.wf (pinHome s r up hdr).mem := by
  unfold pinHome
  dsimp only
  split <;> simp [h]

@[simp] theorem firstHalf_wf {s : State} {r : Req} (h : Memory.wf s.mem) : Memory.wf (firstHalf s r).mem := by
  unfold firstHalf
  dsimp only
  split <;> simp [h]

@[simp] theorem lastHalf_wf {s : State} {r : Req} {up : Bool} (h : Memory.wf s.mem) : Memory.wf (lastHalf s r up).mem := by
  unfold lastHalf
  dsimp only
  split <;> simp [h]

@[simp] theorem performHome_wf {s : State} {r : Req} (h : Memory.wf s.mem) : Memory.wf (performHome s r).mem := by
  unfold performHome
  dsimp only
  repeat' split
  all_goals simp [h]

@[simp] theorem homeTurn_wf {s : State} {r : Req} (h : Memory.wf s.mem) : OptWf (homeTurn s r) := by
  have hp : PrepWf (prepHome s r) := prepHome_wf h
  unfold homeTurn
  split
  · simpa using h
  · split
    · simp
    · split
      · exact waitHome_wf h
      · split
        · exact waitHome_wf h
        · next e =>
          rw [e] at hp
          simpa using hp
        · refine optWf_some.2 (performHome_wf ?_)
          split <;> simp [h]

@[simp] theorem forwardReq_mem (s : State) (r : Req) (new : Nat) : (forwardReq s r new).mem = s.mem := by
  unfold forwardReq
  split <;> simp

@[simp] theorem resolveTurn_wf {s : State} {r : Req} (h : Memory.wf s.mem) : OptWf (resolveTurn s r) := by
  have hh := homeTurn_wf (r := r) h
  have hw := waitHome_wf (r := r) h
  unfold resolveTurn
  repeat' split
  all_goals simp [h, hh, hw]

@[simp] theorem slotTurn_wf {k : HomeKind} {s : State} {r : Req} (h : Memory.wf s.mem) : OptWf (slotTurn k s r) := by
  unfold slotTurn
  repeat' split
  all_goals simp [h]

@[simp] theorem remoteTurn_wf {s : State} {r : Req} (h : Memory.wf s.mem) : OptWf (remoteTurn s r) := by
  unfold remoteTurn
  repeat' split
  all_goals simp [h]

@[simp] theorem sendGrant_mem (s : State) (r : Req) (excl : Bool) : (sendGrant s r excl).mem = s.mem := by simp [sendGrant]

@[simp] theorem visitorTurn_wf {s : State} {r : Req} (h : Memory.wf s.mem) : OptWf (visitorTurn s r) := by
  unfold visitorTurn
  split
  · simp
  · split
    · simpa using h
    · split
      · exact waitHome_wf h
      · dsimp only
        split
        · exact waitHome_wf h
        · next e =>
          have hp : PrepWf (.act _) := e ▸ prepWf_then (prepLine_wf h) (prepWf_then (prepSnoops_wf h) (by split <;> simp [h]))
          simpa using hp
        · have h1 := countHot_wf (a := r.pa) (ck := r.core) h
          split
          · simpa using h1
          · repeat' split
            all_goals simpa using h1

@[simp] theorem ownershipTurn_wf {s : State} {r : Req} (h : Memory.wf s.mem) : OptWf (ownershipTurn s r) := by
  have h1 := countHot_wf (a := r.pa) (ck := r.core) h
  unfold ownershipTurn
  split
  · simp
  · split
    · simpa using h
    · split
      · exact waitHome_wf h
      · dsimp only
        split
        · split <;> simp [h, h1]
        · split
          · exact waitHome_wf h
          · next e =>
            have hp : PrepWf (.act _) := e ▸ prepWf_then (prepLine_wf h) (prepWf_then (prepSnoops_wf h) (by split <;> simp [h]))
            simpa using hp
          · split
            · simpa using h1
            · split <;> simp [h1]

@[simp] theorem grantArrive_mem (s : State) (m : Msg) : (grantArrive s m).mem = s.mem := by
  unfold grantArrive
  dsimp only
  repeat' split
  all_goals simp

@[simp] theorem probeArrive_mem (s : State) (m : Msg) : (probeArrive s m).mem = s.mem := by
  unfold probeArrive
  dsimp only
  repeat' split
  all_goals simp

@[simp] theorem dirLeave_mem (s : State) (pl dk : Nat) (inval : Bool) : (dirLeave s pl dk inval).mem = s.mem := by
  unfold dirLeave
  split <;> simp

@[simp] theorem probeAnswered_wf {s : State} {pl dk : Nat} {q : Option (BitVec 8)} {dirty : BitVec 4} {bs : List Byte}
    (h : Memory.wf s.mem) : Memory.wf (probeAnswered s pl dk q dirty bs).mem := by
  unfold probeAnswered
  dsimp only
  repeat' split
  all_goals simp [h]

@[simp] theorem answerArrive_wf {s : State} {m : Msg} (h : Memory.wf s.mem) : Memory.wf (answerArrive s m).mem := by
  unfold answerArrive
  dsimp only
  repeat' split
  all_goals simp [h]

@[simp] theorem writebackStep_wf {s : State} {dk pl : Nat} (h : Memory.wf s.mem) : Memory.wf (writebackStep s dk pl).mem := by
  unfold writebackStep
  repeat' split
  all_goals simp [h]

/-! ### Machine/Paths -/

@[simp] theorem spillFault_wf {s : State} {b : Block} {w : Warp} {i : Nat} (h : Memory.wf s.mem) :
    Memory.wf (spillFault s b w i).2.mem := by
  unfold spillFault
  dsimp only
  split
  · exact h
  · split
    · exact h
    · split
      · exact h
      · split <;> (next e => exact wf_snd e (translate_wf h))

@[simp] theorem spillFaults_wf {s : State} {b : Block} {w : Warp} {lo n : Nat} (h : Memory.wf s.mem) :
    Memory.wf (spillFaults s b w lo n).2.mem := by
  unfold spillFaults
  refine foldl_snd_wf (fun p i hp => ?_) _ h
  split
  · exact hp
  · split
    · exact hp
    · split <;> (next e => exact wf_snd e (spillFault_wf hp))

@[simp] theorem spillWrite_wf {s : State} {b : Block} {w : Warp} {i : Nat} {bs : List Byte} (h : Memory.wf s.mem) :
    Memory.wf (spillWrite s b w i bs).mem := by
  unfold spillWrite
  dsimp only
  split
  · split <;> simp [h]
  · split
    · next e => exact State.unitWrite_wf (wf_snd e (translate_wf h))
    · next e => exact wf_snd e (translate_wf h)

@[simp] theorem spillRead_wf {s : State} {b : Block} {w : Warp} {i : Nat} (h : Memory.wf s.mem) : Memory.wf (spillRead s b w i).2.mem := by
  unfold spillRead
  dsimp only
  split
  · exact h
  · split
    · next e => exact State.unitRead_wf (wf_snd e (translate_wf h))
    · next e => exact wf_snd e (translate_wf h)

@[simp] theorem freeRpc_mem (s : State) : (freeRpc s).2.mem = s.mem := (rfl)

@[simp] theorem spoiled_mem (s : State) (w : Warp) (p : PathState) : (spoiled s w p).2.mem = s.mem := (rfl)

@[simp] theorem rebuiltRpc_mem (s : State) (pc : DWord) (rpc : Option DWord) : (rebuiltRpc s pc rpc).2.mem = s.mem := by
  unfold rebuiltRpc
  dsimp only
  repeat' split
  all_goals simp

@[simp] theorem loadEntry_wf {s : State} {b : Block} {w : Warp} {i : Nat} {e : SpillEnt} (h : Memory.wf s.mem) :
    Memory.wf (loadEntry s b w i e).2.mem := by
  unfold loadEntry
  dsimp only
  repeat' split
  all_goals simp [h]

@[simp] theorem takenPath_wf {s : State} {bid wi i : Nat} {p : PathState} {waitJ : Bool} (h : Memory.wf s.mem) :
    Memory.wf (takenPath s bid wi i p waitJ).2.mem := by
  unfold takenPath
  split
  · split <;> (next e => exact wf_snd e (loadEntry_wf h))
  · exact h

@[simp] theorem respill_wf {s : State} {bid wi : Nat} {old : List SpillEnt} (h : Memory.wf s.mem) :
    Memory.wf (respill s bid wi old).mem := by
  unfold respill
  split
  · refine foldl_wf (fun s i hs => ?_) _ h
    split
    · split
      · exact hs
      · split
        · exact spillWrite_wf hs
        · split <;> (next e => exact spillWrite_wf (wf_snd e (spillRead_wf hs)))
    · exact hs
  · exact h

@[simp] theorem loadMerge_wf {s : State} {bid wi : Nat} {y : DWord} (h : Memory.wf s.mem) : Memory.wf (loadMerge s bid wi y).mem := by
  unfold loadMerge
  split
  · refine foldl_wf (fun s i hs => ?_) _ h
    split
    · split
      · simpa using loadEntry_wf hs
      · exact hs
    · exact hs
  · exact h

@[simp] theorem completeAll_wf {bid wi : Nat} : ∀ {n : Nat} {s : State}, Memory.wf s.mem → Memory.wf (completeAll n bid wi s).mem
  | 0, _, h => h
  | n + 1, s, h => by
    unfold completeAll
    split
    · exact h
    · split
      · exact h
      · refine completeAll_wf ?_
        rw [State.updWarp_mem]
        split <;> simp [h]

@[simp] theorem fillSlot_wf {s : State} {bid wi k : Nat} (h : Memory.wf s.mem) : Memory.wf (fillSlot s bid wi k).mem := by
  unfold fillSlot
  dsimp only
  repeat' split
  all_goals simp [h]

@[simp] theorem settle_wf {s : State} {bid wi : Nat} {old : List SpillEnt} (h : Memory.wf s.mem) : Memory.wf (settle s bid wi old).mem := by
  have h1 := respill_wf (bid := bid) (wi := wi) (old := old) h
  unfold settle
  dsimp only
  split
  · exact h1
  · rw [State.undefL_mem]
    exact fillSlot_wf (fillSlot_wf (respill_wf (completeAll_wf h1)))

@[simp] theorem endLanes_wf {s : State} {bid wi : Nat} {m : Word} (h : Memory.wf s.mem) : Memory.wf (endLanes s bid wi m).mem := by
  unfold endLanes
  dsimp only
  repeat' split
  all_goals simp [h]

@[simp] theorem withSpill_wf {c : Ctx} {lo n : Nat} {s : State} {k : State → Res} (hk : ∀ t, Memory.wf t.mem → ResWf (k t))
    (h : Memory.wf s.mem) : ResWf (withSpill c lo n s k) := by
  unfold withSpill
  split
  · next e => exact hk _ (wf_snd e (spillFaults_wf h))
  · dsimp only
    split
    · exact fun t ht => sendRecord_wf ht
    · trivial

@[simp] theorem branchEff_wf {t : Word} {b y : DWord} {c : Ctx} {s : State} (h : Memory.wf s.mem) : ResWf (branchEff t b y c s) := by
  unfold branchEff
  dsimp only
  split
  · exact h
  · split
    · exact h
    · split
      · trivial
      · split
        · exact h
        · exact withSpill_wf (fun t ht => by simpa using respill_wf (by simpa using ht)) h

@[simp] theorem joinEff_wf {c : Ctx} {s : State} (h : Memory.wf s.mem) : ResWf (joinEff c s) := by
  unfold joinEff
  dsimp only
  split
  · exact h
  · split
    · exact h
    · exact withSpill_wf (fun t ht => settle_wf (by simpa using loadMerge_wf ht)) h

@[simp] theorem exitEff_wf {c : Ctx} {s : State} (h : Memory.wf s.mem) : ResWf (exitEff c s) := by
  unfold exitEff
  split
  · exact withSpill_wf (fun t ht => endLanes_wf ht) h
  · split
    · trivial
    · exact endLanes_wf h

@[simp] theorem spillUsable_wf {s : State} {b : Block} {wi : Nat} {w : Warp} {slot : Nat} (h : Memory.wf s.mem) :
    Memory.wf (spillUsable s b wi w slot).2.mem := by
  unfold spillUsable
  split
  · next e => exact wf_snd e (spillFaults_wf h)
  · next e =>
    have h1 := wf_snd e (spillFaults_wf h)
    split
    · exact h1
    · split <;> simp [h1]

@[simp] theorem swapPath_wf {s : State} {bid wi k : Nat} (h : Memory.wf s.mem) : Memory.wf (swapPath s bid wi k).mem := by
  unfold swapPath
  split
  · split
    · split
      · dsimp only
        split
        · rw [State.undefL_mem]
          exact respill_wf (by simpa using takenPath_wf (spillUsable_wf h))
        · exact spillUsable_wf h
      · exact h
    · exact h
  · exact h

@[simp] theorem parkPath_wf {s : State} {bid wi : Nat} (h : Memory.wf s.mem) : Memory.wf (parkPath s bid wi).mem := by
  unfold parkPath
  repeat' split
  all_goals simp [h]

@[simp] theorem rotatePath_wf {s : State} {bid wi : Nat} (h : Memory.wf s.mem) : Memory.wf (rotatePath s bid wi).mem := by
  unfold rotatePath
  dsimp only
  repeat' split
  all_goals simp [h]

/-! ### Machine/ControlOps -/

@[simp] theorem braUniform_wf {i : Instr} {role : Role} {test : Ctx → Bool} {f : FmtB} {s : State} (h : Memory.wf s.mem) :
    OutWf (braUniform i role test f s) :=
  issue_wf (fun c s hs => by split <;> exact hs) h

@[simp] theorem callTo_wf {c : Ctx} {t : DWord} {s : State} (h : Memory.wf s.mem) : ResWf (callTo c t s) := by simp [callTo, h]

@[simp] theorem loopEff_wf {f : FmtB} {c : Ctx} {s : State} (h : Memory.wf s.mem) : ResWf (loopEff f c s) := by
  unfold loopEff
  dsimp only
  split <;> simp [h]

@[simp] theorem lcmovIssue_wf {i : Instr} {f : FmtA} {s : State} (h : Memory.wf s.mem) : OutWf (lcmovIssue i f s) :=
  issue_wf (fun _ _ hs => by split <;> simp [hs]) h

@[simp] theorem yieldEff_wf {c : Ctx} {s : State} (h : Memory.wf s.mem) : ResWf (yieldEff c s) := h

@[simp] theorem sleepEff_wf {f : FmtB} {c : Ctx} {s : State} (h : Memory.wf s.mem) : ResWf (sleepEff f c s) := by
  unfold sleepEff
  dsimp only
  split <;> simp [h]

@[simp] theorem pblkIssue_wf {i : Instr} {f : FPblk} {s : State} (h : Memory.wf s.mem) : OutWf (pblkIssue i f s) :=
  issue_wf (fun _ _ hs => by simp [hs]) h

@[simp] theorem ordpIssue_wf {i : Instr} {f : FOrdp} {s : State} (h : Memory.wf s.mem) : OutWf (ordpIssue i f s) :=
  issue_wf (fun _ _ hs => by simp [hs]) h

@[simp] theorem setIssue_wf {i : Instr} {sh : Shape} {eff : Ctx → State → State} {s : State}
    (heff : ∀ c s, Memory.wf s.mem → Memory.wf (eff c s).mem) (h : Memory.wf s.mem) : OutWf (setIssue i sh eff s) :=
  issue_wf heff h

@[simp] theorem alikeIssue_wf {i : Instr} {f : FmtA} {s : State} (h : Memory.wf s.mem) : OutWf (alikeIssue i f s) :=
  setIssue_wf (fun _ _ hs => by
    dsimp only
    repeat' split
    all_goals simp [hs]) h

@[simp] theorem setTruth_mem (f : FmtA) (v : Ctx → Bool) (c : Ctx) (s : State) : (setTruth f v c s).mem = s.mem := by
  unfold setTruth
  split <;> simp

@[simp] theorem lfirstIssue_wf {i : Instr} {f : FmtA} {s : State} (h : Memory.wf s.mem) : OutWf (lfirstIssue i f s) :=
  setIssue_wf (fun _ _ hs => by split <;> simp [hs]) h

@[simp] theorem redIssue_wf {i : Instr} {scan : Bool} {f : FmtA} {s : State} (h : Memory.wf s.mem) : OutWf (redIssue i scan f s) := by
  unfold redIssue
  split
  · exact issue_wf (fun _ _ => noEff_wf) h
  · exact issue_wf (fun _ _ hs => by dsimp only; split <;> simp [hs]) h

/-! ### Machine/TensorOps -/

@[simp] theorem enqueue_wf {c : Ctx} {kops : List Word} {pair : List DWord} {tag : Nat} {locks : Nat → List RLock} {room : Bool}
    {after : Nat → State → State} {s : State} (ha : ∀ op t, Memory.wf t.mem → Memory.wf (after op t).mem) (h : Memory.wf s.mem) :
    ResWf (enqueue c kops pair tag locks room after s) := by
  unfold enqueue
  dsimp only
  split
  · trivial
  · split
    · trivial
    · split
      · trivial
      · exact ha _ _ h

@[simp] theorem mrowIssue_wf {i : Instr} {f : FmtA} {s : State} (h : Memory.wf s.mem) : OutWf (mrowIssue i f s) :=
  issue_wf (fun _ _ hs => by
    split
    · exact enqueue_wf (fun _ _ ht => ht) hs
    · exact enqueue_wf (fun _ _ ht => by simpa using ht) hs) h

@[simp] theorem mwaitEff_wf {f : FmtB} {c : Ctx} {s : State} (h : Memory.wf s.mem) : ResWf (mwaitEff f c s) := by
  unfold mwaitEff
  dsimp only
  repeat' split
  all_goals simp [h]

@[simp] theorem submit_mem (c : Ctx) (cmd : EngCmd) (s : State) : (submit c cmd s).mem = s.mem := (rfl)

@[simp] theorem engIssue_wf {i : Instr} {kind : Nat} {f : FmtA} {s : State} (h : Memory.wf s.mem) : OutWf (engIssue i kind f s) :=
  issue_wf (fun c s hs => by
    dsimp only
    repeat' split
    all_goals simp [hs]) h

@[simp] theorem ewaitEff_wf {f : FmtB} {c : Ctx} {s : State} (h : Memory.wf s.mem) : ResWf (ewaitEff f c s) := by
  unfold ewaitEff
  dsimp only
  repeat' split
  all_goals simp [h]

/-! ### Machine/Respond -/

@[simp] theorem deliver_mem (s : State) (tag : Nat) (lanes : Word) (f : Nat → BitVec 128) : (deliver s tag lanes f).mem = s.mem := by
  unfold deliver
  dsimp only
  repeat' split
  all_goals simp

@[simp] theorem deliverUndef_mem (s : State) (tag : Nat) (m : Word) : (deliverUndef s tag m).mem = s.mem := by
  unfold deliverUndef
  split <;> simp

@[simp] theorem waitvEnd_mem (s : State) (p : Pend) (met : Bool) : (waitvEnd s p met).mem = s.mem := by
  unfold waitvEnd
  repeat' split
  all_goals simp

@[simp] theorem waitvTry_mem (s : State) (tag : Nat) : (waitvTry s tag).mem = s.mem := by
  unfold waitvTry
  dsimp only
  repeat' split
  all_goals simp

@[simp] theorem waitvPoll_mem (s : State) (tag : Nat) : (waitvPoll s tag).mem = s.mem := by
  unfold waitvPoll
  dsimp only
  repeat' split
  all_goals simp

@[simp] theorem barrierArrive_mem (s : State) (r : Req) (p : Pend) : (barrierArrive s r p).mem = s.mem := by
  unfold barrierArrive
  dsimp only
  repeat' split
  all_goals simp

@[simp] theorem resolveArrive_mem (s : State) (r : Req) (p : Pend) : (resolveArrive s r p).mem = s.mem := by
  unfold resolveArrive
  dsimp only
  rw [deliver_mem, foldl_mem fun _ _ => State.addReq_mem _ _]

@[simp] theorem hcmpArrive_mem (s : State) (r : Req) (p : Pend) : (hcmpArrive s r p).mem = s.mem := by
  unfold hcmpArrive
  dsimp only
  repeat' split
  all_goals simp

@[simp] theorem pinArrive_mem (s : State) (r : Req) (p : Pend) (bias : Bool) : (pinArrive s r p bias).mem = s.mem := by simp [pinArrive]

@[simp] theorem answerL1_mem (s : State) (r : Req) : (answerL1 s r).mem = s.mem := by
  unfold answerL1
  repeat' split
  all_goals simp

@[simp] theorem entryDone_mem (s : State) (r : Req) : (entryDone s r).mem = s.mem := by
  unfold entryDone
  repeat' split
  all_goals simp

@[simp] theorem respond_mem (s : State) (r : Req) : (respond s r).mem = s.mem := by
  unfold respond
  dsimp only
  repeat' split
  all_goals simp

@[simp] theorem ackArrive_mem (s : State) (r : Req) : (ackArrive s r).mem = s.mem := by simp [ackArrive]

@[simp] theorem faultArrive_mem (s : State) (r : Req) (code : BitVec 8) (kind : Nat) : (faultArrive s r code kind).mem = s.mem := by
  unfold faultArrive
  dsimp only
  rw [entryDone_mem]
  generalize hs : List.foldl _ (s.dropReq r.id) _ = s1
  have h1 : s1.mem = s.mem := by
    rw [← hs, foldl_mem fun t x => ?_, State.dropReq_mem]
    split <;> simp
  split
  · split <;> simp [h1]
  · exact h1

@[simp] theorem takeDeferred_mem (s : State) (bid wi : Nat) (d : Deferred) : (takeDeferred s bid wi d).mem = s.mem := (rfl)

@[simp] theorem deliverDeferred_mem (s : State) (bid : Nat) (wi : Nat) : (deliverDeferred s bid wi).mem = s.mem := by
  unfold deliverDeferred
  dsimp only
  generalize hs : List.foldl _ s _ = s1
  have h1 : s1.mem = s.mem := by
    rw [← hs, foldl_mem fun t x => ?_]
    split <;> simp
  split
  · split
    · exact h1
    · split
      · split <;> simp [h1]
      · split <;> simp [h1]
  · exact h1

@[simp] theorem logFaults_wf {s : State} {tag : Nat} (h : Memory.wf s.mem) : Memory.wf (logFaults s tag).mem := by
  unfold logFaults
  split
  · exact h
  · split
    · dsimp only
      split
      · exact foldl_wf (fun t r ht => by simpa using ht) _ h
      · split
        · split <;> simpa using h
        · generalize hp : List.foldl _ (([] : List (Nat × BitVec 8)), _) _ = p
          have h1 : Memory.wf p.2.mem := by
            rw [← hp]
            refine foldl_snd_wf ?_ _ ?_
            · exact fun acc e ha => sendRecord_wf ha
            · exact h
          split <;> split <;> simpa using h1
    · exact h

@[simp] theorem replayEntry_mem (s : State) (bid : Nat) (wi : Nat) (i : Nat) : (replayEntry s bid wi i).mem = s.mem := by
  unfold replayEntry
  dsimp only
  split
  · split
    · rfl
    · split
      · rfl
      · split
        · rw [raiseDeferred_mem]
          split
          · split <;> simp [apply_ite State.mem]
          · simp [apply_ite State.mem]
        · split
          · simp
          · split
            · simp
            · split
              · simp
              · rw [foldl_mem fun t l => ?_, State.updWarp_mem]
                split <;> simp
  · rfl

/-! ### Machine/Array -/

@[simp] theorem unitPlace_wf {s : State} {u : UWho} {va : DWord} {n : Nat} {acc : Access} {adds fadd : Bool} (h : Memory.wf s.mem) :
    Memory.wf (unitPlace s u va n acc adds fadd).2.mem := by
  unfold unitPlace
  dsimp only
  split
  · exact h
  · split
    · next e => exact wf_snd e (translate_wf h)
    · next e =>
      have h1 := wf_snd e (translate_wf h)
      repeat' split
      all_goals simpa using h1

@[simp] theorem unitPlaces_wf {s : State} {u : UWho} {va : DWord} {n : Nat} {acc : Access} {adds fadd : Bool} (h : Memory.wf s.mem) :
    Memory.wf (unitPlaces s u va n acc adds fadd).2.mem := by
  unfold unitPlaces
  refine foldl_snd_wf (fun p i hp => ?_) _ h
  split
  · exact hp
  · split <;> (next e => exact wf_snd e (unitPlace_wf hp))

@[simp] theorem countLines_wf {s : State} {ck a n : Nat} (h : Memory.wf s.mem) : Memory.wf (countLines s ck a n).mem := by
  unfold countLines
  split
  · exact h
  · exact foldl_wf (fun _ _ => countHot_wf) _ h

@[simp] theorem unitBytes_wf {s : State} {ck a n : Nat} (h : Memory.wf s.mem) : Memory.wf (unitBytes s ck a n).2.mem := by
  unfold unitBytes
  refine foldl_snd_wf (fun p pl hp => ?_) _ h
  dsimp only
  split
  · exact hp
  · exact State.unitRead_wf (countHot_wf hp)

@[simp] theorem unitFetch_wf {s : State} {u : UWho} {va : DWord} {n : Nat} (h : Memory.wf s.mem) :
    Memory.wf (unitFetch s u va n).2.mem := by
  unfold unitFetch
  split
  · repeat' split
    all_goals exact h
  · split
    · next e => exact wf_snd e (unitPlaces_wf h)
    · next e =>
      refine foldl_snd_wf (fun acc p ha => ?_) _ (wf_snd e (unitPlaces_wf h))
      dsimp only
      split
      · exact ha
      · exact unitBytes_wf ha

@[simp] theorem unitPut_wf {s : State} {a : Nat} {bs : List Byte} (h : Memory.wf s.mem) : Memory.wf (unitPut s a bs).mem := by
  unfold unitPut
  split
  · exact memWrite_wf bs s.mem a h
  · exact State.unitWrite_wf h

@[simp] theorem unitDeposit_wf {s : State} {u : UWho} {va : DWord} {bs : List Byte} (h : Memory.wf s.mem) :
    Memory.wf (unitDeposit s u va bs).2.mem := by
  unfold unitDeposit
  split
  · repeat' split
    all_goals simpa using h
  · split
    · next e => exact wf_snd e (unitPlaces_wf h)
    · next e => exact foldl_wf (fun _ _ ha => unitPut_wf (countLines_wf ha)) _ (wf_snd e (unitPlaces_wf h))

@[simp] theorem State.updMat_mem (s : State) (ck : Nat) (m m' : MatOp) : (State.updMat s ck m m').mem = s.mem := (rfl)

@[simp] theorem State.dropMat_mem (s : State) (ck : Nat) (m : MatOp) : (State.dropMat s ck m).mem = s.mem := (rfl)

@[simp] theorem matDone_mem (s : State) (ck : Nat) (m : MatOp) : (matDone s ck m).mem = s.mem := (rfl)

@[simp] theorem matAbandon_mem (s : State) (ck : Nat) (m : MatOp) (code : BitVec 8) (va : DWord) :
    (matAbandon s ck m code va).mem = s.mem := by simp [matAbandon]

@[simp] theorem matLog_wf {s : State} {ck : Nat} {m : MatOp} {code : BitVec 8} {va : DWord} (h : Memory.wf s.mem) :
    Memory.wf (matLog s ck m code va).mem := by
  unfold matLog
  dsimp only
  repeat' split
  all_goals simp [h]

@[simp] theorem matStop_wf {s : State} {ck : Nat} {m : MatOp} {row : DWord} {x1 : UAns} (h : Memory.wf s.mem) :
    Memory.wf (matStop s ck m row x1).mem := by
  unfold matStop
  split <;> simp [h]

@[simp] theorem readCols_wf {s : State} {u : UWho} {va : DWord} {stride n : Nat} (h : Memory.wf s.mem) :
    Memory.wf (readCols s u va stride n).2.mem := by
  unfold readCols
  refine foldl_snd_wf (fun p i hp => ?_) _ h
  split
  · exact hp
  · dsimp only
    split <;> (next e => exact wf_snd e (unitFetch_wf hp))

@[simp] theorem mmaTurn_wf {s : State} {ck : Nat} {m : MatOp} {f : FmtA} (h : Memory.wf s.mem) : Memory.wf (mmaTurn s ck m f).mem := by
  unfold mmaTurn
  dsimp only
  split
  · split
    · next e => simpa using wf_snd e (readCols_wf h)
    · next e => exact matStop_wf (wf_snd e (readCols_wf h))
  · split
    · next e =>
      have h1 := wf_snd e (unitFetch_wf h)
      split <;> simpa using h1
    · next e => exact matStop_wf (wf_snd e (unitFetch_wf h))

@[simp] theorem mloadTurn_wf {s : State} {ck : Nat} {m : MatOp} {f : FmtA} (h : Memory.wf s.mem) : Memory.wf (mloadTurn s ck m f).mem := by
  unfold mloadTurn
  dsimp only
  split
  · next e =>
    have h1 := wf_snd e (unitFetch_wf h)
    split <;> simpa using h1
  · next e => exact matStop_wf (wf_snd e (unitFetch_wf h))

@[simp] theorem mrowTurn_mem (s : State) (ck : Nat) (m : MatOp) (f : FmtA) : (mrowTurn s ck m f).mem = s.mem := by
  unfold mrowTurn
  split <;> simp

@[simp] theorem mdrainTurn_mem (s : State) (ck : Nat) (m : MatOp) (f : FmtA) : (mdrainTurn s ck m f).mem = s.mem := (rfl)

@[simp] theorem matTurn_wf {s : State} {ck : Nat} (h : Memory.wf s.mem) : Memory.wf (matTurn s ck).mem := by
  unfold matTurn
  repeat' split
  all_goals simp [h]

@[simp] theorem countWork_mem (s : State) (ck duty : Nat) (old new : List MatOp) : (countWork s ck duty old new).mem = s.mem := by
  simp [countWork, apply_ite State.mem]

@[simp] theorem workCore_mem (s : State) (ck duty : Nat) : (workCore s ck duty).mem = s.mem := by
  unfold workCore
  repeat' split
  all_goals simp

@[simp] theorem finishWork_mem (s : State) (ck : Nat) : (finishWork s ck).mem = s.mem := by simp [finishWork, apply_ite State.mem]

@[simp] theorem safelightStep_mem (s : State) : (safelightStep s).mem = s.mem := by
  unfold safelightStep
  dsimp only
  rw [foldl_mem fun _ _ => State.updBay_mem _ _ _, foldl_mem fun _ _ => finishWork_mem _ _,
    foldl_mem fun _ _ => foldl_mem (fun _ _ => workCore_mem _ _ _) _ _]

/-! ### Machine/Launch -/

@[simp] theorem dispPlace_wf {s : State} {w : Nat} {world : Bool} {va : DWord} {n : Nat} {acc : Access} (h : Memory.wf s.mem) :
    Memory.wf (dispPlace s w world va n acc).2.mem := by
  unfold dispPlace
  dsimp only
  split
  · exact h
  · split
    · exact h
    · split
      · next e => exact wf_snd e (translate_wf h)
      · next e =>
        have h1 := wf_snd e (translate_wf h)
        repeat' split
        all_goals exact h1

@[simp] theorem dispPlaces_wf {s : State} {w : Nat} {world : Bool} {va : DWord} {n : Nat} {acc : Access} (h : Memory.wf s.mem) :
    Memory.wf (dispPlaces s w world va n acc).2.mem := by
  unfold dispPlaces
  refine foldl_snd_wf (fun p i hp => ?_) _ h
  split
  · exact hp
  · split <;> (next e => exact wf_snd e (dispPlace_wf hp))

@[simp] theorem placeRead_wf {s : State} {a n : Nat} (h : Memory.wf s.mem) : Memory.wf (placeRead s a n).2.mem := by
  unfold placeRead
  split <;> simp [h]

@[simp] theorem dispRead_wf {s : State} {w : Nat} {world : Bool} {va : DWord} {n : Nat} (h : Memory.wf s.mem) :
    Memory.wf (dispRead s w world va n).2.mem := by
  unfold dispRead
  split
  · next e => exact wf_snd e (dispPlaces_wf h)
  · next e =>
    refine foldl_snd_wf ?_ _ (wf_snd e (dispPlaces_wf h))
    exact fun _ _ ha => placeRead_wf ha

@[simp] theorem rangeEntry_mem (s : State) (es : List Nat) (i : Nat) : (rangeEntry s es i).2.mem = s.mem := by
  unfold rangeEntry
  dsimp only
  repeat' split
  all_goals simp

@[simp] theorem hintRead_wf {s : State} {w : Nat} {g : Grid} {va : DWord} {n : Nat} (h : Memory.wf s.mem) :
    Memory.wf (hintRead s w g va n).2.mem := by
  unfold hintRead
  dsimp only
  split
  · exact h
  · split
    · exact h
    · split <;> (next e => have h1 := wf_snd e (dispRead_wf h); simp [h1])

@[simp] theorem hintOf_wf {s : State} {w : Nat} {g : Grid} {i : Nat} (h : Memory.wf s.mem) : Memory.wf (hintOf s w g i).2.mem := by
  unfold hintOf
  dsimp only
  split
  · split <;> (next e => rw [mem_snd e (rangeEntry_mem _ _ _)]; exact h)
  · split
    · next e =>
      have h1 := wf_snd e (hintRead_wf h)
      split <;> (next e => rw [mem_snd e (rangeEntry_mem _ _ _)]; exact h1)
    · next e => exact wf_snd e (hintRead_wf h)
  · split <;> (next e => exact wf_snd e (hintRead_wf h))
  · exact h

@[simp] theorem updDeals_mem (s : State) (lvl key : Nat) (f : List Dealing → List Dealing) : (updDeals s lvl key f).mem = s.mem := by
  unfold updDeals
  split <;> simp

@[simp] theorem sendVerdict_mem (s : State) (l : Launch) (gid : Nat) : (sendVerdict s l gid).mem = s.mem := by
  unfold sendVerdict
  split <;> simp

@[simp] theorem dispWrite_wf {s : State} {g : Grid} {va : DWord} {bs : List Byte} (h : Memory.wf s.mem) :
    Memory.wf (dispWrite s g va bs).2.mem := by
  unfold dispWrite
  dsimp only
  split
  · next e => exact foldl_wf (fun _ _ => unitPut_wf) _ (wf_snd e (dispPlaces_wf h))
  · next e => exact wf_snd e (dispPlaces_wf h)
  · next e => exact wf_snd e (dispPlaces_wf h)
  · next e => simpa using sendRecord_wf (wf_snd e (dispPlaces_wf h))

@[simp] theorem completeFrom_wf : ∀ {fuel : Nat} {s : State} {gid : Nat}, Memory.wf s.mem → Memory.wf (completeFrom fuel s gid).mem
  | 0, _, _, h => h
  | fuel + 1, s, gid, h => by
    have go {t : State} {k : Nat} (ht : Memory.wf t.mem) :
        Memory.wf (completeFrom fuel (t.updGrid gid (fun g => { g with compPart := k })) gid).mem :=
      completeFrom_wf ht
    have hd {g va bs o t} (e : dispWrite s g va bs = (o, t)) : Memory.wf t.mem := wf_snd e (dispWrite_wf h)
    unfold completeFrom
    split
    · exact h
    · dsimp only
      split
      · exact h
      · split
        · split
          · exact go h
          · split
            · next e => exact hd e
            · next e => exact go (hd e)
        · split
          · next e => exact hd e
          · next e => exact go (hd e)
          · next e => simpa using hd e
        · split <;> (next e => simpa using hd e)
        · exact h

@[simp] theorem complete_wf {s : State} {gid : Nat} (h : Memory.wf s.mem) : Memory.wf (complete s gid).mem := by simp [complete, h]

@[simp] theorem rejectLaunch_wf {s : State} {l : Launch} {r : LaunchRec} {root : Nat × Nat} (h : Memory.wf s.mem) :
    Memory.wf (rejectLaunch s l r root).mem := by
  unfold rejectLaunch
  split <;> simp [h]

@[simp] theorem acceptLaunch_mem (s : State) (l : Launch) (r : LaunchRec) (root : Nat × Nat) :
    (acceptLaunch s l r root).mem = s.mem := by simp [acceptLaunch]

@[simp] theorem launchAtRoot_wf {s : State} {id : Nat} (h : Memory.wf s.mem) : Memory.wf (launchAtRoot s id).mem := by
  unfold launchAtRoot
  dsimp only
  repeat' split
  all_goals simp [h]

@[simp] theorem launchReply_mem (s : State) (id : Nat) : (launchReply s id).mem = s.mem := by
  unfold launchReply
  dsimp only
  repeat' split
  all_goals simp

@[simp] theorem setDeal_mem (s : State) (lvl key : Nat) (d : Dealing) : (setDeal s lvl key d).mem = s.mem := by simp [setDeal]

@[simp] theorem endDeal_mem (s : State) (lvl key gid : Nat) : (endDeal s lvl key gid).mem = s.mem := by simp [endDeal]

@[simp] theorem State.updPergola_mem (s : State) (gid w : Nat) (f : GridCnt → GridCnt) : (State.updPergola s gid w f).mem = s.mem := (rfl)

@[simp] theorem toPergola_mem (s : State) (g : Grid) (w i lo hi : Nat) (dom : Option Nat) :
    (toPergola s g w i lo hi dom).mem = s.mem := by
  unfold toPergola
  dsimp only
  split <;> simp

@[simp] theorem closePergolas_mem (s : State) (gid : Nat) : (closePergolas s gid).mem = s.mem := (rfl)

@[simp] theorem pavilionDeal_wf {s : State} {w : Nat} (h : Memory.wf s.mem) : Memory.wf (pavilionDeal s w).mem := by
  unfold pavilionDeal
  split
  · exact h
  · split
    · exact h
    · split
      · simpa using h
      · split
        · next e => exact wf_snd e (hintOf_wf h)
        · next e =>
          have h1 := wf_snd e (hintOf_wf h)
          dsimp only
          repeat' split
          all_goals simpa using h1

@[simp] theorem sendUnit_mem (s : State) (w gid i target d q : Nat) (save : Option Nat) :
    (sendUnit s w gid i target d q save).mem = s.mem := (rfl)

@[simp] theorem pergolaPlace_wf {s : State} {w : Nat} (h : Memory.wf s.mem) : Memory.wf (pergolaPlace s w).mem := by
  unfold pergolaPlace
  split
  · exact h
  · split
    · exact h
    · split
      · simpa using h
      · dsimp only
        split
        · split
          · exact h
          · split <;> simpa using h
        · split
          · next e => exact wf_snd e (hintOf_wf h)
          · next e =>
            have h1 := wf_snd e (hintOf_wf h)
            split <;> simpa using h1

@[simp] theorem publishArrive_mem (s : State) (w : Nat) : (publishArrive s w).mem = s.mem := by
  unfold publishArrive
  repeat' split
  all_goals simp

@[simp] theorem publish_mem (s0 : State) (dk : Nat) (s1 : State) : (publish s0 dk s1).mem = s1.mem := by
  unfold publish
  split <;> simp

/-! ### Machine/MemEvents -/

@[simp] theorem reqTurn_wf {f : State → Req → Option State} {s : State} {id : Nat} (hf : ∀ r, OptWf (f s r)) (h : Memory.wf s.mem) :
    Memory.wf (reqTurn f s id).mem := by
  unfold reqTurn
  split
  · exact optWf_getD (hf _) h
  · exact h

@[simp] theorem msgTurn_wf {due : State → Msg → Bool} {f : State → Msg → State} {s : State} {id : Nat}
    (hf : ∀ m, Memory.wf (f s m).mem) (h : Memory.wf s.mem) : Memory.wf (msgTurn due f s id).mem := by
  unfold msgTurn
  split
  · split
    · exact hf _
    · exact h
  · exact h

@[simp] theorem translateTurn_wf {s : State} {r : Req} (h : Memory.wf s.mem) : OptWf (translateTurn s r) := by
  unfold translateTurn
  split <;> simp [h]

@[simp] theorem setHalf_mem (s : State) (w half st : Nat) : (setHalf s w half st).mem = s.mem := (rfl)

@[simp] theorem snoopMet_mem (s : State) (w half : Nat) : (snoopMet s w half).mem = s.mem := (rfl)

@[simp] theorem hostRead_wf {s : State} {w half : Nat} {own : Bool} (h : Memory.wf s.mem) : Memory.wf (hostRead s w half own).mem := by
  unfold hostRead
  dsimp only
  repeat' split
  all_goals simp [h]

@[simp] theorem hostBack_wf {s : State} {w half : Nat} {bs : List Byte} {keep : Bool} (h : Memory.wf s.mem) :
    Memory.wf (hostBack s w half bs keep).mem := by
  unfold hostBack
  repeat' split
  all_goals simp [h]

@[simp] theorem snoopAnswer_wf {s : State} {w half : Nat} {bs : List Byte} (h : Memory.wf s.mem) :
    Memory.wf (snoopAnswer s w half bs).mem := by
  unfold snoopAnswer
  dsimp only
  repeat' split
  all_goals simp [h]

@[simp] theorem parityDrop_mem (s : State) (dk pl : Nat) : (parityDrop s dk pl).mem = s.mem := (rfl)

@[simp] theorem dropCopy_wf {s : State} {dk pl : Nat} (h : Memory.wf s.mem) : Memory.wf (dropCopy s dk pl).mem := by
  unfold dropCopy
  repeat' split
  all_goals simp [h]

@[simp] theorem softError_wf {s : State} {dk sector kind : Nat} (h : Memory.wf s.mem) : Memory.wf (softError s dk sector kind).mem := by
  unfold softError
  dsimp only
  split
  · simpa using h
  · split <;> simpa using h
  · simpa using h
  · split <;> simpa using dropCopy_wf h
  · simpa using h
  · rw [foldl_mem fun t i => by split <;> rfl]
    exact recallLine_wf (by simpa using h)
  · simpa using h
  · simpa using h
  · split
    · split <;> simpa using h
    · exact h
  · exact h

@[simp] theorem dirLookup_mem (s : State) (dk : Nat) (v : Word) : (dirLookup s dk v).mem = s.mem := by
  unfold dirLookup
  split <;> simp

@[simp] theorem dirLookupDone_mem (s : State) (dk : Nat) : (dirLookupDone s dk).mem = s.mem := by
  unfold dirLookupDone
  split <;> simp

@[simp] theorem splitStart_mem (s : State) (dk : Nat) (v : Word) : (splitStart s dk v).mem = s.mem := by
  unfold splitStart
  dsimp only
  split <;> simp

@[simp] theorem splitEnd_wf {s : State} {dk : Nat} (h : Memory.wf s.mem) : Memory.wf (splitEnd s dk).mem := by
  unfold splitEnd
  split
  · exact h
  · split
    · exact h
    · rw [State.updDomain_mem]
      exact foldl_wf (fun _ _ => dropCopy_wf) _ h

@[simp] theorem clearCounters_mem (s : State) (dk : Nat) (v : Word) : (clearCounters s dk v).mem = s.mem := (rfl)

/-! ### Machine/Links -/

@[simp] theorem topoGen_wf {s : State} {w : Nat} (h : Memory.wf s.mem) : Memory.wf (topoGen s w).mem := by simp [topoGen, h]

@[simp] theorem topoWrite_wf {s : State} {w off : Nat} {bs : List Byte} (h : Memory.wf s.mem) :
    Memory.wf (topoWrite s w off bs).mem := by simp [topoWrite, h]

@[simp] theorem topoReload_wf {s : State} {w : Nat} (h : Memory.wf s.mem) : Memory.wf (topoReload s w).mem := by
  unfold topoReload
  dsimp only
  rw [State.updWafer_mem, foldl_mem fun _ _ => State.updDomain_mem _ _ _]
  exact State.unitRead_wf h

@[simp] theorem capWrite_wf {s : State} {w id off : Nat} {bs : List Byte} (h : Memory.wf s.mem) :
    Memory.wf (capWrite s w id off bs).mem := by
  unfold capWrite
  split <;> simp [h]

@[simp] theorem writeState_wf {s : State} {w : Nat} (h : Memory.wf s.mem) : Memory.wf (writeState s w).mem := by simp [writeState, h]

@[simp] theorem writeClock_wf {s : State} {w : Nat} (h : Memory.wf s.mem) : Memory.wf (writeClock s w).mem := by simp [writeClock, h]

@[simp] theorem writeLinks_wf {s0 : State} {w : Nat} {s1 : State} (h : Memory.wf s1.mem) : Memory.wf (writeLinks s0 w s1).mem := by
  unfold writeLinks
  split <;> simp [h]

@[simp] theorem State.updLink_mem (s : State) (w n : Nat) (f : PodLink → PodLink) : (State.updLink s w n f).mem = s.mem := (rfl)

@[simp] theorem reissueOne_mem (s1 : State) (w : Nat) (r : Req) : (reissueOne s1 w r).mem = s1.mem := by
  unfold reissueOne
  repeat' split
  all_goals simp

@[simp] theorem reissueAll_mem (s0 s1 : State) (w n : Nat) : (reissueAll s0 s1 w n).mem = s1.mem := by simp [reissueAll]

@[simp] theorem crcError_wf {s : State} {w n : Nat} (h : Memory.wf s.mem) : Memory.wf (crcError s w n).mem := by
  unfold crcError
  dsimp only
  repeat' split
  all_goals simp [h]

@[simp] theorem genStep_wf {s : State} {w : Nat} (h : Memory.wf s.mem) : Memory.wf (genStep s w).mem := by simp [genStep, h]

@[simp] theorem trainLink_wf {s : State} {w n : Nat} {ok : Bool} {peer : Nat} (h : Memory.wf s.mem) :
    Memory.wf (trainLink s w n ok peer).mem := by
  unfold trainLink
  dsimp only
  split <;> simp [h]

@[simp] theorem trainEnd_wf {s : State} {w : Nat} (h : Memory.wf s.mem) : Memory.wf (trainEnd s w).mem := by
  unfold trainEnd
  split
  · exact h
  · exact writeLinks_wf (topoReload_wf (genStep_wf (by simpa using h)))

@[simp] theorem podRequest_wf {s : State} {id : Nat} (h : Memory.wf s.mem) : Memory.wf (podRequest s id).mem := by
  unfold podRequest
  split
  · exact h
  · split
    · exact h
    · next e =>
      have h1 := remoteTurn_wf h _ e
      dsimp only
      split <;> simpa using h1

@[simp] theorem topobaseWrite_wf {s : State} {w : Nat} {v : Word} (h : Memory.wf s.mem) : Memory.wf (topobaseWrite s w v).mem := by
  unfold topobaseWrite
  exact topoReload_wf (by simpa using h)

/-! ### Machine/Migrate -/

@[simp] theorem State.updOp_mem (s : State) (op : Nat) (f : UnitOp → UnitOp) : (State.updOp s op f).mem = s.mem := (rfl)

@[simp] theorem State.dropOp_mem (s : State) (op : Nat) : (State.dropOp s op).mem = s.mem := (rfl)

@[simp] theorem purgeCore_mem (s : State) (u : UnitOp) (ck : Nat) : (purgeCore s u ck).mem = s.mem := (rfl)

@[simp] theorem purgeAck_mem (s : State) (op ck : Nat) : (purgeAck s op ck).mem = s.mem := by
  unfold purgeAck
  repeat' split
  all_goals simp

@[simp] theorem sendPurge_mem (s : State) (u : UnitOp) : (sendPurge s u).mem = s.mem := (rfl)

@[simp] theorem dropTlbRange_mem (s : State) (u : UnitOp) : (dropTlbRange s u).mem = s.mem := by
  unfold dropTlbRange
  split <;> simp

@[simp] theorem writebackLine_wf {w : Nat} {s : State} {pl : Nat} (h : Memory.wf s.mem) : Memory.wf (writebackLine w s pl).mem := by
  unfold writebackLine
  dsimp only
  rw [foldl_mem fun t dk => by split <;> simp]
  refine foldl_wf (fun t i ht => ?_) _ h
  split <;> simp [ht]

@[simp] theorem handHome_wf {s : State} {pa n : Nat} (h : Memory.wf s.mem) : Memory.wf (handHome s pa n).mem :=
  foldl_wf (fun _ _ => writebackLine_wf) _ (foldl_wf (fun _ _ => mergeInFlight_wf) _ h)

@[simp] theorem clearFrame_wf {s : State} {pa n : Nat} (h : Memory.wf s.mem) : Memory.wf (clearFrame s pa n).mem :=
  recallFrame_wf (handHome_wf h)

@[simp] theorem snoopFrame_wf {s : State} {pa n : Nat} (h : Memory.wf s.mem) : OptWf (snoopFrame s pa n) := by
  unfold snoopFrame
  dsimp only
  split <;> simp [h]

@[simp] theorem leavesFrom_wf {dk hi : Nat} : ∀ {fuel off : Nat} {s : State}, Memory.wf s.mem →
    Memory.wf (leavesFrom dk hi fuel off s).2.mem
  | 0, _, _, h => h
  | fuel + 1, off, s, h => by
    unfold leavesFrom
    split
    · exact h
    · split
      · next e => exact wf_snd e (findLeaf_wf h)
      · next e =>
        have h1 := wf_snd e (findLeaf_wf h)
        dsimp only
        split <;> (next e1 => exact wf_snd e1 (leavesFrom_wf h1))

@[simp] theorem leavesOf_wf {s : State} {u : UnitOp} (h : Memory.wf s.mem) : Memory.wf (leavesOf s u).2.mem := by simp [leavesOf, h]

@[simp] theorem classRefusal_wf {s : State} {u : UnitOp} (h : Memory.wf s.mem) : Memory.wf (classRefusal s u).2.mem := by
  unfold classRefusal
  split <;> (next e => exact wf_snd e (leavesOf_wf h))

@[simp] theorem classLeaf_wf {u : UnitOp} {s : State} {x : Nat × Leaf} (h : Memory.wf s.mem) : Memory.wf (classLeaf u s x).mem :=
  clearFrame_wf (State.unitWrite_wf h)

@[simp] theorem giveStatus_mem (s : State) (tag : Option Nat) (n : Nat) : (giveStatus s tag n).mem = s.mem := by
  unfold giveStatus
  split <;> simp

@[simp] theorem freeOwner_wf {s : State} {u : UnitOp} (h : Memory.wf s.mem) : Memory.wf (freeOwner s u).mem := by
  unfold freeOwner
  refine foldl_wf (fun t r ht => ?_) _ h
  dsimp only
  split <;> simp [ht]

@[simp] theorem xlatStep_wf {s : State} {u : UnitOp} (h : Memory.wf s.mem) : OptWf (xlatStep s u) := by
  unfold xlatStep
  repeat' split
  all_goals simp [h]

@[simp] theorem classStep_wf {s0 : State} {u : UnitOp} (h : Memory.wf s0.mem) : OptWf (classStep s0 u) := by
  have hs : Memory.wf (if u.phase < 2 then dropTlbRange s0 u else s0).mem := by split <;> simpa using h
  unfold classStep
  dsimp only
  generalize (if u.phase < 2 then dropTlbRange s0 u else s0) = s at hs
  split
  · split
    · split <;> (next e => simpa using wf_snd e (classRefusal_wf hs))
    · simp
  · split
    · split
      · next e => exact optWf_some.2 (freeOwner_wf (by simpa using wf_snd e (leavesOf_wf hs)))
      · next e =>
        have h1 := wf_snd e (leavesOf_wf hs)
        split
        · next e1 =>
          obtain ⟨x, -, hx⟩ := List.exists_of_findSome?_eq_some e1
          split
          · simp
          · split at hx
            · exact optWf_some.2 (snoopFrame_wf h1 _ hx)
            · cases hx
        · split
          · simp
          · exact optWf_some.2 (by simpa using foldl_wf (fun _ _ => classLeaf_wf) _ h1)
    · simp
  · split
    · exact optWf_some.2 (freeOwner_wf (by simpa using hs))
    · simp

@[simp] theorem forwardHeld_mem (s : State) (dk : Nat) (m : Mig) : (forwardHeld s dk m).mem = s.mem := by
  unfold forwardHeld
  dsimp only
  rw [State.updDomain_mem, foldl_mem fun _ _ => State.updReq_mem _ _ _]

@[simp] theorem moveStep_wf {s : State} {u : UnitOp} (h : Memory.wf s.mem) : OptWf (moveStep s u) := by
  unfold moveStep
  dsimp only
  repeat' split
  all_goals simp [h]

@[simp] theorem unitStep_wf {s : State} {u : UnitOp} (h : Memory.wf s.mem) : OptWf (unitStep s u) := by
  unfold unitStep
  split
  · exact xlatStep_wf h
  · exact classStep_wf h
  · exact moveStep_wf h
  · simpa using h
  · split <;> simp [h]

@[simp] theorem migEnd_mem (s : State) (dk : Nat) (m : Mig) (n : Nat) : (migEnd s dk m n).mem = s.mem := by simp [migEnd]

@[simp] theorem migLock_wf {s : State} {dk : Nat} {m : Mig} {off : Nat} {l : Leaf} (h : Memory.wf s.mem) :
    Memory.wf (migLock s dk m off l).mem := by
  unfold migLock
  simpa only [State.updDomain_mem] using clearFrame_wf h

@[simp] theorem migStart_wf {s : State} {dk : Nat} (h : Memory.wf s.mem) : Memory.wf (migStart s dk).mem := by
  unfold migStart
  split
  · exact h
  · split
    · exact h
    · dsimp only
      split
      · next e => simpa using wf_snd e (findLeaf_wf h)
      · next e =>
        have h1 := wf_snd e (findLeaf_wf h)
        have hEnd {m n} : Memory.wf (migEnd _ dk m n).mem := (migEnd_mem ..).symm ▸ h1
        split
        · exact hEnd
        · split
          · exact hEnd
          · split
            · exact hEnd
            · split
              · exact h1
              · split
                · exact h1
                · split
                  · next e1 => exact snoopFrame_wf h1 _ e1
                  · exact migLock_wf h1

theorem foldl_memSet_wf (f : Host.Cell → Nat) : ∀ (l : List Host.Cell) {m : List Host.Cell}, Memory.wf m →
    Memory.wf (l.foldl (fun m c => memSet m (f c) c.2) m)
  | [], _, h => h
  | c :: l, _, h => foldl_memSet_wf f l (memSet_wf (f c) c.2 h)

@[simp] theorem moveBytes_wf {m : List Host.Cell} {old new n : Nat} (h : Memory.wf m) : Memory.wf (moveBytes m old new n) :=
  foldl_memSet_wf _ _ (filter_wf _ h)

@[simp] theorem migSwitch_wf {s : State} {dk : Nat} (h : Memory.wf s.mem) : Memory.wf (migSwitch s dk).mem := by
  unfold migSwitch
  split
  · exact h
  · dsimp only
    split
    · next e => exact wf_snd e (findLeaf_wf h)
    · next e =>
      have h1 := wf_snd e (findLeaf_wf h)
      simp only [State.updDomain_mem]
      refine hotClear_wf (hotClear_wf (State.unitWrite_wf (State.unitNat_wf ?_)))
      simp [h1]

@[simp] theorem migRelease_wf {s : State} {dk : Nat} (h : Memory.wf s.mem) : Memory.wf (migRelease s dk).mem := by
  unfold migRelease
  repeat' split
  all_goals simp [h]

@[simp] theorem arriveUni_mem (c : Ctx) (kind : PendKind) (d : Dst) (vals : Tab (BitVec 128)) (s : State) :
    (arriveUni c kind d vals s).2.mem = s.mem := (rfl)

@[simp] theorem addOp_mem (s : State) (u : UnitOp) : (addOp s u).mem = s.mem := (rfl)

@[simp] theorem xlatEff_wf {a b : Opd} {c : Ctx} {s : State} (h : Memory.wf s.mem) : ResWf (xlatEff a b c s) := by
  unfold xlatEff
  dsimp only
  repeat' split
  all_goals simp [h]

@[simp] theorem pgmigEff_wf {d a b : Opd} {c : Ctx} {s : State} (h : Memory.wf s.mem) : ResWf (pgmigEff d a b c s) := by
  unfold pgmigEff
  dsimp only
  split <;> simp [h]

@[simp] theorem classEff_wf {d a b x : Opd} {c : Ctx} {s : State} (h : Memory.wf s.mem) : ResWf (classEff d a b x c s) := by
  unfold classEff
  dsimp only
  repeat' split
  all_goals simp [h]

/-! ### Machine/CodeLock -/

@[simp] theorem lockLines_wf {s : State} {ck bid : Nat} {vls : List Nat} {secure priv : Bool} (h : Memory.wf s.mem) :
    Memory.wf (lockLines s ck bid vls secure priv).1.mem := by
  unfold lockLines
  refine foldl_fst_wf ?_ _ h
  exact fun _ _ hp => bringLine_wf hp

@[simp] theorem noteLocked_mem (s : State) (bid : Nat) : (noteLocked s bid).mem = s.mem := by
  unfold noteLocked
  split <;> simp

@[simp] theorem relock_wf {s : State} {bid : Nat} (h : Memory.wf s.mem) : Memory.wf (relock s bid).mem := by
  unfold relock
  split
  · exact h
  · split
    · simpa using h
    · dsimp only
      rw [State.updBlock_mem, noteLocked_mem]
      exact foldl_wf (fun _ _ => lockLines_wf) _ h

/-! ### Machine/Engines -/

@[simp] theorem State.updEng_mem (s : State) (bk eng cmd : Nat) (f : EngCmd → EngCmd) : (State.updEng s bk eng cmd f).mem = s.mem := (rfl)

@[simp] theorem State.dropEng_mem (s : State) (bk eng cmd : Nat) : (State.dropEng s bk eng cmd).mem = s.mem := (rfl)

@[simp] theorem engDone_mem (s : State) (bk eng : Nat) (c : EngCmd) : (engDone s bk eng c).mem = s.mem := (rfl)

@[simp] theorem engAbandon_mem (s : State) (bk eng : Nat) (c : EngCmd) (va : DWord) : (engAbandon s bk eng c va).mem = s.mem := by
  simp [engAbandon]

@[simp] theorem engLog_wf {s : State} {bk eng : Nat} {c : EngCmd} {code : BitVec 8} {va : DWord} (h : Memory.wf s.mem) :
    Memory.wf (engLog s bk eng c code va).mem := by simp [engLog, h]

@[simp] theorem engStop_wf {s : State} {bk eng : Nat} {c : EngCmd} {x1 : UAns} (h : Memory.wf s.mem) :
    Memory.wf (engStop s bk eng c x1).mem := by
  unfold engStop
  split <;> simp [h]

@[simp] theorem engReply_mem (s : State) (bk eng cmd : Nat) (fatal : Bool) : (engReply s bk eng cmd fatal).mem = s.mem := by
  unfold engReply
  repeat' split
  all_goals simp

@[simp] theorem addAt_wf {op : RmwOp} {s : State} {a : Nat} {x : List Byte} (h : Memory.wf s.mem) : Memory.wf (addAt op s a x).mem := by
  unfold addAt
  dsimp only
  split <;> simp [h]

@[simp] theorem engAdd_wf {s : State} {u : UWho} {t : TShape} {va : DWord} {bs : List Byte} (h : Memory.wf s.mem) :
    Memory.wf (engAdd s u t va bs).2.mem := by
  unfold engAdd
  dsimp only
  split
  · split
    · exact h
    · split
      · exact h
      · simpa using h
  · split
    · next e => exact wf_snd e (unitPlaces_wf h)
    · next e =>
      exact foldl_wf (fun _ _ hp => foldl_wf (fun _ _ hq => addAt_wf hq) _ (countLines_wf hp)) _ (wf_snd e (unitPlaces_wf h))

@[simp] theorem engRow_wf {s : State} {c : EngCmd} {i : Nat} (h : Memory.wf s.mem) : Memory.wf (engRow s c i).2.mem := by
  unfold engRow
  dsimp only
  split
  · split
    · split
      · next e => simpa using wf_snd e (unitFetch_wf h)
      · exact unitFetch_wf h
    · simpa using h
  · split
    · exact engAdd_wf h
    · exact unitDeposit_wf h

@[simp] theorem engPaid_mem (s : State) (bk eng : Nat) (c : EngCmd) : (engPaid s bk eng c).mem = s.mem := by
  unfold engPaid
  split <;> simp

@[simp] theorem engStart_wf {s : State} {bk eng cmd : Nat} (h : Memory.wf s.mem) : Memory.wf (engStart s bk eng cmd).mem := by
  unfold engStart
  split
  · exact h
  · next c _ =>
    have h0 : Memory.wf (if c.state = 0 then s.updEng bk eng cmd (fun c => { c with state := 1 }) else s).mem := by
      split <;> simpa using h
    split
    · dsimp only
      split
      · simpa using h0
      · split
        · next e =>
          have h1 := wf_snd e (engRow_wf h0)
          repeat' split
          all_goals simpa using h1
        · next e => exact engStop_wf (wf_snd e (engRow_wf h0))
    · exact h

@[simp] theorem wordPlace_wf {s : State} {c : EngCmd} {va : DWord} (h : Memory.wf s.mem) : Memory.wf (wordPlace s c va).2.mem := by
  unfold wordPlace
  split
  · next e =>
    have h1 := wf_snd e (unitPlace_wf h)
    split
    · next e1 =>
      have h2 := wf_snd e1 (translate_wf h1)
      split <;> exact h2
    · next e1 => exact wf_snd e1 (translate_wf h1)
  · exact unitPlace_wf h

@[simp] theorem engComplete_wf {s : State} {bk eng cmd : Nat} (h : Memory.wf s.mem) : Memory.wf (engComplete s bk eng cmd).mem := by
  unfold engComplete
  split
  · exact h
  · split
    · exact h
    · split
      · dsimp only
        split
        · next e => exact wf_snd e (wordPlace_wf h)
        · next e => simpa using wf_snd e (wordPlace_wf h)
        · next e => simpa using unitPut_wf (wf_snd e (wordPlace_wf h))
      · exact h

/-! ### Machine/Save -/

@[simp] theorem reserveRec_mem (s : State) (dk n : Nat) : (reserveRec s dk n).2.mem = s.mem := by
  unfold reserveRec
  split <;> simp

theorem reserveAll_mem : ∀ {bs : List Block} {s t : State}, reserveAll bs s = some t → t.mem = s.mem
  | [], _, _, e => by cases e; rfl
  | b :: bs, s, t, e => by
    unfold reserveAll at e
    split at e
    · cases e
    · next e1 =>
      have h1 := mem_snd e1 (reserveRec_mem _ _ _)
      rw [reserveAll_mem e, State.updBlock_mem, h1]

@[simp] theorem markAsk_mem (s : State) (bs : List Block) (reason : Nat) : (markAsk s bs reason).mem = s.mem :=
  foldl_mem (fun _ _ => State.updBlock_mem _ _ _) bs s

@[simp] theorem askSave_mem (s : State) (gang : Nat) (reason : Nat) : (askSave s gang reason).mem = s.mem := by
  unfold askSave
  dsimp only
  split
  · simp
  · split
    · simp
    · split
      · cases e : reserveAll _ (markAsk s (gangLive s gang) reason) with
        | none => simp
        | some t => simpa using reserveAll_mem e
      · simp

@[simp] theorem serveReq_mem (s : State) (dk : Nat) : (serveReq s dk).mem = s.mem := by
  unfold serveReq
  split
  · rfl
  · dsimp only
    split
    · rfl
    · split
      · next e => simpa using reserveAll_mem e
      · rfl

@[simp] theorem askCore_mem (s : State) (ck reason : Nat) (p : Block → Bool) : (askCore s ck reason p).mem = s.mem := by simp [askCore]

@[simp] theorem debugBreak_mem (s : State) (r : PathRef) : (debugBreak s r).mem = s.mem := by
  unfold debugBreak
  split <;> simp

@[simp] theorem abandonWait_mem (s : State) (bid wi : Nat) (wt : Wait) : (abandonWait s bid wi wt).mem = s.mem := by
  unfold abandonWait
  split <;> simp

@[simp] theorem haltBlock_mem (s : State) (bid : Nat) : (haltBlock s bid).mem = s.mem := by
  unfold haltBlock
  split
  · rfl
  · split
    · split
      · rfl
      · dsimp only
        rw [State.updBlock_mem, foldl_mem fun t wi => ?_]
        split
        · exact foldl_mem (fun t sl => by split <;> simp) _ _
        · rfl
    · rfl

@[simp] theorem settleSched_mem (s : State) (ck : Nat) : (settleSched s ck).mem = s.mem := by
  unfold settleSched
  repeat' split
  all_goals simp

@[simp] theorem settleWindow_mem (s : State) (b : Block) : (settleWindow s b).mem = s.mem := by
  unfold settleWindow
  repeat' split
  all_goals simp

@[simp] theorem leaveCore_mem (s0 : State) (b : Block) : (leaveCore s0 b).mem = s0.mem := by
  unfold leaveCore
  dsimp only
  split <;> simp

@[simp] theorem requeue_mem (s : State) (dk gang : Nat) : (requeue s dk gang).mem = s.mem := by
  unfold requeue
  dsimp only
  repeat' split
  all_goals simp

@[simp] theorem saveOne_wf {s : State} {b : Block} (h : Memory.wf s.mem) : Memory.wf (saveOne s b).mem := by
  unfold saveOne
  split <;> simp [h]

@[simp] theorem saveBlock_wf {s : State} {bid : Nat} (h : Memory.wf s.mem) : Memory.wf (saveBlock s bid).mem := by
  unfold saveBlock
  split
  · exact h
  · dsimp only
    split
    · exact foldl_wf (fun _ _ => saveOne_wf) _ h
    · exact h

@[simp] theorem resumeBlock_wf {s : State} {dk : Nat} {v : Saved} {ck : Nat} (h : Memory.wf s.mem) :
    Memory.wf (resumeBlock s dk v ck).mem := by
  unfold resumeBlock
  dsimp only
  rw [State.updDomain_mem, freeRecord_mem, foldl_mem fun t x => foldl_mem (fun t i => ?_) _ _]
  · refine relock_wf ?_
    simpa using State.unitRead_wf h
  · split
    · split <;> simp
    · rfl

@[simp] theorem brkEff_mem (s : State) (r : PathRef) : (brkEff s r).mem = s.mem := by
  unfold brkEff
  repeat' split
  all_goals simp

/-! ### Machine/Arbor -/

@[simp] theorem dropUnit_mem (s : State) (dk : Nat) (u : UnitQ) : (dropUnit s dk u).mem = s.mem := (rfl)

@[simp] theorem beginUnit_wf {s : State} {dk : Nat} {u : UnitQ} {cs : List Nat} (h : Memory.wf s.mem) :
    Memory.wf (beginUnit s dk u cs).mem := by
  have h1 : Memory.wf (dropUnit s dk u).mem := by simpa using h
  unfold beginUnit
  dsimp only
  split
  · rw [publish_mem]
    exact foldl_wf (fun _ _ => resumeBlock_wf) _ h1
  · split
    · exact h1
    · simpa using startUnit_wf h1

@[simp] theorem withoutBlocks_mem (s : State) (bs : List Block) : (withoutBlocks s bs).mem = s.mem := by simp [withoutBlocks]

@[simp] theorem tryPreempt_mem (s : State) (dk : Nat) : (tryPreempt s dk).mem = s.mem := by
  unfold tryPreempt
  dsimp only
  split
  · rfl
  · split
    · rfl
    · split
      · rfl
      · split
        · rfl
        · rfl
        · split
          · rfl
          · next e => simpa using reserveAll_mem e

@[simp] theorem enqueueUnit_mem (s : State) (dk gid linear target : Nat) (save : Option Nat) :
    (enqueueUnit s dk gid linear target save).2.mem = s.mem := by
  unfold enqueueUnit
  repeat' split
  all_goals simp

theorem arrivalNext_mem {s : State} {dk gid i target : Nat} {save : Option Nat} {t : State}
    (ht : arrivalNext s dk = some (gid, i, target, save, t)) : t.mem = s.mem := by
  unfold arrivalNext at ht
  split at ht
  · split at ht
    · cases ht; simp
    · cases ht
  · split at ht
    · cases ht
    · cases ht; split <;> simp

@[simp] theorem unitArrives_wf {s : State} {dk : Nat} (h : Memory.wf s.mem) : Memory.wf (unitArrives s dk).mem := by
  unfold unitArrives
  split
  · exact h
  · next e =>
    have h1 := arrivalNext_mem e ▸ h
    split
    · next e1 => exact mem_snd e1 (enqueueUnit_mem ..) ▸ h1
    · next e1 =>
      have h2 := mem_snd e1 (enqueueUnit_mem ..) ▸ h1
      split
      · split
        · exact beginUnit_wf h2
        · exact h2
      · simpa using h2

@[simp] theorem startPicked_wf {s : State} {dk : Nat} {saved : Bool} (h : Memory.wf s.mem) : Memory.wf (startPicked s dk saved).mem := by
  unfold startPicked
  repeat' split
  all_goals simp [h]

@[simp] theorem arborOffer_mem (s : State) (dk : Nat) : (arborOffer s dk).mem = s.mem := by
  unfold arborOffer
  split <;> simp

@[simp] theorem takeBack_mem (s : State) (dk w : Nat) (u : UnitQ) (target d q : Nat) : (takeBack s dk w u target d q).mem = s.mem := (rfl)

@[simp] theorem pergolaOffer_mem (s : State) (w : Nat) : (pergolaOffer s w).mem = s.mem := by
  unfold pergolaOffer
  dsimp only
  repeat' split
  all_goals simp

@[simp] theorem dropReplicas_mem (s : State) (dk gid : Nat) : (dropReplicas s dk gid).mem = s.mem := by
  unfold dropReplicas
  split <;> simp

@[simp] theorem retireBlock_mem (s : State) (bid : Nat) : (retireBlock s bid).mem = s.mem := by
  unfold retireBlock
  repeat' split
  all_goals simp

@[simp] theorem forwardCancel_mem (s : State) (lvl : Nat) (key : Nat) (g : Grid) : (forwardCancel s lvl key g).mem = s.mem := by
  unfold forwardCancel
  split
  · exact foldl_mem (fun _ _ => State.send_mem _ _) _ s
  · exact foldl_mem (fun _ _ => State.send_mem _ _) _ s

@[simp] theorem cancelBlock_mem (s : State) (b : Block) : (cancelBlock s b).mem = s.mem := by
  unfold cancelBlock
  dsimp only
  repeat' split
  all_goals simp

@[simp] theorem cancelArbor_mem (s : State) (dk : Nat) (g : Grid) : (cancelArbor s dk g).mem = s.mem := by simp [cancelArbor]

@[simp] theorem cancelArrive_mem (s : State) (lvl key : Nat) : (cancelArrive s lvl key).mem = s.mem := by
  unfold cancelArrive
  dsimp only
  repeat' split
  all_goals simp

@[simp] theorem rootCheck_wf {s : State} {gid : Nat} (h : Memory.wf s.mem) : Memory.wf (rootCheck s gid).mem := by
  unfold rootCheck
  repeat' split
  all_goals simp [h]

@[simp] theorem countReport_wf {s : State} {lvl key : Nat} (h : Memory.wf s.mem) : Memory.wf (countReport s lvl key).mem := by
  unfold countReport
  repeat' split
  all_goals simp [h]

/-! ### Machine/Lodge -/

theorem ite_unitWrite_wf {c : Prop} [Decidable c] {s : State} {a : Nat} {bs : List Byte} (h : Memory.wf s.mem) :
    Memory.wf (if c then s else s.unitWrite a bs).mem := by
  split
  · exact h
  · exact State.unitWrite_wf h

@[simp] theorem noteRecord_wf {s : State} {dk q : Nat} {a b : HostQ} (h : Memory.wf s.mem) : Memory.wf (noteRecord s dk q a b).mem :=
  ite_unitWrite_wf (ite_unitWrite_wf (ite_unitWrite_wf (ite_unitWrite_wf (ite_unitWrite_wf h))))

@[simp] theorem State.updQueue_wf {s : State} {dk q : Nat} {f : HostQ → HostQ} (h : Memory.wf s.mem) :
    Memory.wf (State.updQueue s dk q f).mem := by simp [State.updQueue, h]

@[simp] theorem evict_wf {s : State} {dk q : Nat} (h : Memory.wf s.mem) : Memory.wf (evict s dk q).mem := by simp [evict, h]

@[simp] theorem takeSlot_wf {s : State} {dk q : Nat} (h : Memory.wf s.mem) : OptWf (takeSlot s dk q) := by
  unfold takeSlot
  dsimp only
  split
  · exact optWf_some.2 (State.updQueue_wf h)
  · cases oldestIdle (s.domain dk) with
    | none => simp
    | some o => exact optWf_some.2 (State.updQueue_wf (evict_wf h))

@[simp] theorem serveMaps_wf : ∀ {n : Nat} {s : State} {dk : Nat}, Memory.wf s.mem → Memory.wf (serveMaps n s dk).mem
  | 0, _, _, h => h
  | n + 1, s, dk, h => by
    unfold serveMaps
    split
    · exact h
    · split
      · next e => exact serveMaps_wf (by simpa using takeSlot_wf h _ e)
      · exact h

@[simp] theorem settleMaps_wf {s : State} {dk : Nat} (h : Memory.wf s.mem) : Memory.wf (settleMaps s dk).mem := by simp [settleMaps, h]

@[simp] theorem mapQueue_wf {s : State} {dk q : Nat} (h : Memory.wf s.mem) : Memory.wf (mapQueue s dk q).mem := by
  unfold mapQueue
  split
  · next e =>
    split at e
    · exact takeSlot_wf h _ e
    · cases e
  · exact settleMaps_wf (by simpa using h)

@[simp] theorem tellReplicas_mem (s : State) (dk : Nat) (q : Nat) (version : Word) : (tellReplicas s dk q version).mem = s.mem :=
  foldl_mem (fun _ _ => State.send_mem _ _) _ s

@[simp] theorem applyQcmd_wf {s : State} {dk q op : Nat} (h : Memory.wf s.mem) : Memory.wf (applyQcmd s dk q op).mem := by
  have h1 : Memory.wf (s.unitRead (qrecAddr s dk q) 128).2.mem := State.unitRead_wf h
  unfold applyQcmd
  generalize s.unitRead (qrecAddr s dk q) 128 = p at h1 ⊢
  obtain ⟨bs, s1⟩ := p
  dsimp only
  refine settleMaps_wf ?_
  rw [State.updDomain_mem, tellReplicas_mem, State.updDomain_mem]
  exact noteRecord_wf h1

@[simp] theorem settleQcmd_wf {s : State} {dk q : Nat} (h : Memory.wf s.mem) : Memory.wf (settleQcmd s dk q).mem := by
  unfold settleQcmd
  dsimp only
  repeat' split
  all_goals simp [h]

@[simp] theorem queueError_wf {s : State} {dk q code : Nat} (h : Memory.wf s.mem) : Memory.wf (queueError s dk q code).mem := by
  unfold queueError
  refine settleQcmd_wf (settleMaps_wf ?_)
  simpa using State.updQueue_wf h

@[simp] theorem takeBackLaunch_mem (s : State) (x : HostQ) : (takeBackLaunch s x).mem = s.mem := by
  unfold takeBackLaunch
  split <;> simp

@[simp] theorem qcmd_wf {s : State} {dk i op : Nat} (h : Memory.wf s.mem) : Memory.wf (qcmd s dk i op).mem := by
  unfold qcmd
  dsimp only
  repeat' split
  all_goals simp [h]

@[simp] theorem qinvalArrive_mem (s : State) (k : Nat) : (qinvalArrive s k).mem = s.mem := by
  unfold qinvalArrive
  repeat' split
  all_goals simp

@[simp] theorem replicaOf_mem (s : State) (k q : Nat) : (replicaOf s k q).2.mem = s.mem := by
  unfold replicaOf
  split <;> simp

@[simp] theorem notify_wf {s : State} {k q : Nat} {v : Word} {secure : Bool} (h : Memory.wf s.mem) :
    Memory.wf (notify s k q v secure).1.mem := by
  unfold notify
  dsimp only
  repeat' split
  all_goals simp [h]

@[simp] theorem queuePlace_wf {s : State} {dk : Nat} {x : HostQ} {va : DWord} {n : Nat} {acc : Access} (h : Memory.wf s.mem) :
    Memory.wf (queuePlace s dk x va n acc).2.mem := by
  unfold queuePlace
  dsimp only
  split
  · exact h
  · split
    · exact h
    · split
      · next e => exact wf_snd e (translate_wf h)
      · next e =>
        have h1 := wf_snd e (translate_wf h)
        repeat' split
        all_goals simpa using h1

@[simp] theorem queueRead_wf {s : State} {dk : Nat} {x : HostQ} {va : DWord} {n : Nat} (h : Memory.wf s.mem) :
    Memory.wf (queueRead s dk x va n).2.mem := by
  unfold queueRead
  refine foldl_snd_wf (fun p i hp => ?_) _ h
  split
  · exact hp
  · split
    · next e => exact wf_snd e (queuePlace_wf hp)
    · next e => exact placeRead_wf (wf_snd e (queuePlace_wf hp))

@[simp] theorem queueFail_wf {s : State} {dk q : Nat} {e : QAns} {kind : Nat} (h : Memory.wf s.mem) :
    Memory.wf (queueFail s dk q e kind).mem := by
  unfold queueFail
  split <;> simp [h]

@[simp] theorem replyLodge_wf {s : State} {dk q token : Nat} {code : BitVec 8} {fatal : Bool} (h : Memory.wf s.mem) :
    Memory.wf (replyLodge s dk q token code fatal).mem := by
  unfold replyLodge
  dsimp only
  split
  · split
    · exact queueError_wf (State.updQueue_wf (State.updQueue_wf h))
    · exact State.updQueue_wf h
  · exact h

@[simp] theorem finishEntry_wf {s : State} {dk q : Nat} (h : Memory.wf s.mem) : Memory.wf (finishEntry s dk q).mem := by
  have done {t : State} {f : HostQ → HostQ} {o : Option Nat} (ht : Memory.wf t.mem) :
      Memory.wf (match o with | some op => applyQcmd (t.updQueue dk q f) dk q op | none => settleMaps (t.updQueue dk q f) dk).mem := by
    split
    · exact applyQcmd_wf (State.updQueue_wf ht)
    · exact settleMaps_wf (State.updQueue_wf ht)
  unfold finishEntry
  dsimp only
  split
  · exact done (State.updQueue_wf h)
  · split
    · exact queueError_wf (State.updQueue_wf h)
    · split
      · next e => exact done (unitPut_wf (wf_snd e (queuePlace_wf (State.updQueue_wf h))))
      · next e => exact queueError_wf (State.updQueue_wf (wf_snd e (queuePlace_wf (State.updQueue_wf h))))
      · next e => exact queueFail_wf (wf_snd e (queuePlace_wf (State.updQueue_wf h)))

@[simp] theorem sendLaunch_wf {s : State} {dk q : Nat} {x : HostQ} {e : Entry} (h : Memory.wf s.mem) :
    Memory.wf (sendLaunch s dk q x e).mem := by simp [sendLaunch, h]

@[simp] theorem runEntry_wf {s : State} {dk q : Nat} {x : HostQ} {e : Entry} (h : Memory.wf s.mem) :
    Memory.wf (runEntry s dk q x e).mem := by
  unfold runEntry
  split
  · exact finishEntry_wf h
  · exact sendLaunch_wf h
  · split
    · exact queueError_wf h
    · split
      · next e => exact queueFail_wf (wf_snd e (queueRead_wf h))
      · next e =>
        have h1 := wf_snd e (queueRead_wf h)
        split
        · exact finishEntry_wf h1
        · exact settleQcmd_wf (settleMaps_wf (State.updQueue_wf h1))
  · split
    · exact queueError_wf h
    · split
      · next e => exact queueFail_wf (wf_snd e (queuePlace_wf h))
      · next e => exact finishEntry_wf (unitPut_wf (wf_snd e (queuePlace_wf h)))
  · split
    · exact finishEntry_wf (State.updQueue_wf h)
    · exact settleQcmd_wf h

@[simp] theorem entryStep_wf {kind : Nat} {poll : Bool} {s : State} {Q : Nat} (h : Memory.wf s.mem) :
    Memory.wf (entryStep kind poll s Q).mem := by
  unfold entryStep
  dsimp only
  split
  · split
    · exact applyQcmd_wf (by simpa using h)
    · exact h
  · split
    · split
      · exact h
      · exact finishEntry_wf h
    · split
      · exact h
      · split
        · next e => exact queueFail_wf (wf_snd e (queueRead_wf h))
        · next e =>
          have h1 := wf_snd e (queueRead_wf h)
          split
          · exact queueError_wf h1
          · split
            · exact h
            · split
              · exact queueError_wf h1
              · exact runEntry_wf h1

/-! ### Machine/Reply -/

@[simp] theorem writeStates_wf {s : State} {v : Saved} (h : Memory.wf s.mem) : Memory.wf (writeStates s v).mem := by
  unfold writeStates
  refine foldl_wf (fun t x ht => foldl_wf (fun t y ht => ?_) _ ht) _ h
  exact ite_unitWrite_wf ht

@[simp] theorem replyEntry_wf {s : State} {token : Nat} {fatal : Bool} (h : Memory.wf s.mem) :
    Memory.wf (replyEntry s token fatal).mem := by
  unfold replyEntry
  dsimp only
  refine foldl_wf (fun t e ht => ?_) _ h
  split
  · exact ht
  · exact writeStates_wf (by simpa using ht)

@[simp] theorem replyOrangery_wf {s : State} {dk token : Nat} {fatal : Bool} (h : Memory.wf s.mem) :
    Memory.wf (replyOrangery s dk token fatal).mem := by
  unfold replyOrangery
  repeat' split
  all_goals simp [h]

@[simp] theorem replyPath_mem (s : State) (r : PathRef) (token : Nat) (fatal : Bool) (f : Slot → Slot) :
    (replyPath s r token fatal f).mem = s.mem := by
  unfold replyPath
  repeat' split
  all_goals simp

@[simp] theorem replySpill_mem (s : State) (r : PathRef) (token : Nat) (code : BitVec 8) (va : DWord) (fatal : Bool) :
    (replySpill s r token code va fatal).mem = s.mem := by
  unfold replySpill
  dsimp only
  repeat' split
  all_goals simp

@[simp] theorem replyRecord_mem (s : State) (r : PathRef) (token : Nat) (code : BitVec 8) (fatal : Bool) :
    (replyRecord s r token code fatal).mem = s.mem := by
  unfold replyRecord
  repeat' split
  all_goals simp

@[simp] theorem fltReply_wf {s : State} {dk : Nat} {v : Word} (h : Memory.wf s.mem) : Memory.wf (fltReply s dk v).mem := by
  unfold fltReply
  dsimp only
  repeat' split
  all_goals simp [h]

/-! ### Machine/Aperture -/

@[simp] theorem schedWrite_mem (s : State) (ck : Nat) (v : Word) : (schedWrite s ck v).mem = s.mem := by
  unfold schedWrite
  split <;> simp

@[simp] theorem State.updPerf_mem (s : State) (ck n : Nat) (f : Perf → Perf) : (State.updPerf s ck n f).mem = s.mem := (rfl)

@[simp] theorem State.updBrk_mem (s : State) (ck n : Nat) (f : Brk → Brk) : (State.updBrk s ck n f).mem = s.mem := (rfl)

@[simp] theorem coreWrite_mem (s : State) (ck off : Nat) (v : Word) (secure : Bool) : (coreWrite s ck off v secure).mem = s.mem := by
  unfold coreWrite
  repeat' split
  all_goals simp

@[simp] theorem slewWrite_mem (s : State) (bk : Nat) (up : Bool) (v : Word) : (slewWrite s bk up v).mem = s.mem := by
  unfold slewWrite
  dsimp only
  split <;> simp

@[simp] theorem rampWrite_mem (s : State) (bk : Nat) (v : Word) : (rampWrite s bk v).mem = s.mem := (rfl)

@[simp] theorem bayWrite_mem (s : State) (bk off : Nat) (v : Word) : (bayWrite s bk off v).mem = s.mem := by
  unfold bayWrite
  split <;> simp

@[simp] theorem arbpre_mem (s : State) (dk : Nat) (v : Word) : (arbpre s dk v).mem = s.mem := by simp [arbpre]

@[simp] theorem debugEnd_mem (s : State) (dk : Nat) (discard secure : Bool) : (debugEnd s dk discard secure).mem = s.mem := by
  unfold debugEnd
  repeat' split
  all_goals simp

@[simp] theorem debugSlot_mem (s : State) (dk slot : Nat) (secure : Bool) : (debugSlot s dk slot secure).mem = s.mem := by
  simp [debugSlot]

@[simp] theorem dbgcmd_mem (s : State) (dk : Nat) (v : Word) (secure : Bool) : (dbgcmd s dk v secure).mem = s.mem := by
  unfold dbgcmd
  split <;> simp

@[simp] theorem relcmd_wf {s : State} {dk : Nat} {v : Word} {secure : Bool} (h : Memory.wf s.mem) :
    Memory.wf (relcmd s dk v secure).mem := by
  unfold relcmd
  split <;> simp [h]

@[simp] theorem qcmdWrite_wf {s : State} {dk : Nat} {v : Word} (h : Memory.wf s.mem) : Memory.wf (qcmdWrite s dk v).mem := by
  unfold qcmdWrite
  split <;> simp [h]

@[simp] theorem domainWrite_wf {s : State} {dk off : Nat} {v : Word} {secure : Bool} (h : Memory.wf s.mem) :
    Memory.wf (domainWrite s dk off v secure).mem := by
  unfold domainWrite
  dsimp only
  repeat' split
  all_goals simp [h]

@[simp] theorem waferWrite_wf {s : State} {orig : Origin} {w off : Nat} {v : Word} (h : Memory.wf s.mem) :
    Memory.wf (waferWrite s orig w off v).mem := by
  unfold waferWrite
  dsimp only
  repeat' split
  all_goals simp [h]

@[simp] theorem apWrite_wf {s : State} {orig : Origin} {port w o : Nat} {v : Word} (h : Memory.wf s.mem) :
    Memory.wf (apWrite s orig port w o v).1.mem := by
  unfold apWrite
  repeat' split
  all_goals simp [h]

/-! ### Machine/Bridge -/

@[simp] theorem bridgeRegister_wf {s : State} {r : Req} {o : Nat} (h : Memory.wf s.mem) : Memory.wf (bridgeRegister s r o).mem := by
  unfold bridgeRegister
  dsimp only
  repeat' split
  all_goals simp [h]

@[simp] theorem bridgeMemory_wf {s : State} {r : Req} (h : Memory.wf s.mem) : Memory.wf (bridgeMemory s r).mem := by
  unfold bridgeMemory
  dsimp only
  split
  · next e => simpa using wf_snd e (findLeaf_wf h)
  · next e =>
    have h1 := wf_snd e (findLeaf_wf h)
    split
    · next e1 => simpa using wf_snd e1 (useLeaf_wf h1)
    · next e1 =>
      have h2 := wf_snd e1 (useLeaf_wf h1)
      split
      · simpa using h2
      · split
        · simpa using h2
        · split
          · split
            · simp [h2]
            · rw [ackReq_mem]
              exact foldl_wf (fun _ _ ht => State.storeBytes_wf ht _ _) _ h2
          · simp [h2]
          · simp [h2]
          · simp [h2]

@[simp] theorem bridgeAccess_wf {s : State} {id : Nat} (h : Memory.wf s.mem) : Memory.wf (bridgeAccess s id).mem := by
  unfold bridgeAccess
  repeat' split
  all_goals simp [h]

@[simp] theorem inboundPlace_wf {s : State} {w : Nat} {va : DWord} {n : Nat} {acc : Access} (h : Memory.wf s.mem) :
    Memory.wf (inboundPlace s w va n acc).2.1.mem := by
  unfold inboundPlace
  dsimp only
  split
  · exact h
  · split
    · exact h
    · split
      · next e => exact wf_snd e (translate_wf h)
      · next e =>
        have h1 := wf_snd e (translate_wf h)
        repeat' split
        all_goals simpa using h1

@[simp] theorem inboundPlaces_wf {w : Nat} {va : DWord} {acc : Access} {ps : List (Nat × Nat)} {s : State} (h : Memory.wf s.mem) :
    Memory.wf (inboundPlaces w va acc ps s).2.1.mem := by
  unfold inboundPlaces
  refine foldl_mid_wf (fun p i hp => ?_) _ h
  split
  · exact hp
  · split <;> (next e => exact wf_mid e (inboundPlace_wf hp))

@[simp] theorem portDone_mem (s : State) (dk : Nat) (a : PortAcc) (c : PortCpl) : (portDone s dk a c).mem = s.mem := by
  unfold portDone
  split <;> simp

@[simp] theorem bar2Try_wf {s : State} {dk : Nat} {a : PortAcc} (h : Memory.wf s.mem) : Memory.wf (bar2Try s dk a).1.mem := by
  unfold bar2Try
  dsimp only
  split
  · simpa using h
  · split
    · next e =>
      have h1 := wf_mid e (inboundPlaces_wf h)
      split
      · exact foldl_wf (fun _ _ => unitPut_wf) _ h1
      · rw [portDone_mem]
        refine foldl_snd_wf ?_ _ h1
        exact fun _ _ ht => placeRead_wf ht
    · next e => exact wf_mid e (inboundPlaces_wf h)
    · next e => simpa using wf_mid e (inboundPlaces_wf h)

@[simp] theorem bar0Do_wf {s : State} {dk : Nat} {a : PortAcc} (h : Memory.wf s.mem) : Memory.wf (bar0Do s dk a).mem := by
  unfold bar0Do
  repeat' split
  all_goals simp [h]

@[simp] theorem portTry_wf {s : State} {dk : Nat} {a : PortAcc} (h : Memory.wf s.mem) : Memory.wf (portTry s dk a).1.mem := by
  unfold portTry
  split <;> simp [h]

@[simp] theorem portServe_wf {s : State} {dk : Nat} (h : Memory.wf s.mem) : Memory.wf (portServe s dk).mem := by
  unfold portServe
  dsimp only
  rw [State.updDomain_mem]
  refine foldl_fst_wf (fun p a hp => ?_) _ h
  split
  · exact hp
  · split <;> (next e => exact wf_fst e (portTry_wf hp))

@[simp] theorem portAccept_wf {s : State} {dk : Nat} {a : PortAcc} (h : Memory.wf s.mem) : Memory.wf (portAccept s dk a).mem := by
  unfold portAccept
  split
  · exact h
  · split
    · split <;> (next e => simpa using wf_fst e (portTry_wf h))
    · exact portServe_wf (by simpa using h)

@[simp] theorem inbound_wf {s : State} {dk : Nat} {write : Bool} {off : Nat} {bs : List Byte} (h : Memory.wf s.mem) :
    Memory.wf (inbound s dk write off bs).mem := by simp [inbound, h]

@[simp] theorem registerWrite_wf {s : State} {orig : Origin} {port w o : Nat} {v : Word} {bs : List Byte} (h : Memory.wf s.mem) :
    Memory.wf (registerWrite s orig port w o v bs).mem := by
  unfold registerWrite
  repeat' split
  all_goals simp [h]

/-! ### Machine/System -/

@[simp] theorem BarUnit.test_mem (u : BarUnit) (s : State) (b : Block) : (BarUnit.test u s b).mem = s.mem := by
  unfold BarUnit.test
  split <;> simp

@[simp] theorem barArriveEff_wf {u : BarUnit} {c : Ctx} {s : State} (h : Memory.wf s.mem) : ResWf (barArriveEff u c s) := by
  unfold barArriveEff
  split <;> simp [h]

@[simp] theorem barWaitEff_wf {u : BarUnit} {c : Ctx} {s : State} (h : Memory.wf s.mem) : ResWf (barWaitEff u c s) := by
  unfold barWaitEff
  split <;> simp [h]

@[simp] theorem barSyncEff_wf {u : BarUnit} {c : Ctx} {s : State} (h : Memory.wf s.mem) : ResWf (barSyncEff u c s) := by
  unfold barSyncEff
  split <;> simp [h]

@[simp] theorem barResetEff_wf {u : BarUnit} {c : Ctx} {s : State} (h : Memory.wf s.mem) : ResWf (barResetEff u c s) := h

@[simp] theorem lfirstBcEff_wf {f : FmtA} {c : Ctx} {s : State} (h : Memory.wf s.mem) : ResWf (lfirstBcEff f c s) := h

@[simp] theorem glaunchEff_wf {x : Opd} {c : Ctx} {s : State} (h : Memory.wf s.mem) : ResWf (glaunchEff x c s) := h

@[simp] theorem recordRead_wf {s : State} {b : Block} {w : Warp} {va : DWord} (h : Memory.wf s.mem) :
    Memory.wf (recordRead s b w va).2.mem := by
  unfold recordRead
  dsimp only
  split
  · exact h
  · split
    · exact h
    · split
      · exact h
      · split
        · next e => exact wf_snd e (translate_wf h)
        · next e =>
          have h1 := wf_snd e (translate_wf h)
          repeat' split
          all_goals simp [h1]

@[simp] theorem recordLeaves_mem (s : State) (r : PathRef) (b : Block) (w : Warp) (p : Pend) (va : DWord) (bs : List Byte) :
    (recordLeaves s r b w p va bs).mem = s.mem := by
  unfold recordLeaves
  dsimp only
  split <;> simp

@[simp] theorem recordIssue_wf {s : State} {r : PathRef} (h : Memory.wf s.mem) : Memory.wf (recordIssue s r).mem := by
  unfold recordIssue
  split
  · split
    · split
      · exact h
      · dsimp only
        split
        · exact h
        · split
          · simpa using h
          · split
            · next e => exact wf_snd e (recordRead_wf h)
            · next e => simpa using wf_snd e (recordRead_wf h)
            · next e => simpa using sendRecord_wf (wf_snd e (recordRead_wf h))
            · next e =>
              have h1 := wf_snd e (recordRead_wf h)
              split <;> simpa using h1
    · exact h
  · exact h

@[simp] theorem gcancelEff_wf {a : Opd} {c : Ctx} {s : State} (h : Memory.wf s.mem) : ResWf (gcancelEff a c s) := by
  unfold gcancelEff
  repeat' split
  all_goals simp [h]

@[simp] theorem gpollEff_wf {d : Opd} {c : Ctx} {s : State} (h : Memory.wf s.mem) : ResWf (gpollEff d c s) := by
  unfold gpollEff
  repeat' split
  all_goals simp [h]

@[simp] theorem ghintEff_wf {a : Opd} {c : Ctx} {s : State} (h : Memory.wf s.mem) : ResWf (ghintEff a c s) := h

@[simp] theorem csrRead_mem (s : State) (c : Ctx) (n : Nat) : (csrRead s c n).2.mem = s.mem := by
  unfold csrRead
  dsimp only
  repeat' split
  all_goals simp

@[simp] theorem csrWrite_mem (s : State) (c : Ctx) (n : Nat) (x : Word) : (csrWrite s c n x).mem = s.mem := by
  unfold csrWrite
  repeat' split
  all_goals simp

@[simp] theorem csrrIssue_wf {i : Instr} {f : FmtB} {s : State} (h : Memory.wf s.mem) : OutWf (csrrIssue i f s) :=
  issue_wf (fun c s hs => by
    split
    · trivial
    · simpa using hs) h

@[simp] theorem csrwIssue_wf {i : Instr} {reads : Bool} {g : Word → Word → Word} {f : FmtB} {s : State} (h : Memory.wf s.mem) :
    OutWf (csrwIssue i reads g f s) :=
  issue_wf (fun c s hs => by
    split
    · trivial
    · cases reads <;> simpa using hs) h

@[simp] theorem tretEff_wf {c : Ctx} {s : State} (h : Memory.wf s.mem) : ResWf (tretEff c s) := by
  unfold tretEff
  dsimp only
  split
  · exact h
  · split
    · trivial
    · split
      · split
        · exact withSpill_wf (fun _ => endLanes_wf) h
        · exact endLanes_wf h
      · simpa using h

@[simp] theorem wswitchEff_wf {a : Opd} {c : Ctx} {s : State} (h : Memory.wf s.mem) : ResWf (wswitchEff a c s) := by
  unfold wswitchEff
  split <;> simp [h]

@[simp] theorem ilockEff_wf {d a b : Opd} {c : Ctx} {s : State} (h : Memory.wf s.mem) : ResWf (ilockEff d a b c s) := by
  unfold ilockEff
  dsimp only
  repeat' split
  all_goals simp [h]

@[simp] theorem iunlockEff_wf {d a b : Opd} {c : Ctx} {s : State} (h : Memory.wf s.mem) : ResWf (iunlockEff d a b c s) := by
  simp [iunlockEff, h]

@[simp] theorem iprefetchEff_wf {a b : Opd} {c : Ctx} {s : State} (h : Memory.wf s.mem) : ResWf (iprefetchEff a b c s) :=
  foldl_wf (fun _ _ => bringLine_wf) _ h

/-! ### Machine/Bringup -/

@[simp] theorem powerOn_wf {s : State} {w topo cap : Nat} {own : List Byte} (h : Memory.wf s.mem) :
    Memory.wf (powerOn s w topo cap own).mem := by
  unfold powerOn
  split
  · exact h
  · dsimp only
    split
    · simpa using h
    · exact topoReload_wf (State.unitWrite_wf (State.unitWrite_wf (by simpa using h)))

@[simp] theorem zeroHot_wf {s : State} {dk : Nat} (h : Memory.wf s.mem) : Memory.wf (zeroHot s dk).mem := by
  unfold zeroHot
  dsimp only
  split
  · simpa using h
  · exact filter_wf _ (by simpa using h)

@[simp] theorem domainUp_wf {s : State} {dk : Nat} (h : Memory.wf s.mem) : Memory.wf (domainUp s dk).mem := by
  unfold domainUp
  dsimp only
  split
  · exact h
  · rw [State.send_mem]
    exact writeState_wf (topoWrite_wf (by simpa using zeroHot_wf h))

@[simp] theorem setReduced_wf {s : State} {w : Nat} {r : Bool} (h : Memory.wf s.mem) : Memory.wf (setReduced s w r).mem := by
  simp [setReduced, h]

@[simp] theorem reducedEnd_wf {s : State} (h : Memory.wf s.mem) : Memory.wf (reducedEnd s).mem :=
  foldl_wf (fun t e ht => by split <;> simp [ht]) _ h

@[simp] theorem safelightTurn_wf {s : State} (h : Memory.wf s.mem) : Memory.wf (safelightTurn s).mem := by
  unfold safelightTurn
  split <;> simp [h]

@[simp] theorem outsideRated_wf {s : State} {w : Nat} {hold : Bool} (h : Memory.wf s.mem) : Memory.wf (outsideRated s w hold).mem := by
  unfold outsideRated
  repeat' split
  all_goals simp [h]

@[simp] theorem spdmAnswer_mem (s : State) (w code : Nat) (facts : List Byte) : (spdmAnswer s w code facts).mem = s.mem := by
  unfold spdmAnswer
  split <;> simp

@[simp] theorem spdmRefuse_mem (s : State) (w : Nat) : (spdmRefuse s w).mem = s.mem := by
  unfold spdmRefuse
  split <;> simp

@[simp] theorem spdmSigned_mem (s : State) (w code : Nat) (facts : List Byte) : (spdmSigned s w code facts).mem = s.mem := by
  unfold spdmSigned
  dsimp only
  repeat' split
  all_goals simp

@[simp] theorem firmwareUpdate_mem (s : State) (w : Nat) (ver : Word) (ok : Bool) : (firmwareUpdate s w ver ok).mem = s.mem := by
  unfold firmwareUpdate
  dsimp only
  split
  · rw [State.updWafer_mem, foldl_mem fun _ _ => State.updDomain_mem _ _ _]
  · rfl

@[simp] theorem powerLoss_wf {s : State} {w : Nat} (h : Memory.wf s.mem) : Memory.wf (powerLoss s w).mem :=
  filter_wf _ h

/-! ### Machine/Turns -/

@[simp] theorem starvedExchange_mem (s : State) (ck slot : Nat) : (starvedExchange s ck slot).mem = s.mem := by
  unfold starvedExchange
  split <;> simp

@[simp] theorem sleepEnd_mem (s : State) (r : PathRef) : (sleepEnd s r).mem = s.mem := by
  unfold sleepEnd
  repeat' split
  all_goals simp

@[simp] theorem longArrive_mem (s : State) (tag : Nat) : (longArrive s tag).mem = s.mem := by
  unfold longArrive
  repeat' split
  all_goals simp

@[simp] theorem heldWrite_wf {s : State} {dk : Nat} (h : Memory.wf s.mem) : Memory.wf (heldWrite s dk).mem := by
  unfold heldWrite
  repeat' split
  all_goals simp [h]

@[simp] theorem responseStep_mem (s : State) (id : Nat) : (responseStep s id).mem = s.mem := by
  unfold responseStep
  repeat' split
  all_goals simp

@[simp] theorem ackStep_mem (s : State) (id : Nat) : (ackStep s id).mem = s.mem := by
  unfold ackStep
  repeat' split
  all_goals simp

/-! ### Machine/Sched -/

theorem execPblk_wf {s : State} (h : Memory.wf s.mem) : OutWf (execPblk s) := by
  unfold execPblk
  split <;> simp [h]

theorem execOrdp_wf {s : State} (h : Memory.wf s.mem) : OutWf (execOrdp s) := by
  unfold execOrdp
  split <;> simp [h]

theorem execFfmaImm_wf {s : State} (h : Memory.wf s.mem) : OutWf (execFfmaImm s) := by
  unfold execFfmaImm
  refine withB_wf fun f => ?_
  split
  · exact laneAcc_wf h
  · exact issue_wf (fun _ _ => noEff_wf) h

/-- One case for each shape of row: the operands' format, and the issue or the event that gives the row its meaning. In the
first groups what the row does at issue is a case of its effect's own lemma, which `simp` knows. -/
@[simp] theorem exec_wf {i : Instr} {s : State} (h : Memory.wf s.mem) : OutWf (exec i s) := by
  cases i
  case s16AddI32 | s16SubI32 | s16Mov | s16AndB32 | s16OrB32 | s16XorB32 | s16ShlB32 | s16ShrN32 | s16MinI32 | s16MaxI32 |
      s16FaddF32 | s16FsubF32 | s16FmulF32 | s16FminF32 | s16FmaxF32 | s16FmacF32 =>
    refine withS16_wf fun _ => issue_wf (fun _ _ hs => ?_) h
    simp [hs]
  case ret | addI32L32 | subI32L32 | mulLoI32L32 | mulHiI32L32 | mulHiN32L32 | minI32L32 | maxI32L32 | minN32L32 | maxN32L32 |
      andB32L32 | orB32L32 | xorB32L32 | shlB32L32 | shrN32L32 | shrI32L32 | rotlB32L32 | rotrB32L32 | addSatI32L32 |
      subSatI32L32 | movL32 | absI32L32 | negI32L32 | notB32L32 | popcB32L32 | clzB32L32 | ctzB32L32 | brevB32L32 |
      faddF32L32 | fsubF32L32 | fmulF32L32 | fminF32L32 | fmaxF32L32 | addI32ImmL32 | mulLoI32ImmL32 | andB32ImmL32 |
      orB32ImmL32 | xorB32ImmL32 | shlB32ImmL32 | shrN32ImmL32 | shrI32ImmL32 | minI32ImmL32 | maxI32ImmL32 | moviL32 |
      fmacF32L32 | uaddI32L32 | usubI32L32 | uandB32L32 | uorB32L32 | uxorB32L32 | ushlB32L32 | ushrN32L32 | umovL32 |
      uaddI32ImmL32 | uandB32ImmL32 | ushlB32ImmL32 | ushrN32ImmL32 | ldI8L32 | ldN8L32 | ldI16L32 | ldN16L32 | ldB32L32 |
      ldB64L32 | stB8L32 | stB16L32 | stB32L32 | stB64L32 | ldsB32L32 | stsB32L32 | ldkB32L32 | atomAddN32L32 | atomMinI32L32 |
      atomMaxI32L32 | atomMinN32L32 | atomMaxN32L32 | atomAndB32L32 | atomOrB32L32 | atomXorB32L32 | atomXchgB32L32 |
      redAddN32L32 | redMinI32L32 | redMaxI32L32 | redMinN32L32 | redMaxN32L32 | redAndB32L32 | redOrB32L32 | redXorB32L32 |
      waitvEqL32 | waitvNeL32 | barArrive | gbarArrive | barWait | gbarWait | barSync | gbar | barReset | nop | exit | join |
      yield | trapL32 =>
    refine withL32_wf fun _ => issue_wf (fun _ _ hs => ?_) h
    simp [hs]
  case pand | por | pxor | pandn | pnot | pmov | pset | pget | braIdx | callIdx | lrdAt | lrdFlip | lrdOff | lrdRot | lany |
      lall | lmask | lcount | hcmp | hpin | hunpin | hnull | hphase | hsize | mma | mmaPair | mzero | mload | mdrain | mbatch |
      lfirstBc | glaunchDomain | glaunchWafer | glaunchPod | gcancel | gpoll | gstat | ghint | gfault | gid | tret | wswitch |
      xlatUpd | pgmig | rgnSetclass | ilock | iunlock | iprefetch | halt | perf =>
    refine withA_wf fun _ => issue_wf (fun _ _ hs => ?_) h
    simp [hs]
  case bra | call | loop | mwait | ewait | sleep | trap =>
    refine withB_wf fun _ => issue_wf (fun _ _ hs => ?_) h
    simp [hs]
  case ld | ldSx | st | ldk | lds | ldsSx | sts | stm | prefetch | cwb | cinv | cflush | waitv | atomAdd | atomFadd |
      atomMinI | atomMinN | atomMaxI | atomMaxN | atomAnd | atomOr | atomXor | atomXchg | atomCas | atomIncwrap | redAdd |
      redFadd | redMinI | redMinN | redMaxI | redMaxN | redAnd | redOr | redXor | redIncwrap | fenceAcq | fenceRel | fenceAr |
      fenceSc | hld | hst | hldf | hstf | hcas =>
    refine withC_wf fun _ => issue_wf (fun _ _ hs => ?_) h
    simp [hs]
  case add | sub | mulLo | mulHi | madLo | madHi | mulFull | madFull | div | rem | min | max | abs | neg | addSat | subSat | and | or |
      xor | not | andn | shl | rotl | rotr | bfi | popc | clz | ctz | brev | shr | bfe | cmpEq | cmpNe | cmpLt | cmpLe | cmpGt | cmpGe |
      sel | mov | lea | fmin | fmax | fabs | fneg | fcmpEq | fcmpNe | fcmpLt | fcmpLe | fcmpGt | fcmpGe | fcmpUn | fsel | fclass | frcp |
      frsq | fexp2 | flog2 | fsin | fcos | ftanh => exact withA_wf fun _ => laneA_wf h
  case addImm | mulLoImm | minImm | maxImm | shrImm | andImm | orImm | xorImm | shlImm | movi | leaImm | faddImm | fmulImm =>
    exact withB_wf fun _ => laneB_wf h
  case braU | braAny | braAll => exact withB_wf fun _ => braUniform_wf h
  case lcmov => exact withA_wf fun _ => lcmovIssue_wf h
  case fadd | fsub | fmul | ffma | fdiv | fsqrt => exact withA_wf fun _ => laneR_wf h
  case cvtFloat | cvtNarrow | cvtInt | cvtE8m0 | cvtPk | cvtUpk => exact withA_wf fun _ => laneCvt_wf h
  case alike => exact withA_wf fun _ => alikeIssue_wf h
  case lfirst => exact withA_wf fun _ => lfirstIssue_wf h
  case lred | lscan => exact withA_wf fun _ => redIssue_wf h
  case uadd | usub | umulLo | uand | uor | uxor | ushl | ushr | umin | umax | umov => exact withA_wf fun _ => uniA_wf h
  case umovi => exact withB_wf fun _ => uniB_wf h
  case hcopy => exact withA_wf fun _ => hcopyIssue_wf h
  case mrow => exact withA_wf fun _ => mrowIssue_wf h
  case enl | fix => exact withA_wf fun _ => engIssue_wf h
  case csrr => exact withB_wf fun _ => csrrIssue_wf h
  case csrw | csrs | csrc => exact withB_wf fun _ => csrwIssue_wf h
  case ffmaImm => exact execFfmaImm_wf h
  case pblk => exact execPblk_wf h
  case ordp => exact execOrdp_wf h
  case requestTranslate | homeSliceRequest | homeRmw | visitorReadRequest | ownershipRequest | resolveRequest | healingCas =>
    unfold exec
    refine event_wf fun _ => ?_
    exact reqTurn_wf (fun _ => by simp [h]) h
  case directoryGrant | directoryProbe | probeAnswer =>
    unfold exec
    refine event_wf fun _ => ?_
    exact msgTurn_wf (fun _ => by simp [h]) h
  case operandLogEntry | schedmodeWrite | slewup | slewdown | ramplo | spdmGetMeasurements =>
    unfold exec
    refine event_wf fun _ => ?_
    split <;> simp [h]
  case powerOn | domainUp | safelightStep | pendingExchange | rotation | park | sleepExpire | waitvPoll | breakpointMatch | preempt |
      saveRecordReserved | preemptSave | blockResume | cancel | deferredFault | heldFaultRecordWrite | fltreply | oplogReplay |
      loadResponse | longOpArrival | storeAck | writeBufferDrain | instructionFetch | tlbWalkDone | mWriteback | patrolScrub |
      xlatPurge | migrationStart | migrationSwitch | migrationRelease | cxlHostSharedRead | cxlHostOwnershipRead | cxlHostWriteBack |
      backInvalidationResponse | bridgeAccess | inboundAccess | podRemoteRequest | linkBeatCrcError | starvationToken | matrixOpTurn |
      engineCommandStart | engineCompletion | launchAtRoot | glaunchIssue | glaunchReply | pavilionDeal | pergolaPlace |
      arborUnitArrival | blockStart | arborOffer | pergolaOffer | freeCountPublish | blockRetire | countReport | notify | qcmdLoad |
      qcmdDisable | queueInvalidation | entryNop | entryLaunch | entryWait | queueWaitPoll | entrySignal | entryFence | arbpre |
      l2split | l2splitDone | relcmdStart | relcmdRetire | relcmdSweep | orangeryCopy | sweepWord | dbgcmdRelease | dbgcmdDiscard |
      dbgcmdBreak | topobaseWrite | cntclr | dirrd | dirrdDone | registerWrite | spdmGetVersion | spdmGetCapabilities |
      spdmNegotiateAlgorithms | spdmGetDigests | spdmGetCertificate | spdmChallenge | spdmUnsupported | powerLoss |
      outsideRatedConditions | firmwareUpdate | linkTraining =>
    unfold exec
    refine event_wf fun _ => ?_
    simp [h]

@[simp] theorem runPath_wf {s : State} {r : PathRef} (h : Memory.wf s.mem) : OutWf (runPath s r) := by
  unfold runPath
  repeat' split
  all_goals simp [h]

@[simp] theorem noteIssue_mem (s : State) (ck isl : Nat) (r : PathRef) : (noteIssue s ck isl r).mem = s.mem := (rfl)

@[simp] theorem tradePlace_mem (s : State) (ck isl : Nat) (r : PathRef) : (tradePlace s ck isl r).mem = s.mem := by
  unfold tradePlace
  repeat' split
  all_goals simp

@[simp] theorem longExchange_mem (s : State) (r : PathRef) : (longExchange s r).mem = s.mem := by
  unfold longExchange
  repeat' split
  all_goals simp

@[simp] theorem settleTrade_mem (s : State) (r : PathRef) : (settleTrade s r).mem = s.mem := by
  unfold settleTrade
  repeat' split
  all_goals simp

@[simp] theorem settleIssue_wf {s : State} {r : PathRef} {o : Host.Outcome State Fault Refusal} (ho : OutWf o) :
    OutWf (settleIssue s r o) := by
  unfold settleIssue
  split
  · rw [outWf_next, settleTrade_mem]
    split <;> simpa using ho
  · exact ho

@[simp] theorem runEvent_wf {s : State} {i : Instr} {a : EvArgs} (h : Memory.wf s.mem) : OutWf (runEvent s i a) := by
  unfold runEvent
  split
  · exact exec_wf h
  · exact outWf_next.2 h

@[simp] theorem enterWait_wf {s : State} {r : PathRef} {wt : Wait} (h : Memory.wf s.mem) : OutWf (enterWait s r wt) := by
  have hr : OutWf (runPath s r) := runPath_wf h
  unfold enterWait
  split
  · next e =>
    split
    · simpa using h
    · exact outWf_next.2 (hr _ e)
  · exact hr

@[simp] theorem issueFrom_wf {s : State} {ck isl : Nat} {r : PathRef} (h : Memory.wf s.mem) : OutWf (issueFrom s ck isl r) := by
  unfold issueFrom
  repeat' split
  all_goals simp [h]

@[simp] theorem tick_mem (s : State) : (tick s).mem = s.mem := (rfl)

@[simp] theorem quietMove_wf {s : State} {m : Move} (h : Memory.wf s.mem) : Memory.wf (quietMove s m).mem := by
  unfold quietMove
  split
  · split
    · exact memSet_wf _ _ h
    · exact h
  · simpa using h
  · simpa using h
  · simpa using h
  · simpa using h
  · split
    · exact optWf_getD (unitStep_wf h) h
    · exact h
  · exact portAccept_wf h
  · exact portServe_wf h
  · exact trainEnd_wf h
  · exact h
  · exact h

@[simp] theorem runMove_wf {s : State} {x1 : Move} (h : Memory.wf s.mem) : OutWf (runMove s x1) := by
  unfold runMove
  repeat' split
  all_goals simp [h]

@[simp] theorem firstMove_wf {s : State} (h : Memory.wf s.mem) : ∀ {ms : List Move}, OptWf (firstMove s ms)
  | [] => optWf_none
  | m :: ms => by
    have hm : OutWf (runMove s m) := runMove_wf h
    unfold firstMove
    split
    · next e =>
      split
      · exact optWf_some.2 (hm _ e)
      · exact firstMove_wf h
    · exact firstMove_wf h

@[simp] theorem dropPair_mem (s : State) (r : PathRef) : (dropPair s r).mem = s.mem := (rfl)

@[simp] theorem runPair_wf {s : State} {r : PathRef} (h : Memory.wf s.mem) : OutWf (runPair s r) := by
  unfold runPair
  repeat' split
  all_goals simp [h]

@[simp] theorem idle_wf {s : State} (h : Memory.wf s.mem) : OutWf (idle s) := by
  unfold idle
  split
  · next e => exact outWf_next.2 (firstMove_wf h _ e)
  · split
    · exact issueFrom_wf h
    · split
      · next e => exact outWf_next.2 (firstMove_wf h _ e)
      · exact outWf_next.2 h

@[simp] theorem turn_wf {s : State} (h : Memory.wf s.mem) : OutWf (turn s) := by
  unfold turn
  repeat' split
  all_goals simp [h]

/-! ### Machine/Step -/

@[simp] theorem step_wf {s : State} (h : Memory.wf s.mem) : OutWf (step s) := by simp [step, h]

/-! ### Reset -/

theorem reset_core (ck : Nat) : State.reset.core ck = Core.init := rfl

theorem reset_bay (bk : Nat) : State.reset.bay bk = Bay.init := rfl

theorem reset_domain (dk : Nat) : State.reset.domain dk = Domain.init := rfl

theorem reset_wafer (w : Nat) : State.reset.wafer w = Wafer.init := rfl

end Sys2Proof.Machine

section

open Sys2Proof Sys2Proof.Machine

/-- Settles O2: reset lists no memory, and the empty list is in canonical form. -/
theorem resetMemoryCanonical : Obligations.ResetMemoryCanonical := reset_memory_wf

/-- Settles O33: the lists of reset are empty, and each core, bay, domain and wafer is its unit's initial record. -/
theorem resetLeaves : Obligations.ResetLeaves := by
  refine ⟨rfl, rfl, rfl, rfl, rfl, rfl, rfl, rfl, fun ck => ?_, fun bk => ?_, fun dk => ?_, fun w => ?_⟩
  · rw [reset_core]; exact ⟨rfl, rfl, rfl, rfl, rfl, rfl⟩
  · rw [reset_bay]; exact ⟨rfl, rfl, rfl⟩
  · rw [reset_domain]; exact ⟨rfl, rfl, rfl, rfl, rfl, rfl⟩
  · rw [reset_wafer]; rfl

/-- Settles O1: a step is the second half of a pair, an agenda move or a move of its own, and each keeps the form. -/
theorem stepKeepsMemoryCanonical : Obligations.StepKeepsMemoryCanonical :=
  fun _ _ h e => step_wf h _ e

end

/-!
PROOFS. Faults (spec 02_events): handler entry, the fault record, and the events that deliver, log, answer and replay.

* Handler entry changes one warp, and `enteredWarp` says how.
* The fault record ends a gang: each of its blocks changes `TowardsEnd` only, and stands `Ended` when its own turn has come; the turn of
  one gang's blocks leaves the blocks of other gangs and the counts of faults alone.
* A unit's coherent write, by which records reach their queues, leaves the warps and what is kept of faults alone (`UnitKept`); the
  operand log, the replies and the replay are then stated through what one warp holds after them.
-/

namespace Sys2Proof.Machine

open Sys2Proof

/-! ### Handler entry (R61, R89, R304) -/

/-- The path of a slot at the handler, its reach suspended. -/
def Slot.entered (sl : Slot) (handler : DWord) : Slot :=
  { sl with path := { sl.path with pc := handler &&& ~~~1#64 }, wait := .ready, reach := 0, susp := suspendReach sl.reach,
            ordPfx := none, fetchFault := none }

/-- The warp as handler entry on slot `k` leaves it, l apart. -/
def enteredWarp (w : Warp) (k : Nat) (f : Flt) (handler : DWord) : Warp :=
  { w with csr := w.csr.entry f (match w.slots[k]? with | some sl => sl.path.mask | none => 0), trapSlot := k,
           levels := (leaveLoops w (handler &&& ~~~1#64)).levels, slots := w.slots.modify k (fun sl => sl.entered handler) }

theorem enterHandler_eq (s : State) (r : PathRef) (f : Flt) (handler : DWord) :
    enterHandler s r f handler = (s.updWarp r.bid r.wi (fun w => enteredWarp w r.slot f handler)).undefL r.bid r.wi := rfl

theorem enteredWarp_csr {w : Warp} {k : Nat} {sl : Slot} (hs : w.slots[k]? = some sl) (f : Flt) (handler : DWord) :
    (enteredWarp w k f handler).csr = w.csr.entry f sl.path.mask := by simp only [enteredWarp, hs]

theorem enteredWarp_slot {w : Warp} {k : Nat} {sl : Slot} (hs : w.slots[k]? = some sl) (f : Flt) (handler : DWord) :
    (enteredWarp w k f handler).slots[k]? = some (sl.entered handler) := by
  simp [enteredWarp, hs]

theorem enteredWarp_otherSlot (w : Warp) {k j : Nat} (h : j ≠ k) (f : Flt) (handler : DWord) :
    (enteredWarp w k f handler).slots[j]? = w.slots[j]? := by
  simp [enteredWarp, h.symm]

/-- Only the faulting warp enters the handler; its l is undefined. -/
theorem enterHandler_onlyWarp {s : State} {r : PathRef} {b : Block} {w : Warp} (f : Flt) (handler : DWord)
    (hb : s.block? r.bid = some b) (hw : b.warps[r.wi]? = some w) :
    ∃ l', OnlyWarp s (enterHandler s r f handler) r b { enteredWarp w r.slot f handler with l := l' } :=
  ((OnlyWarp.refl hb hw).updWarp hw (fun w => enteredWarp w r.slot f handler)).undefL hw

/-! ### Where a fault goes (R59) -/

theorem takeFault_handler {s : State} {r : PathRef} {b : Block} {w : Warp} {f : Flt} (hb : s.block? r.bid = some b)
    (hw : b.warps[r.wi]? = some w) (h : b.lrec.handler ≠ 0 ∧ f.code ≠ codeEcc ∧ w.inTrap = false) :
    takeFault s r f = enterHandler s r f b.lrec.handler := by
  have hw' : s.warp? r.bid r.wi = some w := by simp [State.warp?, hb, hw]
  simp only [takeFault, hb, hw', if_pos h]

/-! ### Blocks and warps that change in place -/

section
variable {R : Block → Block → Prop} {Q : Warp → Warp → Prop} {s t u : State}

/-- The block that a number names is still there, changed as `R` says. -/
def BlocksTo (R : Block → Block → Prop) (s t : State) : Prop :=
  ∀ bid b, s.block? bid = some b → ∃ b', t.block? bid = some b' ∧ R b b'

/-- Each warp of a list is in its place, changed as `Q` says. -/
def WarpsTo (Q : Warp → Warp → Prop) (ws ws' : List Warp) : Prop :=
  ws'.length = ws.length ∧ ∀ (i : Nat) w, ws[i]? = some w → ∃ w', ws'[i]? = some w' ∧ Q w w'

theorem BlocksTo.trans (hR : ∀ {a b c}, R a b → R b c → R a c) (h : BlocksTo R s t) (h' : BlocksTo R t u) : BlocksTo R s u := by
  intro bid b hb
  obtain ⟨b1, hb1, h1⟩ := h bid b hb
  obtain ⟨b2, hb2, h2⟩ := h' bid b1 hb1
  exact ⟨b2, hb2, hR h1 h2⟩

/-- A change of each listed block in place, by number. -/
theorem block?_map {f : Block → Block} (hf : ∀ b, (f b).bid = b.bid) (h : t.blocks = s.blocks.map f) (bid : Nat) :
    t.block? bid = (s.block? bid).map f := by
  have hp : (fun b => b.bid == bid) ∘ f = fun b => b.bid == bid := by funext b; simp [hf]
  simp only [State.block?, h, List.find?_map, hp]

theorem BlocksTo.of_map {f : Block → Block} (hf : ∀ b, (f b).bid = b.bid) (hR : ∀ b, R b (f b)) (h : t.blocks = s.blocks.map f) :
    BlocksTo R s t := by
  intro bid b hb
  exact ⟨f b, by rw [block?_map hf h, hb]; rfl, hR b⟩

theorem BlocksTo.of_eq (hR : ∀ b, R b b) (h : t.blocks = s.blocks) : BlocksTo R s t :=
  .of_map (f := id) (fun _ => rfl) hR (by simpa using h)

theorem BlocksTo.updBlock (hR : ∀ b, R b b) {bid : Nat} {f : Block → Block} (hf : ∀ b, (f b).bid = b.bid) (h : ∀ b, R b (f b)) :
    BlocksTo R s (s.updBlock bid f) := by
  refine .of_map (f := fun b => if b.bid = bid then f b else b) (fun b => ?_) (fun b => ?_) rfl
  · split
    · exact hf b
    · rfl
  · split
    · exact h b
    · exact hR b

theorem BlocksTo.foldl {α : Type} (hR : ∀ b, R b b) (ht : ∀ {a b c}, R a b → R b c → R a c) {f : State → α → State}
    (hf : ∀ s x, BlocksTo R s (f s x)) (l : List α) (s : State) : BlocksTo R s (l.foldl f s) :=
  List.foldlRecOn (motive := BlocksTo R s) l f (.of_eq hR rfl) fun t h x _ => h.trans ht (hf t x)

theorem WarpsTo.refl (hQ : ∀ w, Q w w) (ws : List Warp) : WarpsTo Q ws ws := ⟨rfl, fun _ w hw => ⟨w, hw, hQ w⟩⟩

theorem WarpsTo.trans {a b c : List Warp} (hQ : ∀ {x y z}, Q x y → Q y z → Q x z) (h : WarpsTo Q a b) (h' : WarpsTo Q b c) :
    WarpsTo Q a c := by
  refine ⟨h'.1.trans h.1, fun i w hw => ?_⟩
  obtain ⟨w1, hw1, h1⟩ := h.2 i w hw
  obtain ⟨w2, hw2, h2⟩ := h'.2 i w1 hw1
  exact ⟨w2, hw2, hQ h1 h2⟩

theorem WarpsTo.map {f : Warp → Warp} (h : ∀ w, Q w (f w)) (ws : List Warp) : WarpsTo Q ws (ws.map f) :=
  ⟨by simp, fun i w hw => ⟨f w, by simp [hw], h w⟩⟩

theorem WarpsTo.modify (hQ : ∀ w, Q w w) {f : Warp → Warp} (h : ∀ w, Q w (f w)) (wi : Nat) (ws : List Warp) :
    WarpsTo Q ws (ws.modify wi f) := by
  refine ⟨by simp, fun i w hw => ?_⟩
  by_cases hi : wi = i
  · exact ⟨f w, by simp [hi, hw], h w⟩
  · exact ⟨w, by simp [hi, hw], hQ w⟩

@[simp] theorem foldl_blocks {α : Type} {f : State → α → State} (hf : ∀ s x, (f s x).blocks = s.blocks) (l : List α) (s : State) :
    (l.foldl f s).blocks = s.blocks :=
  List.foldlRecOn (motive := fun t => t.blocks = s.blocks) l f rfl fun t ht x _ => (hf t x).trans ht

end

/-! ### On the way to a block's end (R46, R59) -/

/-- A block goes on to its end: none of its warps comes back from its exit, and the block's own end stands. -/
structure TowardsEnd (b b' : Block) : Prop where
  bid : b'.bid = b.bid
  gang : b'.gangId = b.gangId
  ending : b.phase = .ending → b'.phase = .ending
  warps : WarpsTo (fun w w' => w.done = true → w'.done = true) b.warps b'.warps

theorem TowardsEnd.refl (b : Block) : TowardsEnd b b := ⟨rfl, rfl, id, .refl (fun _ => id) _⟩

theorem TowardsEnd.trans {a b c : Block} (h : TowardsEnd a b) (h' : TowardsEnd b c) : TowardsEnd a c :=
  ⟨h'.bid.trans h.bid, h'.gang.trans h.gang, h'.ending ∘ h.ending, h.warps.trans (fun f g => g ∘ f) h'.warps⟩

/-- The block has ended and its warps are Exited. -/
def Block.Ended (b : Block) : Prop := b.phase = .ending ∧ ∀ w ∈ b.warps, w.done = true

theorem TowardsEnd.ended {b b' : Block} (h : TowardsEnd b b') (he : b.Ended) : b'.Ended := by
  refine ⟨h.ending he.1, fun w hw => ?_⟩
  obtain ⟨i, hi⟩ := List.mem_iff_getElem?.1 hw
  have hl : i < b.warps.length := h.warps.1 ▸ (List.getElem?_eq_some_iff.1 hi).1
  obtain ⟨w', hw', hd⟩ := h.warps.2 i b.warps[i] (List.getElem?_eq_getElem hl)
  obtain rfl : w' = w := by simpa [hi] using hw'.symm
  exact hd (he.2 _ (List.getElem_mem hl))

theorem goOn_done (w : Warp) (k len : Nat) : (w.goOn k len).done = w.done := by
  unfold Warp.goOn
  split
  · rfl
  · rename_i sl _
    obtain ⟨lv, c0, c1, h⟩ := loopEnd_rest 3 w (sl.path.pc + BitVec.ofNat 64 len)
    simp only [h]

theorem releaseWaits_done (w : Warp) (p : Wait → Bool) (len : Nat) : (w.releaseWaits p len).1.done = w.done := by
  refine List.foldlRecOn (motive := fun (acc : Warp × Bool) => acc.1.done = w.done) _ _ rfl fun acc h k _ => ?_
  split
  · split
    · exact (goOn_done acc.1 k len).trans h
    · exact h
  · exact h

theorem releasedWarps_to (ws : List Warp) (p : Wait → Bool) (len : Nat) :
    WarpsTo (fun w w' => w.done = true → w'.done = true) ws ((ws.map (fun w => w.releaseWaits p len)).map (·.1)) := by
  rw [List.map_map]
  exact .map (fun w h => (releaseWaits_done w p len).trans h) ws

theorem testBar_towardsEnd (b : Block) (n : Nat) : TowardsEnd b (testBar b n) := by
  simp only [testBar]
  split
  · exact ⟨rfl, rfl, id, releasedWarps_to _ _ _⟩
  · exact .refl b

theorem finishGbar_towardsEnd (b : Block) : TowardsEnd b (finishGbar b) := ⟨rfl, rfl, id, releasedWarps_to _ _ _⟩

theorem testGbar_blocks (s : State) (gang : Nat) : (testGbar s gang).blocks = s.blocks ∨
    (testGbar s gang).blocks = s.blocks.map (fun b => if b.gangId = gang then finishGbar b else b) := by
  simp only [testGbar]
  split
  · exact .inr (foldl_blocks (f := fun s (b : Block) => acquireL1 s b.core) (fun _ _ => rfl) _ _)
  · exact .inl rfl

theorem testGbar_towardsEnd (s : State) (gang : Nat) : BlocksTo TowardsEnd s (testGbar s gang) := by
  rcases testGbar_blocks s gang with h | h
  · exact .of_eq .refl h
  · refine .of_map (fun b => ?_) (fun b => ?_) h
    · split <;> rfl
    · split
      · exact finishGbar_towardsEnd b
      · exact .refl b

/-- The completion test of the gang barrier leaves a block of another gang alone. -/
theorem testGbar_otherGang {s : State} {gang bid : Nat} {x : Block} (hx : s.block? bid = some x) (hg : x.gangId ≠ gang) :
    (testGbar s gang).block? bid = some x := by
  rcases testGbar_blocks s gang with h | h
  · simpa only [State.block?, h] using hx
  · rw [block?_map (fun b => by split <;> rfl) h, hx, Option.map_some, if_neg hg]

/-! ### A warp exits (R46) -/

/-- The warp as its exit leaves it. -/
def exitedWarp (w : Warp) : Warp :=
  { w with done := true, exited := BitVec.allOnes 32, slots := w.slots.map (fun _ => Slot.empty), spill := [], levels := [],
           log := w.log.map (fun e => if e.memfx || e.kind == 4 then e else LogEnt.empty) }

/-- The block's barriers without warp `wi`, and their completion tests (R428). -/
def barsWithout (wi : Nat) (b : Block) : Block :=
  let clr (x : DWord) : DWord := x &&& ~~~((1#64 <<< wi) ||| (1#64 <<< (32 + wi)))
  (List.range 16).foldl testBar { b with bars := b.bars.map (fun e => (e.1, clr e.2)), gbar := clr b.gbar }

theorem barsWithout_towardsEnd (wi : Nat) (b : Block) : TowardsEnd b (barsWithout wi b) :=
  List.foldlRecOn (motive := TowardsEnd b) _ _ ⟨rfl, rfl, id, .refl (fun _ => id) _⟩ fun b' h n _ => h.trans (testBar_towardsEnd b' n)

theorem exitWarp_blocks {s : State} {bid : Nat} {b : Block} (wi : Nat) (hb : s.block? bid = some b) :
    (exitWarp s bid wi).blocks = (testGbar ((s.updWarp bid wi exitedWarp).updBlock bid (barsWithout wi)) b.gangId).blocks := by
  simp only [exitWarp, hb]
  cases b.warps[wi]? <;> rfl

theorem exitedWarp_towardsEnd (s : State) (bid wi : Nat) : BlocksTo TowardsEnd s (s.updWarp bid wi exitedWarp) :=
  .updBlock .refl (fun _ => rfl) fun _ => ⟨rfl, rfl, id, .modify (fun _ => id) (fun _ _ => rfl) _ _⟩

theorem barsWithout_state_towardsEnd (s : State) (bid wi : Nat) : BlocksTo TowardsEnd s (s.updBlock bid (barsWithout wi)) :=
  .updBlock .refl (fun b => (barsWithout_towardsEnd wi b).bid) (barsWithout_towardsEnd wi)

/-- What follows the exit of the warp itself. -/
theorem exitWarp_rest_towardsEnd {s : State} {bid : Nat} {b : Block} (wi : Nat) (hb : s.block? bid = some b) :
    BlocksTo TowardsEnd (s.updWarp bid wi exitedWarp) (exitWarp s bid wi) :=
  ((barsWithout_state_towardsEnd _ bid wi).trans .trans (testGbar_towardsEnd _ b.gangId)).trans .trans
    (.of_eq .refl (exitWarp_blocks wi hb))

theorem exitWarp_towardsEnd (s : State) (bid wi : Nat) : BlocksTo TowardsEnd s (exitWarp s bid wi) := by
  cases hb : s.block? bid with
  | none => simp only [exitWarp, hb]; exact .of_eq .refl rfl
  | some b => exact (exitedWarp_towardsEnd s bid wi).trans .trans (exitWarp_rest_towardsEnd wi hb)

theorem exitWarp_done {s : State} {bid wi : Nat} {b : Block} {w : Warp} (hb : s.block? bid = some b) (hw : b.warps[wi]? = some w) :
    ∃ b' w', (exitWarp s bid wi).block? bid = some b' ∧ b'.warps[wi]? = some w' ∧ w'.done = true := by
  obtain ⟨b', hb', h⟩ := exitWarp_rest_towardsEnd wi hb bid _ (State.block?_updWarp_same exitedWarp hb)
  obtain ⟨w', hw', hd⟩ := h.warps.2 wi (exitedWarp w) (by simp [hw])
  exact ⟨b', w', hb', hw', hd rfl⟩

/-- The exit of a warp leaves the blocks of other gangs alone. -/
theorem exitWarp_otherGang {s : State} {bid k : Nat} {b x : Block} (wi : Nat) (hb : s.block? bid = some b) (hx : s.block? k = some x)
    (hk : k ≠ bid) (hg : x.gangId ≠ b.gangId) : (exitWarp s bid wi).block? k = some x := by
  have h : ((s.updWarp bid wi exitedWarp).updBlock bid (barsWithout wi)).block? k = some x := by
    rw [State.block?_updBlock_other _ (fun b => (barsWithout_towardsEnd wi b).bid) hk, State.block?_updWarp_other _ hk, hx]
  simpa only [State.block?, exitWarp_blocks wi hb] using testGbar_otherGang h hg

/-! ### A gang is terminated (R59, R69) -/

theorem dropRecord_towardsEnd (s : State) (b : Block) : BlocksTo TowardsEnd s (dropRecord s b) := by
  unfold dropRecord
  split
  · exact .of_eq .refl rfl
  · rename_i pa _
    exact .updBlock (s := freeRecord s b.home pa) .refl (fun _ => rfl) fun _ => ⟨rfl, rfl, id, .refl (fun _ => id) _⟩

theorem dropRecord_otherBlock (s : State) (b : Block) {k : Nat} (hk : k ≠ b.bid) : (dropRecord s b).block? k = s.block? k := by
  unfold dropRecord
  split
  · rfl
  · exact State.block?_updBlock_other _ (fun _ => rfl) hk

/-- The warps listed exit one after the other. -/
def exitWarps (s : State) (bid : Nat) (l : List Nat) : State := l.foldl (fun s i => exitWarp s bid i) s

theorem exitWarps_towardsEnd (s : State) (bid : Nat) (l : List Nat) : BlocksTo TowardsEnd s (exitWarps s bid l) :=
  .foldl .refl .trans (fun s i => exitWarp_towardsEnd s bid i) l s

/-- After the exits of all warps of a block, all are Exited. -/
theorem exitWarps_done (bid : Nat) : ∀ (l : List Nat) (s : State) (b : Block), s.block? bid = some b → (∀ i ∈ l, i < b.warps.length) →
    ∃ b', (exitWarps s bid l).block? bid = some b' ∧ b'.warps.length = b.warps.length ∧
      ∀ i ∈ l, ∃ w, b'.warps[i]? = some w ∧ w.done = true
  | [], _, b, hb, _ => ⟨b, hb, rfl, nofun⟩
  | i :: l, s, b, hb, hl => by
    obtain ⟨b1, w1, hb1, hw1, hd1⟩ := exitWarp_done hb (List.getElem?_eq_getElem (hl i (by simp)))
    obtain ⟨b1', hb1', h1⟩ := exitWarp_towardsEnd s bid i bid b hb
    obtain rfl : b1 = b1' := by simpa [hb1] using hb1'
    obtain ⟨b2, hb2, hn2, hd2⟩ := exitWarps_done bid l (exitWarp s bid i) b1 hb1 fun j hj => h1.warps.1 ▸ hl j (by simp [hj])
    obtain ⟨b2', hb2', h2⟩ := exitWarps_towardsEnd (exitWarp s bid i) bid l bid b1 hb1
    obtain rfl : b2 = b2' := by simpa [hb2] using hb2'
    obtain ⟨w2, hw2, hd⟩ := h2.warps.2 i w1 hw1
    exact ⟨b2, hb2, hn2.trans h1.warps.1, List.forall_mem_cons.2 ⟨⟨w2, hw2, hd hd1⟩, hd2⟩⟩

/-- The exits of warps of a block leave the blocks of other gangs alone. -/
theorem exitWarps_otherGang {bid k : Nat} {x : Block} (hk : k ≠ bid) : ∀ (l : List Nat) {s : State} {b : Block}, s.block? bid = some b →
    s.block? k = some x → x.gangId ≠ b.gangId → (exitWarps s bid l).block? k = some x
  | [], _, _, _, hx, _ => hx
  | i :: l, s, b, hb, hx, hg => by
    obtain ⟨b1, hb1, h1⟩ := exitWarp_towardsEnd s bid i bid b hb
    exact exitWarps_otherGang hk l hb1 (exitWarp_otherGang i hb hx hk hg) (h1.gang ▸ hg)

/-- A block as termination marks it. -/
def Block.terminated (b : Block) : Block := { b with phase := .ending, killed := true }

/-- A block of a gang is terminated: its record goes back, its warps exit, and it ends. -/
def terminateBlock (s : State) (b : Block) : State :=
  (exitWarps (dropRecord s b) b.bid (List.range b.warps.length)).updBlock b.bid Block.terminated

/-- The members of a gang that are saved retire. -/
def retireSaved (s : State) (gang : Nat) : State :=
  match s.blocks.filter (fun b => b.gangId = gang) with
  | [] => s
  | b :: _ => ((s.domain b.home).saved.filter (fun v => v.key == gang)).foldl
      (fun s v => dropSaved s b.home v (fun c => { c with retired := c.retired + 1 })) s

theorem terminateGang_eq (s : State) (gang : Nat) :
    terminateGang s gang = (s.blocks.filter (fun b => b.gangId = gang)).foldl terminateBlock (retireSaved s gang) := rfl

theorem retireSaved_blocks (s : State) (gang : Nat) : (retireSaved s gang).blocks = s.blocks := by
  unfold retireSaved
  split
  · rfl
  · exact foldl_blocks (f := fun s v => dropSaved s _ v _) (fun _ _ => rfl) _ _

theorem terminated_towardsEnd (s : State) (bid : Nat) : BlocksTo TowardsEnd s (s.updBlock bid Block.terminated) :=
  .updBlock .refl (fun _ => rfl) fun _ => ⟨rfl, rfl, fun _ => rfl, .refl (fun _ => id) _⟩

theorem terminateBlock_towardsEnd (s : State) (b : Block) : BlocksTo TowardsEnd s (terminateBlock s b) :=
  ((dropRecord_towardsEnd s b).trans .trans (exitWarps_towardsEnd _ b.bid _)).trans .trans (terminated_towardsEnd _ b.bid)

theorem terminateBlocks_towardsEnd (s : State) (l : List Block) : BlocksTo TowardsEnd s (l.foldl terminateBlock s) :=
  .foldl .refl .trans terminateBlock_towardsEnd l s

theorem terminateBlock_ended {s : State} {b x : Block} (hx : s.block? b.bid = some x) (hn : x.warps.length = b.warps.length) :
    ∃ x', (terminateBlock s b).block? b.bid = some x' ∧ x'.Ended := by
  obtain ⟨x1, hx1, h1⟩ := dropRecord_towardsEnd s b b.bid x hx
  have hl : x1.warps.length = b.warps.length := h1.warps.1.trans hn
  obtain ⟨x2, hx2, hn2, hd⟩ := exitWarps_done b.bid (List.range b.warps.length) _ x1 hx1 (by simp [hl])
  refine ⟨_, State.block?_updBlock_same _ (fun _ => rfl) hx2, rfl, fun w hw => ?_⟩
  obtain ⟨i, hi⟩ := List.mem_iff_getElem?.1 hw
  have hil : i < b.warps.length := hl ▸ hn2 ▸ (List.getElem?_eq_some_iff.1 hi).1
  obtain ⟨w', hw', hdw⟩ := hd i (List.mem_range.2 hil)
  obtain rfl : w' = w := Option.some.inj (hw'.symm.trans hi)
  exact hdw

theorem terminateBlock_otherGang {s : State} {b y x : Block} {k : Nat} (hy : s.block? b.bid = some y) (hx : s.block? k = some x)
    (hk : k ≠ b.bid) (hg : x.gangId ≠ y.gangId) : (terminateBlock s b).block? k = some x := by
  obtain ⟨y1, hy1, h1⟩ := dropRecord_towardsEnd s b b.bid y hy
  rw [terminateBlock, State.block?_updBlock_other Block.terminated (fun _ => rfl) hk]
  exact exitWarps_otherGang hk _ hy1 ((dropRecord_otherBlock s b hk).trans hx) (h1.gang ▸ hg)

/-- Each block terminated stands Ended at the end, with as many warps as it had. -/
theorem terminateBlocks_ended {l : List Block} {s : State} {x : Block} (hx : s.block? x.bid = some x) (hm : x ∈ l) :
    ∃ x', (l.foldl terminateBlock s).block? x.bid = some x' ∧ x'.warps.length = x.warps.length ∧ x'.Ended := by
  obtain ⟨pre, post, rfl⟩ := List.append_of_mem hm
  obtain ⟨x1, hx1, h1⟩ := terminateBlocks_towardsEnd s pre x.bid x hx
  obtain ⟨x2, hx2, he⟩ := terminateBlock_ended hx1 h1.warps.1
  obtain ⟨x2', hx2', h2⟩ := terminateBlock_towardsEnd (pre.foldl terminateBlock s) x x.bid x1 hx1
  obtain rfl : x2 = x2' := Option.some.inj (hx2.symm.trans hx2')
  obtain ⟨x3, hx3, h3⟩ := terminateBlocks_towardsEnd (terminateBlock (pre.foldl terminateBlock s) x) post x.bid x2 hx2
  rw [List.foldl_append]
  exact ⟨x3, hx3, h3.warps.1.trans (h2.warps.1.trans h1.warps.1), h3.ended he⟩

/-- Blocks of one gang terminated leave a block of another gang alone. -/
theorem terminateBlocks_otherGang {gang k : Nat} {x : Block} (hg : x.gangId ≠ gang) : ∀ (l : List Block) {s : State},
    (∀ y ∈ l, k ≠ y.bid ∧ ∃ y', s.block? y.bid = some y' ∧ y'.gangId = gang) → s.block? k = some x →
    (l.foldl terminateBlock s).block? k = some x
  | [], _, _, hx => hx
  | b :: l, s, hl, hx => by
    obtain ⟨hk, y, hy, hyg⟩ := hl b (by simp)
    refine terminateBlocks_otherGang hg l (fun z hz => ?_) (terminateBlock_otherGang hy hx hk (hyg ▸ hg))
    obtain ⟨hkz, z1, hz1, hzg⟩ := hl z (by simp [hz])
    obtain ⟨z2, hz2, h2⟩ := terminateBlock_towardsEnd s b z.bid z1 hz1
    exact ⟨hkz, z2, hz2, h2.gang.trans hzg⟩

theorem terminateGang_ended {s : State} {gang : Nat} {x : Block} (hx : s.block? x.bid = some x) (hg : x.gangId = gang) :
    ∃ x', (terminateGang s gang).block? x.bid = some x' ∧ x'.warps.length = x.warps.length ∧ x'.Ended := by
  rw [terminateGang_eq]
  have hx' : (retireSaved s gang).block? x.bid = some x := by simpa only [State.block?, retireSaved_blocks] using hx
  exact terminateBlocks_ended hx' (by simp [List.mem_of_find?_eq_some hx, hg])

theorem terminateGang_otherGang {s : State} {gang : Nat} {x : Block} (hx : s.block? x.bid = some x)
    (h : ∀ y ∈ s.blocks, y.gangId = gang → s.block? y.bid = some y ∧ y.bid ≠ x.bid) :
    (terminateGang s gang).block? x.bid = some x := by
  rw [terminateGang_eq]
  have hr : ∀ bid, (retireSaved s gang).block? bid = s.block? bid := fun bid => by simp only [State.block?, retireSaved_blocks]
  refine terminateBlocks_otherGang (gang := gang) (fun hg => ?_) _ (fun y hy => ?_) ((hr _).trans hx)
  · exact (h x (List.mem_of_find?_eq_some hx) hg).2 rfl
  · simp only [List.mem_filter, decide_eq_true_eq] at hy
    obtain ⟨hy1, hy2⟩ := h y hy.1 hy.2
    exact ⟨hy2.symm, y, (hr _).trans hy1, hy.2⟩

/-! ### The Arbor's counts of a grid (R208) -/

/-- Every grid is still there, and every Arbor's faults of it are counted as before. -/
def FaultCountsKept (s t : State) : Prop :=
  ∀ gid g, s.grid? gid = some g → ∃ g', t.grid? gid = some g' ∧
    ∀ dk, (g'.arbors.get .zero dk).faults = (g.arbors.get .zero dk).faults ∧ (g'.arbors.get .zero dk).first = (g.arbors.get .zero dk).first

theorem FaultCountsKept.of_eq {s t : State} (h : t.grids = s.grids) : FaultCountsKept s t :=
  fun gid g hg => ⟨g, by simpa only [State.grid?, h] using hg, fun _ => ⟨rfl, rfl⟩⟩

theorem FaultCountsKept.trans {s t u : State} (h : FaultCountsKept s t) (h' : FaultCountsKept t u) : FaultCountsKept s u := by
  intro gid g hg
  obtain ⟨g1, hg1, h1⟩ := h gid g hg
  obtain ⟨g2, hg2, h2⟩ := h' gid g1 hg1
  exact ⟨g2, hg2, fun dk => ⟨(h2 dk).1.trans (h1 dk).1, (h2 dk).2.trans (h1 dk).2⟩⟩

theorem FaultCountsKept.foldl {α : Type} {f : State → α → State} (hf : ∀ s x, FaultCountsKept s (f s x)) (l : List α) (s : State) :
    FaultCountsKept s (l.foldl f s) :=
  List.foldlRecOn (motive := FaultCountsKept s) l f (.of_eq rfl) fun t h x _ => h.trans (hf t x)

/-- A grid with one Arbor's counts changed. -/
def Grid.updArbor (g : Grid) (dk : Nat) (f : GridCnt → GridCnt) : Grid := { g with arbors := g.arbors.set dk (f (g.arbors.get .zero dk)) }

theorem grid?_updArbor (s : State) (gid dk : Nat) (f : GridCnt → GridCnt) (gid' : Nat) :
    (s.updArbor gid dk f).grid? gid' = (s.grid? gid').map (fun g => if g.gid = gid then g.updArbor dk f else g) := by
  have hp : ((fun g : Grid => g.gid == gid') ∘ fun g => if g.gid = gid then g.updArbor dk f else g) = fun g => g.gid == gid' := by
    funext g; simp only [Function.comp]; split <;> rfl
  have h : (s.updArbor gid dk f).grids = s.grids.map (fun g => if g.gid = gid then g.updArbor dk f else g) := rfl
  simp only [State.grid?, h, List.find?_map, hp]

@[simp] theorem Grid.updArbor_same (g : Grid) (dk : Nat) (f : GridCnt → GridCnt) :
    (g.updArbor dk f).arbors.get .zero dk = f (g.arbors.get .zero dk) := Tab.get_set_same ..

@[simp] theorem Grid.updArbor_other (g : Grid) {dk dk' : Nat} (f : GridCnt → GridCnt) (h : dk' ≠ dk) :
    (g.updArbor dk f).arbors.get .zero dk' = g.arbors.get .zero dk' := Tab.get_set_other _ _ _ h

theorem updArbor_faultCountsKept (s : State) (gid dk : Nat) {f : GridCnt → GridCnt}
    (hf : ∀ c, (f c).faults = c.faults ∧ (f c).first = c.first) :
    FaultCountsKept s (s.updArbor gid dk f) := by
  intro gid' g hg
  refine ⟨_, by rw [grid?_updArbor, hg, Option.map_some], fun dk' => ?_⟩
  split
  · by_cases h : dk' = dk
    · subst h; simp [hf]
    · simp [h]
  · exact ⟨rfl, rfl⟩

theorem dropSaved_faultCountsKept (s : State) (dk : Nat) (v : Saved) {f : GridCnt → GridCnt}
    (hf : ∀ c, (f c).faults = c.faults ∧ (f c).first = c.first) : FaultCountsKept s (dropSaved s dk v f) :=
  .trans (.of_eq rfl) (updArbor_faultCountsKept _ v.blk.gid dk hf)

theorem retireSaved_faultCountsKept (s : State) (gang : Nat) : FaultCountsKept s (retireSaved s gang) := by
  unfold retireSaved
  split
  · exact .of_eq rfl
  · refine .foldl (fun s v => ?_) _ s
    exact dropSaved_faultCountsKept s _ v fun _ => ⟨rfl, rfl⟩

@[simp] theorem foldl_grids {α : Type} {f : State → α → State} (hf : ∀ s x, (f s x).grids = s.grids) (l : List α) (s : State) :
    (l.foldl f s).grids = s.grids :=
  List.foldlRecOn (motive := fun t => t.grids = s.grids) l f rfl fun t ht x _ => (hf t x).trans ht

@[simp] theorem testGbar_grids (s : State) (gang : Nat) : (testGbar s gang).grids = s.grids := by
  simp only [testGbar]
  split
  · exact foldl_grids (f := fun s (b : Block) => acquireL1 s b.core) (fun _ _ => rfl) _ _
  · rfl

@[simp] theorem exitWarp_grids (s : State) (bid wi : Nat) : (exitWarp s bid wi).grids = s.grids := by
  simp only [exitWarp]
  split
  · rfl
  · split
    · simp [leaveIssue]
    · simp

@[simp] theorem dropRecord_grids (s : State) (b : Block) : (dropRecord s b).grids = s.grids := by
  unfold dropRecord
  split <;> rfl

@[simp] theorem terminateBlock_grids (s : State) (b : Block) : (terminateBlock s b).grids = s.grids := by
  simp [terminateBlock, exitWarps]

theorem terminateGang_faultCountsKept (s : State) (gang : Nat) : FaultCountsKept s (terminateGang s gang) := by
  rw [terminateGang_eq]
  exact (retireSaved_faultCountsKept s gang).trans (.of_eq (by simp))

/-- A fault as the Arbor keeps it if it is the grid's first. -/
def noteOf (b : Block) (wi : Nat) (f : Flt) : FirstFault :=
  { code := f.code, kind := f.kind, source := domOf (dkOfCk b.core) + 64 * waferOf (dkOfCk b.core), slot := slotOfCk b.core, warp := wi,
    member := b.member, lanes := f.lanes, pc := f.pc, addr := f.addr, index := indexWord b.lrec b.linear }

/-- The Arbor of a fault counts it under its code and keeps the first one in full. -/
theorem countFault_counts {s : State} {b : Block} {g : Grid} (hg : s.grid? b.gid = some g) (wi : Nat) (f : Flt) :
    ∃ g', (countFault s b wi f.code f.kind f.lanes f.pc f.addr).grid? b.gid = some g' ∧
      (g'.arbors.get .zero b.home).faults.get 0 f.code.toNat =
        min (2 ^ 32 - 1) ((g.arbors.get .zero b.home).faults.get 0 f.code.toNat + 1) ∧
      (g'.arbors.get .zero b.home).first = some ((g.arbors.get .zero b.home).first.getD (noteOf b wi f)) := by
  have hid : g.gid = b.gid := by simpa using List.find?_some hg
  refine ⟨_, by rw [countFault, grid?_updArbor, hg, Option.map_some, if_pos hid], by simp, ?_⟩
  simp only [Grid.updArbor_same]
  cases (g.arbors.get .zero b.home).first <;> rfl

theorem takeFault_record {s : State} {r : PathRef} {b : Block} {w : Warp} {f : Flt} (hb : s.block? r.bid = some b)
    (hw : b.warps[r.wi]? = some w) (h : b.lrec.handler = 0 ∨ f.code = codeEcc ∨ w.inTrap = true) :
    takeFault s r f = terminateGang (countFault s b r.wi f.code f.kind f.lanes f.pc f.addr) b.gangId := by
  have hw' : s.warp? r.bid r.wi = some w := by simp [State.warp?, hb, hw]
  have hn : ¬(b.lrec.handler ≠ 0 ∧ f.code ≠ codeEcc ∧ w.inTrap = false) := by
    rintro ⟨h1, h2, h3⟩
    exact h.elim h1 fun h => h.elim h2 (by simp [h3])
  simp only [takeFault, hb, hw', if_neg hn]

/-! ### What a unit's coherent access leaves alone (R144) -/

theorem domain_updDomain_same (s : State) (dk : Nat) (f : Domain → Domain) : (s.updDomain dk f).domain dk = f (s.domain dk) :=
  Tab.get_set_same ..

theorem domain_updDomain_other (s : State) {dk dk' : Nat} (f : Domain → Domain) (h : dk' ≠ dk) :
    (s.updDomain dk f).domain dk' = s.domain dk' := Tab.get_set_other _ _ _ h

/-- Whether a request of instruction `tag` has met a translation fault that waits to be logged. -/
def isLogged (tag : Nat) (r : Req) : Bool := r.tag == tag && (match r.stage with | .faulted _ true => true | _ => false)

theorem loggedFaults_eq (s : State) (tag : Nat) : loggedFaults s tag = s.reqs.filter (isLogged tag) := rfl

/-- Two domains agree in the fault queue, its held records and the waiters for replies. -/
def SameFaultQueue (d d' : Domain) : Prop := d'.held = d.held ∧ d'.fltq = d.fltq ∧ d'.waiters = d.waiters

/-- Blocks, translation faults that wait to be logged, and what each domain keeps of faults are as they were. -/
structure UnitKept (s t : State) : Prop where
  blocks : t.blocks = s.blocks
  faults : ∀ tag, loggedFaults t tag = loggedFaults s tag
  queues : ∀ dk, SameFaultQueue (s.domain dk) (t.domain dk)

namespace UnitKept

variable {s t u : State}

theorem refl (s : State) : UnitKept s s := ⟨rfl, fun _ => rfl, fun _ => ⟨rfl, rfl, rfl⟩⟩

theorem trans (h : UnitKept s t) (h' : UnitKept t u) : UnitKept s u where
  blocks := h'.blocks.trans h.blocks
  faults tag := (h'.faults tag).trans (h.faults tag)
  queues dk := by
    obtain ⟨a, b, c⟩ := h.queues dk
    obtain ⟨a', b', c'⟩ := h'.queues dk
    exact ⟨a'.trans a, b'.trans b, c'.trans c⟩

theorem foldl {α : Type} {f : State → α → State} (hf : ∀ s x, UnitKept s (f s x)) (l : List α) (s : State) : UnitKept s (l.foldl f s) :=
  List.foldlRecOn (motive := UnitKept s) l f (refl s) fun t h x _ => h.trans (hf t x)

/-- A change of what a domain keeps, but for its fault queue. -/
theorem updDomain (s : State) (dk : Nat) {f : Domain → Domain} (hf : ∀ d, SameFaultQueue d (f d)) : UnitKept s (s.updDomain dk f) where
  blocks := rfl
  faults _ := rfl
  queues dk' := by
    by_cases h : dk' = dk
    · subst h; rw [domain_updDomain_same]; exact hf _
    · rw [domain_updDomain_other s f h]; exact ⟨rfl, rfl, rfl⟩

theorem of_eq (hb : t.blocks = s.blocks) (hr : t.reqs = s.reqs) (hd : t.domains = s.domains) : UnitKept s t :=
  ⟨hb, fun _ => by simp only [loggedFaults, hr], fun _ => by simp only [State.domain, hd]; exact ⟨rfl, rfl, rfl⟩⟩

theorem storeBytes (s : State) (a : Nat) (bs : List Byte) : UnitKept s (s.storeBytes a bs) := .of_eq rfl rfl rfl

theorem mergeSectors (s : State) (pl : Nat) (dirty : BitVec 4) (bs : List Byte) : UnitKept s (mergeSectors s pl dirty bs) :=
  .foldl (fun s i => by
    split
    · exact storeBytes s _ _
    · exact refl s) _ s

theorem dropVis (s : State) (dk pl : Nat) : UnitKept s (s.dropVis dk pl) := by
  refine .updDomain s dk fun d => ?_
  exact ⟨rfl, rfl, rfl⟩

theorem send (s : State) (m : MsgBody) : UnitKept s (s.send m) := .of_eq rfl rfl rfl

theorem choose (s : State) (n : Nat) : UnitKept s (s.choose n).2 := .of_eq rfl rfl rfl

theorem evictVis (s : State) (dk : Nat) (v : VLine) : UnitKept s (s.evictVis dk v) := by
  simp only [State.evictVis]
  split
  · exact (dropVis s dk v.pline).trans (send _ _)
  · exact dropVis s dk v.pline

/-- The visitor partition with a line put in way `k`. -/
theorem putWay (s : State) (dk : Nat) (v : VLine) (k : Nat) :
    UnitKept s (s.updDomain dk (fun d => { d with visit := d.visit.filter (fun x => x.pline != v.pline) ++ [{ v with way := k }] })) :=
  .updDomain s dk fun _ => ⟨rfl, rfl, rfl⟩

theorem putVis (s : State) (dk : Nat) (v : VLine) : UnitKept s (s.putVis dk v) := by
  simp only [State.putVis]
  split
  · exact putWay s dk v _
  · split
    · exact putWay s dk v _
    · split
      · rename_i x _
        exact ((choose s _).trans (evictVis _ dk x)).trans (putWay _ dk v _)
      · split
        · exact send s _
        · exact refl s

theorem putDir (s : State) (e : DirEnt) : UnitKept s (s.putDir e) := by
  simp only [State.putDir]
  refine .updDomain s _ fun d => ?_
  exact ⟨rfl, rfl, rfl⟩

theorem recallAt (s : State) (dk pl : Nat) (inval : Bool) : UnitKept s (recallAt s dk pl inval) := by
  unfold Machine.recallAt
  split
  · exact refl s
  · rename_i v _
    split
    · have h : UnitKept s (if v.state = .m then Machine.mergeSectors s pl v.dirty v.bytes else s) := by
        split
        · exact mergeSectors s pl _ _
        · exact refl s
      dsimp only
      split
      · exact h.trans (dropVis _ dk pl)
      · exact h.trans (putVis _ dk _)
    · exact refl s

theorem mergeInFlight (s : State) (pl : Nat) : UnitKept s (mergeInFlight s pl) := by
  simp only [Machine.mergeInFlight]
  split
  · refine (UnitKept.foldl (fun s m => ?_) s.msgs s).trans (.of_eq rfl rfl rfl)
    split
    · split
      · split
        · exact (mergeSectors s pl _ _).trans (putDir _ _)
        · exact mergeSectors s pl _ _
      · exact refl s
    · split
      · exact mergeSectors s pl _ _
      · exact refl s
    · exact refl s
  · exact refl s

/-- A change of requests that wait for a grant, to stages still open, leaves the faults that wait to be logged as they were. -/
theorem loggedFaults_map {f : Req → Req} (hf : ∀ r, f r = r ∨ r.stage = .granted ∧ (f r).stage.isOpen = true)
    (h : t.reqs = s.reqs.map f) (tag : Nat) : loggedFaults t tag = loggedFaults s tag := by
  have hp : ∀ r tag, isLogged tag (f r) = isLogged tag r ∧ (isLogged tag r = true → f r = r) := by
    intro r tag
    rcases hf r with hr | ⟨hg, ho⟩
    · exact ⟨by rw [hr], fun _ => hr⟩
    · have h1 : isLogged tag r = false := by simp [isLogged, hg]
      have h2 : isLogged tag (f r) = false := by
        unfold isLogged
        split
        · rename_i h; simp [h, Stage.isOpen] at ho
        · simp
      simp [h1, h2]
  simp only [loggedFaults_eq, h, List.filter_map]
  have hc : isLogged tag ∘ f = isLogged tag := funext fun r => (hp r tag).1
  rw [hc]
  exact (List.map_congr_left fun r hr => (hp r tag).2 (List.mem_filter.1 hr).2).trans (List.map_id _)

theorem cancelGrants (s : State) (pl : Nat) (all : Bool) : UnitKept s (cancelGrants s pl all) := by
  simp only [Machine.cancelGrants]
  split
  · refine ⟨rfl, loggedFaults_map (fun r => ?_) rfl, fun _ => ⟨rfl, rfl, rfl⟩⟩
    split
    · rename_i h
      simp only [Bool.and_eq_true, beq_iff_eq] at h
      exact .inr ⟨h.2, by dsimp only; split <;> rfl⟩
    · exact .inl rfl
  · exact refl s

theorem recallLine (s : State) (pl : Nat) (inval : Bool) : UnitKept s (recallLine s pl inval) := by
  simp only [Machine.recallLine]
  split
  · exact mergeInFlight s pl
  · split
    · exact (((mergeInFlight s pl).trans (cancelGrants _ pl inval)).trans (.foldl (fun s dk => recallAt s dk pl inval) _ _)).trans (putDir _ _)
    · exact mergeInFlight s pl

theorem unitWrite (s : State) (a : Nat) (bs : List Byte) : UnitKept s (s.unitWrite a bs) :=
  (foldl (fun s pl => recallLine s pl true) _ s).trans (storeBytes _ a bs)

end UnitKept

/-! ### Events -/

/-- An event whose effect is `f` takes place with what `f` leaves. -/
theorem happens_of_event {i : Instr} {f : EvArgs → State → State} {pre : State → EvArgs → Prop} {post : State → State → EvArgs → Prop}
    (hi : ∀ s, exec i s = event f s) (h : ∀ s a, pre s a → post s (f a s) a) : Happens i pre post :=
  fun s a ha hp => ⟨f a s, by rw [hi, event, withEv, ha], h s a hp⟩

theorem warp?_of {s : State} {bid wi : Nat} {b : Block} {w : Warp} (hb : s.block? bid = some b) (hw : b.warps[wi]? = some w) :
    s.warp? bid wi = some w := by
  simp only [State.warp?, hb, Option.bind_some, hw]

theorem block?_of_warp? {s : State} {bid wi : Nat} {w : Warp} (h : s.warp? bid wi = some w) :
    ∃ b, s.block? bid = some b ∧ b.warps[wi]? = some w := Option.bind_eq_some_iff.1 h

theorem warp?_of_blocks {s t : State} (h : t.blocks = s.blocks) (bid wi : Nat) : t.warp? bid wi = s.warp? bid wi := by
  simp only [State.warp?, State.block?, h]

theorem warp?_updWarp_same {s : State} {bid wi : Nat} {w : Warp} (f : Warp → Warp) (h : s.warp? bid wi = some w) :
    (s.updWarp bid wi f).warp? bid wi = some (f w) := by
  obtain ⟨b, hb, hw⟩ := block?_of_warp? h
  exact warp?_of (State.block?_updWarp_same f hb) (by simp [hw])

/-! ### Deferred faults (R56, R57) -/

theorem firstDeferred_mem : ∀ {l : List Deferred} {e : Deferred}, firstDeferred l = some e → e ∈ l
  | [], _, h => by simp [firstDeferred] at h
  | d :: t, e, h => by
    simp only [firstDeferred] at h
    split at h
    · simp_all
    · rename_i x hx
      have hm := firstDeferred_mem hx
      split at h <;> simp_all

/-- Of a list that holds it, the fault before all others is the first. -/
theorem firstDeferred_eq {d : Deferred} : ∀ {l : List Deferred}, d ∈ l →
    (∀ x ∈ l, x = d ∨ d.tag < x.tag ∨ (d.tag = x.tag ∧ d.code < x.code)) → firstDeferred l = some d
  | a :: t, hd, h => by
    rw [List.forall_mem_cons] at h
    obtain ⟨ha, ht⟩ := h
    simp only [firstDeferred]
    split
    · rename_i hn
      rcases List.mem_cons.1 hd with rfl | hdt
      · rfl
      · rw [firstDeferred_eq hdt ht] at hn; cases hn
    · rename_i e he
      by_cases hdt : d ∈ t
      · obtain rfl : d = e := Option.some.inj ((firstDeferred_eq hdt ht).symm.trans he)
        split
        · rfl
        · rcases ha with rfl | ha
          · rfl
          · contradiction
      · obtain rfl : d = a := (List.mem_cons.1 hd).resolve_right hdt
        rcases ht e (firstDeferred_mem he) with rfl | hlt
        · simp
        · rw [if_neg]
          rintro (h | ⟨h, h'⟩)
          · omega
          · rcases hlt with hlt | ⟨-, hlt⟩
            · omega
            · exact absurd (BitVec.lt_trans h' hlt) (by simp)

/-- The fault as it is delivered. -/
def Deferred.fault (d : Deferred) : Flt := { code := d.code, kind := d.kind, lanes := d.lanes, addr := d.addr, pc := d.pc }

theorem mem_dueFaults {s : State} {w : Warp} {x : Deferred} :
    x ∈ dueFaults s w ↔ x ∈ w.deferred ∧ (x.tag = 0 ∨ laneOpen s x.tag = false) := by
  simp [dueFaults]

/-- With no fault on its way, the first that is due is delivered: to the fault record when the warp has exited. -/
theorem deliverDeferred_eq {s : State} {bid wi : Nat} {b : Block} {w : Warp} {d : Deferred} (h0 : faultsFor s bid wi = [])
    (hb : s.block? bid = some b) (hw : b.warps[wi]? = some w) (hd : d ∈ w.deferred) (hs : d.tag = 0 ∨ laneOpen s d.tag = false)
    (hf : ∀ x ∈ w.deferred, x.tag = 0 ∨ laneOpen s x.tag = false → x = d ∨ d.tag < x.tag ∨ (d.tag = x.tag ∧ d.code < x.code)) :
    deliverDeferred s bid wi =
      if w.done then (if b.killed then s else recordFault (takeDeferred s bid wi d) bid wi d.fault)
      else match deliverySlot w d with
        | none => s
        | some k => takeFault (takeDeferred s bid wi d) { bid := bid, wi := wi, slot := k } d.fault := by
  have h1 : firstDeferred (dueFaults s w) = some d :=
    firstDeferred_eq (mem_dueFaults.2 ⟨hd, hs⟩) fun x hx => hf x (mem_dueFaults.1 hx).1 (mem_dueFaults.1 hx).2
  simp only [deliverDeferred, h0, List.foldl_nil, hb, warp?_of hb hw, h1]
  rfl

/-! ### Fault-queue records (R60, R103) -/

theorem writeFaultRecord_blocks (s : State) (dk : Nat) (bs : List Byte) : (writeFaultRecord s dk bs).blocks = s.blocks :=
  (UnitKept.unitWrite s _ bs).blocks

theorem writeFaultRecord_faults (s : State) (dk : Nat) (bs : List Byte) (tag : Nat) :
    loggedFaults (writeFaultRecord s dk bs) tag = loggedFaults s tag :=
  (UnitKept.unitWrite s _ bs).faults tag

theorem unitWrite_read (s : State) (a : Nat) (bs : List Byte) : memRead (s.unitWrite a bs).mem a bs.length = bs :=
  memRead_memWrite bs _ a

theorem heldWrite_open {s : State} {dk : Nat} {h : FaultRecEnt} {rest : List FaultRecEnt} (hh : (s.domain dk).held = h :: rest)
    (ho : (s.domain dk).fltq.open = true) :
    heldWrite s dk = (writeFaultRecord s dk h.bytes).updDomain dk (fun d => { d with held := rest }) := by
  simp only [heldWrite, hh, ho, if_true]

theorem writeFaultRecord_fltq (s : State) (dk : Nat) (bs : List Byte) :
    ((writeFaultRecord s dk bs).domain dk).fltq = { (s.domain dk).fltq with prod := (s.domain dk).fltq.prod + 1 } := by
  obtain ⟨-, hq, -⟩ := (UnitKept.unitWrite s ((s.domain dk).fltq.slotAddr (waferOf dk) 32) bs).queues dk
  simp only [writeFaultRecord, domain_updDomain_same, hq]

/-- A record sent is written or held: the warps, and the faults that wait to be logged, are as they were. -/
theorem sendRecord_kept (s : State) (dk : Nat) (r : FRec) (who : Waiter) :
    (sendRecord s dk r who).2.blocks = s.blocks ∧ ∀ tag, loggedFaults (sendRecord s dk r who).2 tag = loggedFaults s tag := by
  simp only [sendRecord]
  split
  · exact ⟨writeFaultRecord_blocks _ _ _, writeFaultRecord_faults _ _ _⟩
  · exact ⟨rfl, fun _ => rfl⟩

/-! ### The operand log (R62) -/

/-- One record of an instruction's faults sent, its token kept beside its code. -/
def sendPageRecord (b : Block) (w : Warp) (kind i tag : Nat) (acc : List (Nat × BitVec 8) × State) (e : PageRec) :
    List (Nat × BitVec 8) × State :=
  let x := sendRecord acc.2 (faultDk (waferOf (dkOfCk b.core)) e.addr) (warpRecord b w e.addr e.code kind i e.lanes) (.logEnt tag)
  (acc.1 ++ [(x.1, e.code)], x.2)

/-- The records of an instruction's faults sent one after the other. -/
def sendRecords (b : Block) (w : Warp) (kind i tag : Nat) (es : List PageRec) (acc : List (Nat × BitVec 8) × State) :
    List (Nat × BitVec 8) × State := es.foldl (sendPageRecord b w kind i tag) acc

theorem sendRecords_spec (b : Block) (w : Warp) (kind i tag : Nat) : ∀ (es : List PageRec) (acc : List (Nat × BitVec 8) × State),
    (sendRecords b w kind i tag es acc).1.map (·.2) = acc.1.map (·.2) ++ es.map (·.code) ∧
    (sendRecords b w kind i tag es acc).2.blocks = acc.2.blocks ∧
    ∀ n, loggedFaults (sendRecords b w kind i tag es acc).2 n = loggedFaults acc.2 n
  | [], _ => ⟨by simp [sendRecords], rfl, fun _ => rfl⟩
  | e :: es, acc => by
    obtain ⟨h1, h2, h3⟩ := sendRecords_spec b w kind i tag es (sendPageRecord b w kind i tag acc e)
    obtain ⟨k2, k3⟩ : (sendPageRecord b w kind i tag acc e).2.blocks = acc.2.blocks ∧
        ∀ n, loggedFaults (sendPageRecord b w kind i tag acc e).2 n = loggedFaults acc.2 n := sendRecord_kept ..
    have k1 : (sendPageRecord b w kind i tag acc e).1.map (·.2) = acc.1.map (·.2) ++ [e.code] := by simp [sendPageRecord]
    exact ⟨h1.trans (by simp [k1]), h2.trans k2, fun n => (h3 n).trans (k3 n)⟩

/-- The state without the requests `fs`. -/
def dropReqs (s : State) (fs : List Req) : State := { s with reqs := s.reqs.filter (fun r => !fs.any (fun x => x.id == r.id)) }

theorem dropReqs_faults (s : State) (tag : Nat) : loggedFaults (dropReqs s (loggedFaults s tag)) tag = [] := by
  rw [loggedFaults_eq, List.filter_eq_nil_iff]
  intro r hr hl
  obtain ⟨hm, hn⟩ := List.mem_filter.1 hr
  have hf : r ∈ loggedFaults s tag := List.mem_filter.2 ⟨hm, hl⟩
  simp only [Bool.not_eq_true', List.any_eq_false, beq_iff_eq] at hn
  exact hn r hf rfl

/-! ### The entry of a logged instruction (R62, R67) -/

/-- The entry that holds the faults `fs` of an instruction in flight, with the tokens of its records; `old` stood in its place. -/
def loggedEntry (p : Pend) (w : Warp) (old : LogEnt) (tag : Nat) (fs : List Req) (toks : List (Nat × BitVec 8)) : LogEnt :=
  let lanes := fs.flatMap (logLanes p)
  let read := fs.any (fun r => r.kind == .resolve && p.kind == .refLoad && !(lanesOf r.laneMask).all (fun l => (p.aux.get? (64 + l)).isSome))
  { state := .pending, pc := p.pc, enc := p.enc, lanes := maskOf (lanes.map (·.1)),
    order := orderWord p.order p.scope ||| (if read then 0x100 else 0), addr := lanes.map (fun l => (l.1, l.2.1)),
    data := lanes.map (fun l => (l.1, l.2.2)), tag := tag, kind := (fs.head?.map (fun r => r.kind.recordKind)).getD 0,
    code := (fs.head?.map (fun r => match r.stage with | .faulted c _ => c | _ => 0)).getD 0, tokens := toks,
    pages := (pageRecords fs).map (·.page), row := 0, memfx := (fs.head?.map (fun r => r.kind.memfx)).getD false && !read,
    seq := if old.state = .free then w.logSeq else old.seq, lane := lowLane (maskOf (lanes.map (·.1))) }

/-- A warp with an instruction logged in entry `i`, which held `old`. -/
def Warp.logAt (w : Warp) (i tag : Nat) (old e : LogEnt) : Warp :=
  { w with log := w.log.set i e, logSeq := if old.state = .free then w.logSeq + 1 else w.logSeq, logWait := w.logWait.filter (· != tag) }

theorem perfAdd_blocks (s : State) (ck ev n : Nat) (priv secure : Bool) : (perfAdd s ck ev n priv secure).blocks = s.blocks := by
  unfold perfAdd
  split <;> rfl

theorem perfAdd_faults (s : State) (ck ev n : Nat) (priv secure : Bool) (tag : Nat) :
    loggedFaults (perfAdd s ck ev n priv secure) tag = loggedFaults s tag := by
  unfold perfAdd
  split <;> rfl

theorem logFaults_place {s : State} {tag i : Nat} {p : Pend} {b : Block} {w : Warp} (hp : s.pend? tag = some p)
    (hb : s.block? p.bid = some b) (hw : b.warps[p.wi]? = some w) (hd : w.done = false) (hl : logPlace w tag = some i) :
    let fs := loggedFaults s tag
    let x := sendRecords b w ((fs.head?.map (fun r => r.kind.recordKind)).getD 0) i tag (pageRecords fs) ([], dropReqs s fs)
    let old := (w.log[i]?).getD LogEnt.empty
    let s2 := x.2.updWarp p.bid p.wi (fun w' => w'.logAt i tag old (loggedEntry p w old tag fs x.1))
    logFaults s tag = if old.state = .free then perfAdd s2 b.core 0x0B 1 w.priv w.secure else s2 := by
  simp only [logFaults, hp, hb, warp?_of hb hw, hd, hl, Bool.false_and, Bool.false_eq_true, if_false]
  cases h1 : loggedFaults s tag <;> cases h2 : w.log[i]? <;> rfl

/-- An instruction logged: none of its faults waits any more, and its warp holds the entry. -/
theorem logFaults_logged {s : State} {tag i : Nat} {p : Pend} {b : Block} {w : Warp} (hp : s.pend? tag = some p)
    (hb : s.block? p.bid = some b) (hw : b.warps[p.wi]? = some w) (hd : w.done = false) (hl : logPlace w tag = some i) :
    let fs := loggedFaults s tag
    let old := (w.log[i]?).getD LogEnt.empty
    loggedFaults (logFaults s tag) tag = [] ∧ ∃ toks, toks.map (·.2) = (pageRecords fs).map (·.code) ∧
      (logFaults s tag).warp? p.bid p.wi = some (w.logAt i tag old (loggedEntry p w old tag fs toks)) := by
  intro fs old
  obtain ⟨h1, h2, h3⟩ := sendRecords_spec b w ((fs.head?.map (fun r => r.kind.recordKind)).getD 0) i tag (pageRecords fs) ([], dropReqs s fs)
  rw [logFaults_place hp hb hw hd hl]
  generalize sendRecords b w _ i tag (pageRecords fs) ([], dropReqs s fs) = x at h1 h2 h3
  have hx : x.2.warp? p.bid p.wi = some w := (warp?_of_blocks h2 p.bid p.wi).trans (warp?_of hb hw)
  have hf : loggedFaults x.2 tag = [] := (h3 tag).trans (dropReqs_faults s tag)
  have hu := warp?_updWarp_same (fun w' => w'.logAt i tag old (loggedEntry p w old tag fs x.1)) hx
  split
  · exact ⟨(perfAdd_faults ..).trans hf, x.1, h1, (warp?_of_blocks (perfAdd_blocks ..) _ _).trans hu⟩
  · exact ⟨hf, x.1, h1, hu⟩

theorem foldl_or_getLsbD {i : Nat} (hi : i < 32) : ∀ (l : List Nat) (m : Word), m.getLsbD i = true ∨ i ∈ l →
    (l.foldl (fun m j => m ||| (1#32 <<< j)) m).getLsbD i = true
  | [], m, h => by simpa using h
  | j :: l, m, h => by
    refine foldl_or_getLsbD hi l _ ?_
    rcases h with h | h
    · simp [h]
    · rcases List.mem_cons.1 h with rfl | h
      · simp [hi]
      · exact .inr h

theorem mem_maskOf {l : List Nat} {i : Nat} (hi : i < 32) (h : i ∈ l) : (maskOf l).getLsbD i = true := foldl_or_getLsbD hi l 0 (.inr h)

/-- The entry holds the lane of each fault, but for a resolve's, which stands for several. -/
theorem loggedEntry_lane (p : Pend) (w : Warp) (old : LogEnt) (tag : Nat) {fs : List Req} (toks : List (Nat × BitVec 8)) {r : Req}
    (hr : r ∈ fs) (hk : r.kind ≠ .resolve) (hi : r.lane < 32) : (loggedEntry p w old tag fs toks).lanes.getLsbD r.lane = true := by
  refine mem_maskOf hi (List.mem_map.2 ⟨(r.lane, r.va, r.logData), List.mem_flatMap.2 ⟨r, hr, ?_⟩, rfl⟩)
  rw [logLanes, if_neg fun h => hk h.1]
  exact List.mem_singleton.2 rfl

/-- With a full log the warp waits for an entry. -/
theorem logFaults_full {s : State} {tag : Nat} {p : Pend} {b : Block} {w : Warp} (hp : s.pend? tag = some p)
    (hb : s.block? p.bid = some b) (hw : b.warps[p.wi]? = some w) (hd : w.done = false) (hl : logPlace w tag = none)
    (hn : tag ∉ w.logWait) : logFaults s tag = s.updWarp p.bid p.wi (fun x => { x with logWait := x.logWait ++ [tag] }) := by
  simp [logFaults, hp, hb, warp?_of hb hw, hd, hl, hn]

theorem logDue_of {s : State} {tag : Nat} {p : Pend} {b : Block} {w : Warp} (hp : s.pend? tag = some p)
    (hb : s.block? p.bid = some b) (hw : b.warps[p.wi]? = some w) (hf : loggedFaults s tag ≠ []) (hu : untranslated s tag = false)
    (h : (logPlace w tag).isSome = true ∨ tag ∉ w.logWait) : logDue s tag = true := by
  simp only [logDue, hp, warp?_of hb hw]
  simpa [hf, hu] using h

/-! ### The pager's replies (R60, R63, R104) -/

theorem get?_erase_same {α : Type} (k : Nat) (t : Tab α) : Tab.get? k (Tab.erase k t) = none := by
  induction t with
  | nil => rfl
  | cons e t ih =>
    unfold Tab.erase at ih ⊢
    by_cases h : e.1 = k
    · simpa [h] using ih
    · have h' : k ≠ e.1 := fun he => h he.symm
      simpa [h, Tab.get?, h'] using ih

/-- The state in which the waiter of a token is no longer listed. -/
def tokenTaken (s : State) (dk token : Nat) : State := s.updDomain dk (fun d => { d with waiters := Tab.erase token d.waiters })

theorem tokenTaken_waiters (s : State) (dk token : Nat) : ((tokenTaken s dk token).domain dk).waiters.get? token = none := by
  rw [tokenTaken, domain_updDomain_same]
  exact get?_erase_same token _

theorem fltReply_ignored {s : State} {dk : Nat} {v : Word} (h : (s.domain dk).waiters.get? (v.toNat % 2 ^ 31) = none) :
    fltReply s dk v = s := by
  simp only [fltReply, h]

theorem fltReply_logEnt {s : State} {dk tag : Nat} {v : Word} (h : (s.domain dk).waiters.get? (v.toNat % 2 ^ 31) = some (.logEnt tag)) :
    fltReply s dk v = replyEntry (tokenTaken s dk (v.toNat % 2 ^ 31)) (v.toNat % 2 ^ 31) (v.getLsbD 31) := by
  simp only [fltReply, h, tokenTaken]

theorem fltReply_fetch {s : State} {dk bid wi k : Nat} {code : BitVec 8} {v : Word}
    (h : (s.domain dk).waiters.get? (v.toNat % 2 ^ 31) = some (.fetch bid wi k code)) :
    fltReply s dk v = replyPath (tokenTaken s dk (v.toNat % 2 ^ 31)) { bid := bid, wi := wi, slot := k } (v.toNat % 2 ^ 31) (v.getLsbD 31)
      (fun sl => { sl with fetchFault := some code }) := by
  simp only [fltReply, h, tokenTaken]

theorem LogEnt.reply_of {e : LogEnt} {token : Nat} {x : Nat × BitVec 8} (fatal : Bool) (hf : e.state ≠ .free)
    (hx : e.tokens.find? (fun y => y.1 == token) = some x) :
    e.reply token fatal = { e with
      tokens := e.tokens.filter (· != x),
      state := if fatal then .fatal else if e.state = .pending ∧ e.tokens.filter (· != x) = [] then .resolved else e.state,
      code := if fatal && e.state != .fatal then x.2 else e.code } := by
  simp only [LogEnt.reply, hx, if_neg hf]

theorem reply_entry {w : Warp} {i : Nat} {e : LogEnt} (he : w.log[i]? = some e) (token : Nat) (fatal : Bool) :
    (w.reply token fatal).log[i]? = some (e.reply token fatal) := by
  simp only [Warp.reply, List.getElem?_map, he, Option.map_some]

/-- The state whose resident blocks have had a reply. -/
def repliedBlocks (s : State) (token : Nat) (fatal : Bool) : State :=
  { s with blocks := s.blocks.map (fun b => if b.holdsToken token then b.reply token fatal else b) }

theorem writeStates_kept (s : State) (v : Saved) : UnitKept s (writeStates s v) := by
  refine .foldl (fun s x => .foldl (fun s y => ?_) _ s) _ s
  split
  · exact .refl s
  · exact .unitWrite s _ _

/-- Beyond the resident blocks a reply changes save records and their images alone. -/
theorem replyEntry_kept (s : State) (token : Nat) (fatal : Bool) : UnitKept (repliedBlocks s token fatal) (replyEntry s token fatal) := by
  simp only [replyEntry]
  refine .foldl (fun s e => ?_) _ (repliedBlocks s token fatal)
  split
  · exact .refl s
  · refine UnitKept.trans (.updDomain s e.1 fun d => ?_) (writeStates_kept _ _)
    exact ⟨rfl, rfl, rfl⟩

theorem holdsToken_of {b : Block} {wi i token : Nat} {w : Warp} {e : LogEnt} {x : Nat × BitVec 8} (hw : b.warps[wi]? = some w)
    (he : w.log[i]? = some e) (hf : e.state ≠ .free) (hx : e.tokens.find? (fun y => y.1 == token) = some x) :
    b.holdsToken token = true := by
  refine List.any_eq_true.2 ⟨w, List.mem_of_getElem? hw, List.any_eq_true.2 ⟨e, List.mem_of_getElem? he, ?_⟩⟩
  have ht : e.tokens.any (fun y => y.1 == token) = true :=
    List.any_eq_true.2 ⟨x, List.mem_of_find?_eq_some hx, List.find?_some (p := fun y : Nat × BitVec 8 => y.1 == token) hx⟩
  simp [hf, ht]

/-- The warp whose log waits for the token has the reply. -/
theorem replyEntry_warp {s : State} {bid wi i token : Nat} {w : Warp} {e : LogEnt} {x : Nat × BitVec 8} (fatal : Bool)
    (hw : s.warp? bid wi = some w) (he : w.log[i]? = some e) (hf : e.state ≠ .free)
    (hx : e.tokens.find? (fun y => y.1 == token) = some x) :
    (replyEntry s token fatal).warp? bid wi = some (w.reply token fatal) := by
  obtain ⟨b, hb, hbw⟩ := block?_of_warp? hw
  have h1 : (repliedBlocks s token fatal).block? bid = some (b.reply token fatal) := by
    rw [block?_map (s := s) (f := fun b => if b.holdsToken token then b.reply token fatal else b) (fun b => by split <;> rfl) rfl, hb,
      Option.map_some, if_pos (holdsToken_of hbw he hf hx)]
  rw [warp?_of_blocks (replyEntry_kept s token fatal).blocks]
  exact warp?_of h1 (by simp [Block.reply, hbw])

theorem slot?_updSlot_same {s : State} {r : PathRef} {sl : Slot} (f : Slot → Slot) (h : s.slot? r = some sl) :
    (s.updSlot r f).slot? r = some (f sl) := by
  obtain ⟨w, hw, hs⟩ := Option.bind_eq_some_iff.1 h
  have := warp?_updWarp_same (fun w => { w with slots := w.slots.modify r.slot f }) hw
  simp only [State.slot?, State.updSlot, this, Option.bind_some, List.getElem?_modify_eq, hs, Option.map_eq_map, Option.map_some]

/-- A path that waits for the token goes on. -/
theorem replyPath_eq {s : State} {r : PathRef} {token : Nat} {sl : Slot} (fatal : Bool) (f : Slot → Slot) (hs : s.slot? r = some sl)
    (hw : sl.wait = .fetch token) :
    replyPath s r token fatal f = s.updSlot r (fun sl => if fatal then f { sl with wait := .ready } else { sl with wait := .ready }) := by
  simp only [replyPath, hs, hw, true_or, if_true]

/-- A reply to a logged entry: the token's waiter is gone, and the warp has the reply. -/
theorem fltReply_toEntry {s : State} {dk tag bid wi i : Nat} {v : Word} {w : Warp} {e : LogEnt} {x : Nat × BitVec 8}
    (h : (s.domain dk).waiters.get? (v.toNat % 2 ^ 31) = some (.logEnt tag)) (hw : s.warp? bid wi = some w) (he : w.log[i]? = some e)
    (hf : e.state ≠ .free) (hx : e.tokens.find? (fun y => y.1 == v.toNat % 2 ^ 31) = some x) :
    ((fltReply s dk v).domain dk).waiters.get? (v.toNat % 2 ^ 31) = none ∧
      (fltReply s dk v).warp? bid wi = some (w.reply (v.toNat % 2 ^ 31) (v.getLsbD 31)) := by
  rw [fltReply_logEnt h]
  refine ⟨?_, replyEntry_warp _ hw he hf hx⟩
  obtain ⟨-, -, hq⟩ := (replyEntry_kept (tokenTaken s dk (v.toNat % 2 ^ 31)) (v.toNat % 2 ^ 31) (v.getLsbD 31)).queues dk
  rw [hq]
  exact tokenTaken_waiters s dk _

/-- A reply to a fetch that faulted: the token's waiter is gone, and the path goes on, with the fault to raise if it is fatal. -/
theorem fltReply_toFetch {s : State} {dk bid wi k : Nat} {code : BitVec 8} {v : Word} {sl : Slot}
    (h : (s.domain dk).waiters.get? (v.toNat % 2 ^ 31) = some (.fetch bid wi k code))
    (hs : s.slot? { bid := bid, wi := wi, slot := k } = some sl) (hw : sl.wait = .fetch (v.toNat % 2 ^ 31)) :
    ((fltReply s dk v).domain dk).waiters.get? (v.toNat % 2 ^ 31) = none ∧
      (fltReply s dk v).slot? { bid := bid, wi := wi, slot := k } =
        some { sl with wait := .ready, fetchFault := if v.getLsbD 31 then some code else sl.fetchFault } := by
  have hs' : (tokenTaken s dk (v.toNat % 2 ^ 31)).slot? { bid := bid, wi := wi, slot := k } = some sl := hs
  rw [fltReply_fetch h, replyPath_eq _ _ hs' hw]
  refine ⟨tokenTaken_waiters s dk _, (slot?_updSlot_same _ hs').trans ?_⟩
  split <;> rfl

/-! ### Warps that change in place -/

/-- Each warp of each block is in its place, changed as `Q` says. -/
def AllWarpsTo (Q : Warp → Warp → Prop) (s t : State) : Prop :=
  ∀ bid wi w, s.warp? bid wi = some w → ∃ w', t.warp? bid wi = some w' ∧ Q w w'

section
variable {Q : Warp → Warp → Prop} {s t u : State}

theorem AllWarpsTo.of_eq (hQ : ∀ w, Q w w) (h : t.blocks = s.blocks) : AllWarpsTo Q s t :=
  fun bid wi w hw => ⟨w, (warp?_of_blocks h bid wi).trans hw, hQ w⟩

theorem AllWarpsTo.trans (hQ : ∀ {x y z}, Q x y → Q y z → Q x z) (h : AllWarpsTo Q s t) (h' : AllWarpsTo Q t u) : AllWarpsTo Q s u := by
  intro bid wi w hw
  obtain ⟨w1, hw1, h1⟩ := h bid wi w hw
  obtain ⟨w2, hw2, h2⟩ := h' bid wi w1 hw1
  exact ⟨w2, hw2, hQ h1 h2⟩

theorem AllWarpsTo.updWarp (hQ : ∀ w, Q w w) (bid wi : Nat) {f : Warp → Warp} (hf : ∀ w, Q w (f w)) : AllWarpsTo Q s (s.updWarp bid wi f) := by
  intro bid' wi' w hw
  obtain ⟨b, hb, hbw⟩ := block?_of_warp? hw
  by_cases h : bid' = bid
  · subst h
    obtain ⟨w', hw', hq⟩ := (WarpsTo.modify hQ hf wi b.warps).2 wi' w hbw
    exact ⟨w', warp?_of (State.block?_updWarp_same f hb) hw', hq⟩
  · exact ⟨w, warp?_of ((State.block?_updWarp_other f h).trans hb) hbw, hQ w⟩

theorem AllWarpsTo.thenUpd (hr : ∀ w, Q w w) (ht : ∀ {x y z}, Q x y → Q y z → Q x z) (h : AllWarpsTo Q s t) (bid wi : Nat) {f : Warp → Warp}
    (hf : ∀ w, Q w (f w)) : AllWarpsTo Q s (t.updWarp bid wi f) := h.trans ht (.updWarp hr bid wi hf)

theorem AllWarpsTo.thenEq (hr : ∀ w, Q w w) (ht : ∀ {x y z}, Q x y → Q y z → Q x z) (h : AllWarpsTo Q s t) (e : u.blocks = t.blocks) :
    AllWarpsTo Q s u := h.trans ht (.of_eq hr e)

end

/-! ### What a delivery and the end of a `waitv` leave of the log (R79, R394) -/

/-- The warp's exit is as it was, and an entry of its log that was free is empty still. -/
structure LogOnlyFreed (w w' : Warp) : Prop where
  done : w'.done = w.done
  log : ∀ j : Nat, w.log[j]? = some LogEnt.empty → w'.log[j]? = some LogEnt.empty

/-- The warp's exit and its log are as they were. -/
structure LogKept (w w' : Warp) : Prop where
  done : w'.done = w.done
  log : w'.log = w.log

theorem LogKept.refl (w : Warp) : LogKept w w := ⟨rfl, rfl⟩

theorem LogKept.trans {w w1 w2 : Warp} (h : LogKept w w1) (h' : LogKept w1 w2) : LogKept w w2 :=
  ⟨h'.done.trans h.done, h'.log.trans h.log⟩

theorem LogOnlyFreed.refl (w : Warp) : LogOnlyFreed w w := ⟨rfl, fun _ => id⟩

theorem LogOnlyFreed.trans {w w1 w2 : Warp} (h : LogOnlyFreed w w1) (h' : LogOnlyFreed w1 w2) : LogOnlyFreed w w2 :=
  ⟨h'.done.trans h.done, fun j => h'.log j ∘ h.log j⟩

theorem LogKept.onlyFreed {w w' : Warp} (h : LogKept w w') : LogOnlyFreed w w' := ⟨h.done, fun j hj => by rw [h.log]; exact hj⟩

theorem put32_logKept (w : Warp) (x : Opd) (m : Word) (f : Nat → Word) : LogKept w (w.put32 x m f) := by
  unfold Warp.put32
  split <;> exact ⟨rfl, rfl⟩

theorem putN_logKept (w : Warp) (x : Opd) (n : Nat) (m : Word) (f : Nat → BitVec 128) : LogKept w (w.putN x n m f) := by
  unfold Warp.putN
  split
  · exact ⟨rfl, rfl⟩
  · exact ⟨rfl, rfl⟩
  · exact List.foldlRecOn (motive := LogKept w) _ _ (.refl w) fun w' h j _ => h.trans (put32_logKept w' _ m _)

theorem freeLog_onlyFreed (w : Warp) (p : LogEnt → Bool) : LogOnlyFreed w (w.freeLog p) := by
  refine ⟨rfl, fun j hj => ?_⟩
  simp [Warp.freeLog, hj]

theorem waitvGoOn_logKept (w : Warp) (k tag : Nat) (next : DWord) : LogKept w (waitvGoOn w k tag next) := by
  unfold waitvGoOn
  split
  · split
    · obtain ⟨lv, c0, c1, h⟩ := loopEnd_rest 3 w next
      simp only [h]
      exact ⟨rfl, rfl⟩
    · exact .refl w
  · exact .refl w

theorem deliver_logKept (s : State) (tag : Nat) (m : Word) (f : Nat → BitVec 128) : AllWarpsTo LogKept s (deliver s tag m f) := by
  simp only [deliver]
  split
  · exact .of_eq .refl rfl
  · rename_i p _
    have h : AllWarpsTo LogKept s (s.updWarp p.bid p.wi (fun w => w.putN p.dst.opd p.dst.words (m &&& p.need) f)) :=
      .updWarp .refl _ _ fun w => putN_logKept w _ _ _ _
    split
    · have hm := h.thenUpd .refl .trans p.bid p.wi (f := fun w => w.markFull (p.dst.regs' ++ p.dst2.regs')) fun _ => ⟨rfl, rfl⟩
      exact hm.thenEq .refl .trans rfl
    · exact h.thenEq .refl .trans rfl

theorem deliverUndef_logKept (s : State) (tag : Nat) (m : Word) : AllWarpsTo LogKept s (deliverUndef s tag m) := by
  simp only [deliverUndef]
  refine AllWarpsTo.trans .trans ?_ (deliver_logKept _ tag m _)
  split
  · rename_i p _
    exact (AllWarpsTo.updWarp .refl p.bid p.wi fun w => putN_logKept w _ _ _ _).thenEq .refl .trans rfl
  · exact .of_eq .refl rfl

theorem AllWarpsTo.onlyFreed {s t : State} (h : AllWarpsTo LogKept s t) : AllWarpsTo LogOnlyFreed s t := by
  intro bid wi w hw
  obtain ⟨w', hw', hk⟩ := h bid wi w hw
  exact ⟨w', hw', hk.onlyFreed⟩

/-- What a satisfying read of an acquire does to the core first. -/
def waitvAcquired (s : State) (p : Pend) (met : Bool) : State :=
  if met && (p.order == .acq || p.order == .ar) && p.scope != .block then
    (match s.block? p.bid with | some b => acquireL1 s b.core | none => s) else s

theorem waitvAcquired_blocks (s : State) (p : Pend) (met : Bool) : (waitvAcquired s p met).blocks = s.blocks := by
  unfold waitvAcquired
  split
  · split <;> rfl
  · rfl

theorem waitvEnd_onlyFreed (s : State) (p : Pend) (met : Bool) : AllWarpsTo LogOnlyFreed s (waitvEnd s p met) := by
  have h1 : AllWarpsTo LogOnlyFreed s (waitvAcquired s p met) := .of_eq .refl (waitvAcquired_blocks s p met)
  have h2 := h1.thenUpd .refl .trans p.bid p.wi fun w => (waitvGoOn_logKept w p.slot p.tag (p.aux.get 0 64)).onlyFreed
  have h3 := h2.thenUpd .refl .trans p.bid p.wi fun w => freeLog_onlyFreed w (fun e => e.tag == p.tag)
  simp only [waitvEnd]
  refine AllWarpsTo.trans .trans ?_ (deliver_logKept _ _ _ _).onlyFreed
  exact h3.thenEq .refl .trans rfl

theorem waitvTry_onlyFreed (s : State) (tag : Nat) : AllWarpsTo LogOnlyFreed s (waitvTry s tag) := by
  have hs : AllWarpsTo LogOnlyFreed s s := .of_eq .refl rfl
  simp only [waitvTry]
  split
  · rename_i p _
    split
    · split
      · exact waitvEnd_onlyFreed s p true
      · split
        · split
          · exact waitvEnd_onlyFreed s p false
          · exact hs
        · exact hs
    · exact hs
  · exact hs

/-! ### Replay (R60, R64, R68) -/

/-- A logged matrix operation given up: its locks go, and it is done with its flags. -/
def matrixDropped (s : State) (b : Block) (bid wi : Nat) (e : LogEnt) : State :=
  if e.kind = 4 then
    (s.updCore b.core (fun c => c.unlock e.tag (fun _ => true))).updWarp bid wi
      (fun w => (w.opDone e.tag).setFlags ((e.data.get 0 0).extractLsb' 16 8 |>.setWidth 32))
  else s

/-- A `waitv` in flight may end now. -/
def waitvRetried (s : State) (tag : Nat) : State :=
  match s.pend? tag with
  | some p => (match p.kind with | .waitv _ _ => waitvTry s tag | _ => s)
  | none => s

/-- The lanes of a fatal entry are undefined, and the entry is free. -/
def entryFreed (s : State) (bid wi : Nat) (e : LogEnt) : State :=
  (deliverUndef s e.tag e.lanes).updWarp bid wi (fun w => w.freeLog (fun x => x == e))

/-- A fatal entry dropped, with what its instruction still held. -/
def fatalDropped (s : State) (b : Block) (bid wi : Nat) (e : LogEnt) : State :=
  waitvRetried (matrixDropped (entryFreed s bid wi e) b bid wi e) e.tag

theorem matrixDropped_logKept (s : State) (b : Block) (bid wi : Nat) (e : LogEnt) : AllWarpsTo LogKept s (matrixDropped s b bid wi e) := by
  unfold matrixDropped
  split
  · refine AllWarpsTo.thenUpd .refl .trans (.of_eq .refl rfl) bid wi fun w => ?_
    exact ⟨rfl, rfl⟩
  · exact .of_eq .refl rfl

theorem waitvRetried_onlyFreed (s : State) (tag : Nat) : AllWarpsTo LogOnlyFreed s (waitvRetried s tag) := by
  unfold waitvRetried
  split
  · split
    · exact waitvTry_onlyFreed s tag
    · exact .of_eq .refl rfl
  · exact .of_eq .refl rfl

theorem entryFreed_warp {s : State} {bid wi i : Nat} {w : Warp} {e : LogEnt} (hw : s.warp? bid wi = some w) (he : w.log[i]? = some e)
    (hf : e.state ≠ .free) :
    ∃ w', (entryFreed s bid wi e).warp? bid wi = some w' ∧ w'.done = w.done ∧ w'.log[i]? = some LogEnt.empty := by
  obtain ⟨w1, hw1, h1⟩ := deliverUndef_logKept s e.tag e.lanes bid wi w hw
  refine ⟨_, warp?_updWarp_same (fun w => w.freeLog (fun x => x == e)) hw1, h1.done, ?_⟩
  simp [Warp.freeLog, h1.log, he, hf]

/-- The deferred fault that a fatal entry becomes. -/
def LogEnt.deferred (e : LogEnt) : Deferred :=
  { code := e.code, kind := 2, pc := e.pc, lanes := e.lanes, addr := e.addr.get 0 (lowLane e.lanes), tag := e.tag, lane := e.lane }

theorem replayEntry_fatal {s : State} {bid wi i : Nat} {b : Block} {w : Warp} {e : LogEnt} (hb : s.block? bid = some b)
    (hw : b.warps[wi]? = some w) (he : w.log[i]? = some e) (hf : e.state = .fatal) :
    replayEntry s bid wi i = raiseDeferred (fatalDropped s b bid wi e) bid wi e.deferred := by
  have hd : replayDue w i = true := by simp [replayDue, he, hf]
  simp only [replayEntry, hb, warp?_of hb hw, he, hd, hf, Bool.true_eq_false, if_false, if_true]
  rfl

theorem fatalDropped_warp {s : State} {bid wi i : Nat} {w : Warp} {e : LogEnt} (b : Block) (hw : s.warp? bid wi = some w)
    (he : w.log[i]? = some e) (hf : e.state ≠ .free) :
    ∃ w', (fatalDropped s b bid wi e).warp? bid wi = some w' ∧ w'.done = w.done ∧ w'.log[i]? = some LogEnt.empty := by
  obtain ⟨w1, hw1, hd1, hl1⟩ := entryFreed_warp hw he hf
  obtain ⟨w2, hw2, h2⟩ := ((matrixDropped_logKept (entryFreed s bid wi e) b bid wi e).onlyFreed.trans .trans
    (waitvRetried_onlyFreed _ e.tag)) bid wi w1 hw1
  exact ⟨w2, hw2, h2.done.trans hd1, h2.log i hl1⟩

theorem raiseDeferred_live {s : State} {bid wi : Nat} {w : Warp} (hw : s.warp? bid wi = some w) (hd : w.done = false) (d : Deferred) :
    raiseDeferred s bid wi d = s.updWarp bid wi (fun w => { w with deferred := w.deferred ++ [d] }) := by
  simp only [raiseDeferred, hw, hd, Bool.false_eq_true, if_false]

theorem replayDue_of {w : Warp} {i : Nat} {e : LogEnt} (he : w.log[i]? = some e) (hs : e.state = .resolved)
    (ht : e.memfx = true → ∀ x ∈ w.log, x.state ≠ .free → x.memfx = true → e.seq ≤ x.seq) : replayDue w i = true := by
  simp only [replayDue, he, hs]
  cases hm : e.memfx with
  | false => rfl
  | true => simpa using ht hm

/-- The state in which an entry is being replayed. -/
def replayBegun (s : State) (bid wi i : Nat) (e : LogEnt) : State :=
  s.updWarp bid wi (fun w => { w with log := w.log.set i { e with state := .replaying } })

theorem core_updCore_same (s : State) (ck : Nat) (f : Core → Core) : (s.updCore ck f).core ck = f (s.core ck) := Tab.get_set_same ..

theorem replayEntry_matrix {s : State} {bid wi i : Nat} {b : Block} {w : Warp} {e : LogEnt} (hb : s.block? bid = some b)
    (hw : b.warps[wi]? = some w) (he : w.log[i]? = some e) (hs : e.state = .resolved) (hd : replayDue w i = true) (hk : e.kind = 4) :
    replayEntry s bid wi i = (replayBegun s bid wi i e).updCore b.core (fun c => { c with matq := c.matq ++ [replayOp b w wi e] }) := by
  simp [replayEntry, hb, warp?_of hb hw, he, hd, hs, hk, replayBegun]

/-- The request of a replayed lane: of an instruction whose value is read already it is answered at once. -/
def replayLaneReq (b : Block) (wi : Nat) (w : Warp) (e : LogEnt) (i : Nat) (tm : Tmpl) (x : Ins) (s : State) (l : Nat) : Req :=
  let r := replayReq b wi w e i tm l
  if x.instr = .hcopy ∨ e.order.getLsbD 8 then
    { r with kind := .refCas, replay := some i, stage := .answered, value := (e.data.get 0 l).setWidth 64 |>.setWidth 128, seq := s.nextId,
             fill := false }
  else r

theorem replayEntry_lanes {s : State} {bid wi i : Nat} {b : Block} {w : Warp} {e : LogEnt} {x : Ins} {tm : Tmpl}
    (hb : s.block? bid = some b) (hw : b.warps[wi]? = some w) (he : w.log[i]? = some e) (hs : e.state = .resolved)
    (hd : replayDue w i = true) (hk : e.kind ≠ 4) (hx : decodeWord e.enc = .ok x) (ht : tmplOf x = some tm) :
    replayEntry s bid wi i =
      (lanesOf e.lanes).foldl (fun s l => s.addReq (replayLaneReq b wi w e i tm x s l)) (replayBegun s bid wi i e) := by
  have hl : ∀ s l, s.addReq (replayLaneReq b wi w e i tm x s l) =
      if x.instr = .hcopy ∨ e.order.getLsbD 8 then
        answerNow s { replayReq b wi w e i tm l with kind := .refCas, replay := some i } ((e.data.get 0 l).setWidth 64 |>.setWidth 128)
      else s.addReq (replayReq b wi w e i tm l) := by
    intro s l
    unfold replayLaneReq
    dsimp only
    split <;> rfl
  simp [replayEntry, hb, warp?_of hb hw, he, hd, hs, hk, hx, ht, hl, replayBegun]

/-- Request `q` replays a lane of entry `i`, which its access `tm` describes. -/
structure Replays (b : Block) (wi : Nat) (w : Warp) (e : LogEnt) (i : Nat) (tm : Tmpl) (x : Ins) (q : Req) : Prop where
  tag : q.tag = e.tag
  core : q.core = b.core
  bid : q.bid = b.bid
  wi : q.wi = wi
  replay : q.replay = some i
  size : q.size = tm.size
  va : q.va = e.addr.get 0 q.lane
  secure : q.secure = w.secure
  priv : q.priv = w.priv
  sent : x.instr ≠ .hcopy → e.order.getLsbD 8 = false → q.kind = tm.kind ∧ q.stage = .toOwner

theorem replayLaneReq_lane (b : Block) (wi : Nat) (w : Warp) (e : LogEnt) (i : Nat) (tm : Tmpl) (x : Ins) (s : State) (l : Nat) :
    (replayLaneReq b wi w e i tm x s l).lane = l := by
  simp only [replayLaneReq]
  split <;> rfl

theorem replayLaneReq_replays (b : Block) (wi : Nat) (w : Warp) (e : LogEnt) (i : Nat) (tm : Tmpl) (x : Ins) (s : State) (l n : Nat) :
    Replays b wi w e i tm x { replayLaneReq b wi w e i tm x s l with id := n } := by
  simp only [replayLaneReq]
  split
  · rename_i h
    exact ⟨rfl, rfl, rfl, rfl, rfl, rfl, rfl, rfl, rfl, fun h1 h2 => (h.elim h1 fun h => Bool.false_ne_true (h2.symm.trans h)).elim⟩
  · exact ⟨rfl, rfl, rfl, rfl, rfl, rfl, rfl, rfl, rfl, fun _ _ => ⟨rfl, rfl⟩⟩

/-- Requests added one after the other. -/
theorem foldl_addReq {g : State → Nat → Req} {p : Req → Prop} (hl : ∀ s x, (g s x).lane = x) (hp : ∀ s x n, p { g s x with id := n }) :
    ∀ (l : List Nat) (s : State), (l.foldl (fun s x => s.addReq (g s x)) s).blocks = s.blocks ∧
      ∃ new, (l.foldl (fun s x => s.addReq (g s x)) s).reqs = s.reqs ++ new ∧ new.map (·.lane) = l ∧ ∀ q ∈ new, p q
  | [], s => ⟨rfl, [], by simp⟩
  | x :: l, s => by
    obtain ⟨hb, new, hr, hn, hq⟩ := foldl_addReq hl hp l (s.addReq (g s x))
    exact ⟨hb, { g s x with id := s.nextId } :: new, by simp [hr], by simp [hn, hl], List.forall_mem_cons.2 ⟨hp s x _, hq⟩⟩

theorem replayBegun_entry {s t : State} {bid wi i : Nat} {w : Warp} {e : LogEnt} (hw : s.warp? bid wi = some w) (he : w.log[i]? = some e)
    (ht : t.blocks = (replayBegun s bid wi i e).blocks) :
    ∃ w', t.warp? bid wi = some w' ∧ w'.log[i]? = some { e with state := .replaying } :=
  ⟨_, (warp?_of_blocks ht bid wi).trans (warp?_updWarp_same _ hw), List.getElem?_set_self (List.getElem?_eq_some_iff.1 he).1⟩

end Sys2Proof.Machine

section

open Sys2Proof Sys2Proof.Machine

/-- Settles O21: the fault goes to the handler, and handler entry changes the one warp as `enteredWarp` says. -/
theorem handlerEntrySavesTheFault : Obligations.HandlerEntrySavesTheFault := by
  unfold Obligations.HandlerEntrySavesTheFault
  intro s r b w sl f hb hw hs hh hc ht
  obtain ⟨l', h⟩ := enterHandler_onlyWarp f b.lrec.handler hb hw
  rw [takeFault_handler hb hw ⟨hh, hc, ht⟩]
  exact ⟨_, sl.entered b.lrec.handler, h, enteredWarp_csr hs f b.lrec.handler, enteredWarp_slot hs f b.lrec.handler, rfl, rfl, rfl, rfl, rfl, rfl,
    fun j hj => enteredWarp_otherSlot w hj f b.lrec.handler, rfl⟩

/-- Settles O22: the gang's blocks are terminated one after the other, which leaves the counts of the fault alone. -/
theorem faultRecordEndsTheGang : Obligations.FaultRecordEndsTheGang := by
  unfold Obligations.FaultRecordEndsTheGang
  intro s r b w g f hb hw hg hh
  refine ⟨takeFault_mem s r f, ?_⟩
  rw [takeFault_record hb hw hh]
  refine ⟨fun x hx hxg => ?_, fun x hx h => terminateGang_otherGang hx h, ?_⟩
  · obtain ⟨x', hx', hn, hp, hd⟩ := terminateGang_ended
      (s := countFault s b r.wi f.code f.kind f.lanes f.pc f.addr) hx hxg
    exact ⟨x', hx', hp, hn, hd⟩
  · obtain ⟨g1, hg1, hc, hf⟩ := countFault_counts hg r.wi f
    obtain ⟨g2, hg2, hk⟩ := terminateGang_faultCountsKept (countFault s b r.wi f.code f.kind f.lanes f.pc f.addr) b.gangId _ _ hg1
    obtain ⟨hkc, hkf⟩ := hk b.home
    refine ⟨g2, hg2, hkc ▸ hc, _, hkf.trans hf, fun h0 => ?_, fun h0 => ?_⟩
    · rw [h0]; exact ⟨rfl, rfl, rfl, rfl, rfl⟩
    · obtain ⟨f0, hf0⟩ := Option.ne_none_iff_exists'.1 h0
      rw [hf0]; rfl

/-- Settles O50: each event's effect, as the lemmas above say it for the case that the statement names. -/
theorem faultEventsHappen : Obligations.FaultEventsHappen := by
  unfold Obligations.FaultEventsHappen
  intro tok
  refine ⟨fun w d k => ?_, fun b w d => ?_, fun p b w => ⟨fun i => ?_, ?_⟩, fun h rest => ?_,
    ⟨?_, fun tag bid wi w i e x => ?_, fun bid wi k code sl => ?_⟩, fun b w e => ⟨?_, ?_, fun x tm => ?_⟩⟩
  -- DEFERRED_FAULT: the warp has a path
  · refine happens_of_event (fun _ => rfl) fun s a ⟨h0, hw, hdone, hd, hs, hf, hk⟩ => ?_
    obtain ⟨b, hb, hbw⟩ := block?_of_warp? hw
    rw [deliverDeferred_eq h0 hb hbw hd hs hf, hdone, hk]
    rfl
  -- DEFERRED_FAULT: the warp has exited
  · refine happens_of_event (fun _ => rfl) fun s a ⟨h0, hb, hw, hdone, hkilled, hd, hs, hf⟩ => ?_
    rw [deliverDeferred_eq h0 hb hw hd hs hf, hdone, hkilled]
    rfl
  -- OPERAND_LOG_ENTRY: the log has room
  · refine happens_of_event (fun _ => rfl) fun s a ⟨⟨hp, hb, hw, hd, hf, hu⟩, hl, hi⟩ => ?_
    obtain ⟨h0, toks, ht, hw'⟩ := logFaults_logged hp hb hw hd hl
    rw [if_pos (logDue_of hp hb hw hf hu (by simp [hl]))]
    refine ⟨h0, _, _, hw', List.getElem?_set_self hi, rfl, rfl, rfl, rfl, ht, rfl, fun r hr hk hlt => ?_, fun j hj => ?_, fun _ _ => rfl⟩
    · exact loggedEntry_lane p w _ a.k toks hr hk hlt
    · exact List.getElem?_set_ne hj.symm
  -- OPERAND_LOG_ENTRY: the log is full
  · refine happens_of_event (fun _ => rfl) fun s a ⟨⟨hp, hb, hw, hd, hf, hu⟩, hl, hn⟩ => ?_
    rw [if_pos (logDue_of hp hb hw hf hu (.inr hn))]
    exact logFaults_full hp hb hw hd hl hn
  -- HELD_FAULT_RECORD_WRITE
  · refine happens_of_event (fun _ => rfl) fun s a ⟨hh, ho⟩ => ?_
    rw [heldWrite_open hh ho, domain_updDomain_same]
    exact ⟨rfl, writeFaultRecord_fltq s a.k h.bytes, unitWrite_read s _ h.bytes⟩
  -- FLTREPLY: nobody waits
  · exact happens_of_event (fun _ => rfl) fun s a h => fltReply_ignored h
  -- FLTREPLY: a logged entry waits
  · refine happens_of_event (fun _ => rfl) fun s a ⟨hq, hw, he, hf, hx⟩ => ?_
    obtain ⟨h0, h1⟩ := fltReply_toEntry hq hw he hf hx
    exact ⟨h0, _, _, h1, reply_entry he _ _, LogEnt.reply_of _ hf hx⟩
  -- FLTREPLY: a fetching path waits
  · exact happens_of_event (fun _ => rfl) fun s a ⟨hq, hs, hw⟩ => fltReply_toFetch hq hs hw
  -- OPLOG_REPLAY: the entry is fatal
  · refine happens_of_event (fun _ => rfl) fun s a ⟨⟨hb, hw, he⟩, hf, hd⟩ => ?_
    obtain ⟨w', hw', hd', hl'⟩ := fatalDropped_warp b (warp?_of hb hw) he (by simp [hf])
    rw [replayEntry_fatal hb hw he hf, raiseDeferred_live hw' (hd'.trans hd)]
    exact ⟨_, warp?_updWarp_same _ hw', hl', e.deferred, by simp, rfl, rfl, rfl, rfl, rfl, rfl⟩
  -- OPLOG_REPLAY: a matrix operation
  · refine happens_of_event (fun _ => rfl) fun s a ⟨⟨⟨hb, hw, he⟩, hs, ht⟩, hk⟩ => ?_
    rw [replayEntry_matrix hb hw he hs (replayDue_of he hs ht) hk]
    exact ⟨rfl, by rw [core_updCore_same]; rfl, replayBegun_entry (warp?_of hb hw) he rfl⟩
  -- OPLOG_REPLAY: an access for each lane
  · refine happens_of_event (fun _ => rfl) fun s a ⟨⟨⟨hb, hw, he⟩, hs, ht⟩, hk, hx, htm⟩ => ?_
    rw [replayEntry_lanes hb hw he hs (replayDue_of he hs ht) hk hx htm]
    obtain ⟨hbl, new, hr, hn, hq⟩ := foldl_addReq (replayLaneReq_lane b a.i w e a.j tm x)
      (replayLaneReq_replays b a.i w e a.j tm x) (lanesOf e.lanes) (replayBegun s a.k a.i a.j e)
    refine ⟨replayBegun_entry (warp?_of hb hw) he hbl, new, hr, hn, fun q hm => ?_⟩
    have hr := hq q hm
    exact ⟨hr.tag, hr.core, hr.bid, hr.wi, hr.replay, hr.size, hr.va, hr.secure, hr.priv, hr.sent⟩

end
